-- ==== Sys2Proof/Word.lean ====
section
/-! DEFINITION. The machine's 32-bit lane word and the byte of memory. -/

namespace Sys2Proof

/-- A lane word of a vector register, an instruction word, a special register (R7, R35, R53). -/
abbrev Word := BitVec 32

/-- The ordering machine's unit of value (R235). -/
abbrev Byte := BitVec 8

end Sys2Proof
end

