-- ==== Sys2Proof/Config.lean ====
section
/-! DEFINITION. What the spec leaves to the implementation or leaves open: free values as opaque constants (nothing can
evaluate them), and the constants of the module that the spec states. -/

namespace Sys2Proof.Config

/-- A free word: the n-th value the spec leaves open (log 5). -/
opaque freeWord : Nat → BitVec 32

/-- A free choice of one bit, for a value that is "the old or the new one" (R47, R365; log 5). -/
opaque freeBit : Nat → Bool

/-- A free choice for one lane of a destination of a slice (R47; log 5). -/
opaque freeLane : (draw slice dst lane : Nat) → Bool

/-- Which tile size a block-format summary of a thread has, where its bytes are a multiple of both (R266; log 22). -/
opaque summaryTile : Nat → Bool

/-- The device's poisoned-value marker (R168; log 5). -/
opaque poisonedValue : Nat

/-- Plaintext read under key id `k'` of a 16-byte block written under key id `k` at `addr` (R377; log 6). -/
opaque decipher : (k k' addr : Nat) → BitVec 128 → BitVec 128

/-- What a correct boot image, certificate or signature holds (R401, R402; log 7). -/
opaque attestByte : (kind index offset : Nat) → BitVec 8

/-- SHA-384 with ECDSA P-384 under the device identity key (R402; log 7). -/
opaque sign : List (BitVec 8) → BitVec 768

/-- The Ethernet port that a message leaves by (R404; log 3). -/
opaque sendPort : Nat → BitVec 3

/-- Lanes of one slice (R204). -/
def lanesPerSlice : Nat := 4

/-- First Basin offset of the barrier area (R58, R259). -/
def basinTop : Nat := 0xF8000

/-- Barrier objects of one core (R259). -/
def barriers : Nat := 2048

/-- Queue capacities of R258: barge requests of a core, matrix commands of a core, Trestle commands of a cluster,
`sload` descriptors of the module. -/
def bargeQueue : Nat := 256
def matrixQueue : Nat := 16
def trestleQueue : Nat := 32
def quayQueue : Nat := 1024

/-- Records of a fault buffer (R367), entries of an access-counter cache (R370), of a cluster TLB (R364) and of a
device-side launch queue (R329). -/
def faultEntries : Nat := 4096
def counterEntries : Nat := 4096
def tlbEntries : Nat := 8192
def launchQueue : Nat := 256

/-- Device memory of the module (Table 0-1: 960 GB, a GB being 10^9 bytes as 00_scope.md has it), and the 64-byte lines that an L1, a path cache
and an aqueduct hold. -/
def hbmBytes : Nat := 960 * 10 ^ 9
def l1Lines : Nat := 4096
def pathLines : Nat := 1024
def aqLines : Nat := 786432

/-- The Quay engine's own area of device memory, in which it keeps PRP lists: its place is the model's (log 39). -/
def prpArea : Nat := hbmBytes - 2 ^ 38

/-- Registers of one quarter's backing (R213) and gang places of one quarter (R319). -/
def backing : Nat := 1536
def places : Nat := 12

/-- Physical clusters of the module and of a die (R399). -/
def clusters : Nat := 104
def clustersPerDie : Nat := 26

end Sys2Proof.Config
end

