-- ==== Sys2Proof/Syntax.lean ====
section
/-! DEFINITION. The instruction set as syntax: one constructor for each row of spec/opcode_table.json. The first
176 rows are the words of a program (chapters 4 to 6); the last 92 are the steps that the units beside the
slices, the host and the peers take (chapters 7 to 20), each carrying what the spec leaves to its agent. -/

namespace Sys2Proof

/-- The C, S and G fields of a word that may carry a guard (Table 2-1). -/
structure Hdr where
  chain : Bool
  stall : BitVec 3
  guard : BitVec 3
  deriving DecidableEq, Repr

/-- The C and S fields of a word whose guard is fixed at zero (Table 2-6). -/
structure Hd0 where
  chain : Bool
  stall : BitVec 3
  deriving DecidableEq, Repr

/-- The caches a Drop move may remove a copy from (R245). -/
inductive CacheName where
  | l1 | path | tile | aqueduct
  deriving DecidableEq, Repr

/-- One row of the opcode table each, in the table's order. Field names and widths are the table's. -/
inductive Instr where
  | nop (h : Hd0)
  | add (h : Hdr) (d : BitVec 6) (a : BitVec 6) (b : BitVec 6)
  | sub (h : Hdr) (d : BitVec 6) (a : BitVec 6) (b : BitVec 6)
  | mul (h : Hdr) (d : BitVec 6) (a : BitVec 6) (b : BitVec 6)
  | mulh (h : Hdr) (d : BitVec 6) (a : BitVec 6) (b : BitVec 6)
  | fma (h : Hdr) (d : BitVec 6) (a : BitVec 6) (b : BitVec 6)
  | min (h : Hdr) (d : BitVec 6) (a : BitVec 6) (b : BitVec 6)
  | max (h : Hdr) (d : BitVec 6) (a : BitVec 6) (b : BitVec 6)
  | unopAbs (h : Hdr) (d : BitVec 6) (a : BitVec 6)
  | unopNeg (h : Hdr) (d : BitVec 6) (a : BitVec 6)
  | unopNabs (h : Hdr) (d : BitVec 6) (a : BitVec 6)
  | unopSat (h : Hdr) (d : BitVec 6) (a : BitVec 6)
  | unopNot (h : Hdr) (d : BitVec 6) (a : BitVec 6)
  | addl (h : Hdr) (d : BitVec 6) (a : BitVec 6) (lit : BitVec 32)
  | movl (h : Hdr) (d : BitVec 6) (t : BitVec 4) (lit : BitVec 32)
  | movi (h : Hdr) (d : BitVec 6) (i : BitVec 12)
  | mov (h : Hdr) (d : BitVec 6) (a : BitVec 6)
  | sel (h : Hdr) (d : BitVec 6) (a : BitVec 6) (b : BitVec 6)
  | cmpEq (h : Hdr) (p : BitVec 3) (a : BitVec 6) (b : BitVec 6)
  | cmpNe (h : Hdr) (p : BitVec 3) (a : BitVec 6) (b : BitVec 6)
  | cmpLt (h : Hdr) (p : BitVec 3) (a : BitVec 6) (b : BitVec 6)
  | cmpLe (h : Hdr) (p : BitVec 3) (a : BitVec 6) (b : BitVec 6)
  | cmpGt (h : Hdr) (p : BitVec 3) (a : BitVec 6) (b : BitVec 6)
  | cmpGe (h : Hdr) (p : BitVec 3) (a : BitVec 6) (b : BitVec 6)
  | cmpUnord (h : Hdr) (p : BitVec 3) (a : BitVec 6) (b : BitVec 6)
  | cmpOrd (h : Hdr) (p : BitVec 3) (a : BitVec 6) (b : BitVec 6)
  | add64 (h : Hdr) (d : BitVec 6) (a : BitVec 6) (b : BitVec 6)
  | and (h : Hdr) (d : BitVec 6) (a : BitVec 6) (b : BitVec 6)
  | or (h : Hdr) (d : BitVec 6) (a : BitVec 6) (b : BitVec 6)
  | xor (h : Hdr) (d : BitVec 6) (a : BitVec 6) (b : BitVec 6)
  | andn (h : Hdr) (d : BitVec 6) (a : BitVec 6) (b : BitVec 6)
  | shl (h : Hdr) (d : BitVec 6) (a : BitVec 6) (b : BitVec 6)
  | shr (h : Hdr) (d : BitVec 6) (a : BitVec 6) (b : BitVec 6)
  | sar (h : Hdr) (d : BitVec 6) (a : BitVec 6) (b : BitVec 6)
  | rot (h : Hdr) (d : BitVec 6) (a : BitVec 6) (b : BitVec 6)
  | shli (h : Hdr) (d : BitVec 6) (a : BitVec 6) (i : BitVec 6)
  | shri (h : Hdr) (d : BitVec 6) (a : BitVec 6) (i : BitVec 6)
  | sari (h : Hdr) (d : BitVec 6) (a : BitVec 6) (i : BitVec 6)
  | bitsClz (h : Hdr) (d : BitVec 6) (a : BitVec 6)
  | bitsPopc (h : Hdr) (d : BitVec 6) (a : BitVec 6)
  | bitsBrev (h : Hdr) (d : BitVec 6) (a : BitVec 6)
  | bitsFfs (h : Hdr) (d : BitVec 6) (a : BitVec 6)
  | bitsByterev (h : Hdr) (d : BitVec 6) (a : BitVec 6)
  | bfx (h : Hdr) (d : BitVec 6) (a : BitVec 6) (pos : BitVec 6) (lit : BitVec 32)
  | bfi (h : Hdr) (d : BitVec 6) (a : BitVec 6) (pos : BitVec 6) (lit : BitVec 32)
  | dot4 (h : Hdr) (d : BitVec 6) (a : BitVec 6) (b : BitVec 6)
  | fnRcp (h : Hdr) (d : BitVec 6) (a : BitVec 6) (x : BitVec 1)
  | fnRsq (h : Hdr) (d : BitVec 6) (a : BitVec 6) (x : BitVec 1)
  | fnSqrt (h : Hdr) (d : BitVec 6) (a : BitVec 6) (x : BitVec 1)
  | fnExp2 (h : Hdr) (d : BitVec 6) (a : BitVec 6) (x : BitVec 1)
  | fnLog2 (h : Hdr) (d : BitVec 6) (a : BitVec 6) (x : BitVec 1)
  | fnTanh (h : Hdr) (d : BitVec 6) (a : BitVec 6) (x : BitVec 1)
  | fnSigm (h : Hdr) (d : BitVec 6) (a : BitVec 6) (x : BitVec 1)
  | fdiv (h : Hdr) (d : BitVec 6) (a : BitVec 6) (b : BitVec 6)
  | fscale (h : Hdr) (d : BitVec 6) (a : BitVec 6) (b : BitVec 6)
  | fcls (h : Hdr) (d : BitVec 6) (a : BitVec 6) (m : BitVec 6)
  | cvt (h : Hdr) (d : BitVec 6) (a : BitVec 6) (r : BitVec 2) (t : BitVec 4)
  | tag (h : Hdr) (d : BitVec 6) (a : BitVec 6) (t : BitVec 4)
  | qblk (h : Hdr) (d : BitVec 6) (a : BitVec 6) (k : BitVec 4)
  | unpb (h : Hdr) (d : BitVec 6) (a : BitVec 6) (k : BitVec 5)
  | frnd (h : Hdr) (d : BitVec 6) (a : BitVec 6) (r : BitVec 2)
  | shfli (h : Hdr) (d : BitVec 6) (a : BitVec 6) (b : BitVec 6)
  | shflx (h : Hdr) (d : BitVec 6) (a : BitVec 6) (i : BitVec 5)
  | shflu (h : Hdr) (d : BitVec 6) (a : BitVec 6) (i : BitVec 5)
  | shfld (h : Hdr) (d : BitVec 6) (a : BitVec 6) (i : BitVec 5)
  | ballot (h : Hdr) (d : BitVec 4) (k : BitVec 3)
  | voteAny (h : Hdr) (p : BitVec 3) (k : BitVec 3)
  | voteAll (h : Hdr) (p : BitVec 3) (k : BitVec 3)
  | voteUni (h : Hdr) (p : BitVec 3) (a : BitVec 6)
  | matchEq (h : Hdr) (d : BitVec 6) (a : BitVec 6)
  | redSum (h : Hdr) (d : BitVec 6) (a : BitVec 6)
  | redEsum (h : Hdr) (d : BitVec 6) (a : BitVec 6)
  | redMin (h : Hdr) (d : BitVec 6) (a : BitVec 6)
  | redMax (h : Hdr) (d : BitVec 6) (a : BitVec 6)
  | redAnd (h : Hdr) (d : BitVec 6) (a : BitVec 6)
  | redOr (h : Hdr) (d : BitVec 6) (a : BitVec 6)
  | redXor (h : Hdr) (d : BitVec 6) (a : BitVec 6)
  | scanSum (h : Hdr) (d : BitVec 6) (a : BitVec 6) (e : BitVec 1)
  | scanMin (h : Hdr) (d : BitVec 6) (a : BitVec 6) (e : BitVec 1)
  | scanMax (h : Hdr) (d : BitVec 6) (a : BitVec 6) (e : BitVec 1)
  | bcast (h : Hdr) (d : BitVec 6) (a : BitVec 6) (b : BitVec 6)
  | qopAnd (h : Hd0) (d : BitVec 4) (a : BitVec 4) (b : BitVec 4)
  | qopOr (h : Hd0) (d : BitVec 4) (a : BitVec 4) (b : BitVec 4)
  | qopXor (h : Hd0) (d : BitVec 4) (a : BitVec 4) (b : BitVec 4)
  | qopAndn (h : Hd0) (d : BitVec 4) (a : BitVec 4) (b : BitVec 4)
  | qopOrn (h : Hd0) (d : BitVec 4) (a : BitVec 4) (b : BitVec 4)
  | qopXnor (h : Hd0) (d : BitVec 4) (a : BitVec 4) (b : BitVec 4)
  | qopMov (h : Hd0) (d : BitVec 4) (a : BitVec 4)
  | qopNot (h : Hd0) (d : BitVec 4) (a : BitVec 4)
  | qopLsb (h : Hd0) (d : BitVec 4) (a : BitVec 4) (b : BitVec 4)
  | qopClrlsb (h : Hd0) (d : BitVec 4) (a : BitVec 4) (b : BitVec 4)
  | qi (h : Hd0) (d : BitVec 4) (i : BitVec 12)
  | qvToVector (h : Hd0) (d : BitVec 6) (a : BitVec 4)
  | qvToMask (h : Hd0) (d : BitVec 4) (a : BitVec 6)
  | pqToPredicate (h : Hdr) (p : BitVec 3) (a : BitVec 4)
  | pqToMask (h : Hdr) (d : BitVec 4) (k : BitVec 3)
  | compose (h : Hdr) (d : BitVec 6) (a : BitVec 6) (b : BitVec 6)
  | bra (h : Hdr) (o : BitVec 18)
  | join (h : Hd0)
  | brx (h : Hdr) (a : BitVec 6)
  | call (h : Hdr) (l : BitVec 3) (o : BitVec 15)
  | callx (h : Hdr) (l : BitVec 3) (a : BitVec 6)
  | ret (h : Hd0)
  | callv (h : Hdr) (l : BitVec 3) (o : BitVec 3) (va : BitVec 6) (vb : BitVec 6) (sg : BitVec 3) (off : BitVec 29)
  | vqual (h : Hd0) (a : BitVec 6)
  | regang (h : Hd0)
  | exit (h : Hdr)
  | trap (h : Hdr) (i : BitVec 12)
  | rft (h : Hd0)
  | region (h : Hd0) (i : BitVec 12)
  | hint (h : Hd0) (a : BitVec 6) (lo : BitVec 32) (hi : BitVec 32)
  | rolesw (h : Hd0) (n : BitVec 2)
  | stage (h : Hd0)
  | sleep (h : Hd0) (a : BitVec 6)
  | sleepC (h : Hd0) (b : BitVec 6) (a : BitVec 6)
  | wait (h : Hd0) (p : BitVec 6) (a : BitVec 6)
  | waitCnt (h : Hd0) (a : BitVec 6)
  | macroOp (h : Hd0) (p : BitVec 6) (va : BitVec 6) (vb : BitVec 6) (vc : BitVec 6) (vd : BitVec 6)
  | csrr (h : Hdr) (d : BitVec 6) (i : BitVec 12)
  | csrw (h : Hd0) (d : BitVec 6) (i : BitVec 12)
  | stepend (h : Hd0)
  | qpush (h : Hdr) (a : BitVec 6) (p : BitVec 3) (n : BitVec 3)
  | qpop (h : Hdr) (d : BitVec 6) (p : BitVec 3) (n : BitVec 3)
  | segwBase (h : Hd0) (a : BitVec 6) (e : BitVec 3)
  | segwLimit (h : Hd0) (a : BitVec 6) (e : BitVec 3)
  | segrBase (h : Hdr) (d : BitVec 6) (e : BitVec 3)
  | segrLimit (h : Hdr) (d : BitVec 6) (e : BitVec 3)
  | tlbi (h : Hd0) (a : BitVec 6)
  | tlbiAsid (h : Hd0) (a : BitVec 6)
  | tlbiAll (h : Hd0)
  | mcsld (h : Hd0) (a : BitVec 6) (p : BitVec 6)
  | dbrk (h : Hd0) (i : BitVec 12)
  | pause (h : Hd0) (i : BitVec 12)
  | ldb (h : Hdr) (d : BitVec 6) (a : BitVec 6) (e : BitVec 3) (t : BitVec 3)
  | ldh (h : Hdr) (d : BitVec 6) (a : BitVec 6) (e : BitVec 3) (t : BitVec 3)
  | ldw (h : Hdr) (d : BitVec 6) (a : BitVec 6) (e : BitVec 3) (t : BitVec 3)
  | ldd (h : Hdr) (d : BitVec 6) (a : BitVec 6) (e : BitVec 3) (t : BitVec 3)
  | ldc (h : Hdr) (d : BitVec 6) (a : BitVec 6) (t : BitVec 3)
  | ldt (h : Hdr) (d : BitVec 6) (a : BitVec 6) (e : BitVec 3) (t : BitVec 3)
  | stb (h : Hdr) (d : BitVec 6) (a : BitVec 6) (e : BitVec 3)
  | sth (h : Hdr) (d : BitVec 6) (a : BitVec 6) (e : BitVec 3)
  | stw (h : Hdr) (d : BitVec 6) (a : BitVec 6) (e : BitVec 3)
  | std (h : Hdr) (d : BitVec 6) (a : BitVec 6) (e : BitVec 3)
  | atomAdd (h : Hdr) (d : BitVec 6) (a : BitVec 6) (e : BitVec 3)
  | atomMin (h : Hdr) (d : BitVec 6) (a : BitVec 6) (e : BitVec 3)
  | atomMax (h : Hdr) (d : BitVec 6) (a : BitVec 6) (e : BitVec 3)
  | atomAnd (h : Hdr) (d : BitVec 6) (a : BitVec 6) (e : BitVec 3)
  | atomOr (h : Hdr) (d : BitVec 6) (a : BitVec 6) (e : BitVec 3)
  | atomXor (h : Hdr) (d : BitVec 6) (a : BitVec 6) (e : BitVec 3)
  | atomExch (h : Hdr) (d : BitVec 6) (a : BitVec 6) (e : BitVec 3)
  | atomAddwrap (h : Hdr) (d : BitVec 6) (a : BitVec 6) (e : BitVec 3)
  | cas (h : Hdr) (d : BitVec 6) (a : BitVec 6) (e : BitVec 3)
  | asum (h : Hdr) (d : BitVec 6) (a : BitVec 6) (e : BitVec 3)
  | srd (h : Hdr) (d : BitVec 6) (a : BitVec 6) (e : BitVec 3)
  | fenceAcq (h : Hd0)
  | fenceRel (h : Hd0)
  | fenceAcqrel (h : Hd0)
  | fencePath (h : Hd0) (m : BitVec 2)
  | fenceEng (h : Hd0)
  | kick (h : Hd0) (d : BitVec 6) (a : BitVec 6) (b : BitVec 6)
  | binit (h : Hd0) (d : BitVec 6) (a : BitVec 6)
  | barr (h : Hd0) (d : BitVec 6) (a : BitVec 6) (b : BitVec 6)
  | btest (h : Hd0) (d : BitVec 6) (a : BitVec 6) (f : BitVec 6)
  | trst (h : Hd0) (a : BitVec 6)
  | legal (h : Hdr) (d : BitVec 6) (a : BitVec 6) (b : BitVec 6)
  | dist (h : Hdr) (d : BitVec 6) (a : BitVec 6) (b : BitVec 6)
  | topk (h : Hdr) (d : BitVec 6) (a : BitVec 6) (b : BitVec 6)
  | rng (h : Hdr) (d : BitVec 6) (a : BitVec 6) (b : BitVec 2) (p : BitVec 4)
  | sload (h : Hd0) (a : BitVec 6) (n : BitVec 6)
  | nsend (h : Hd0) (a : BitVec 6) (n : BitVec 6)
  | mfrd (h : Hdr) (d : BitVec 6) (a : BitVec 6) (i : BitVec 6)
  | mfwr (h : Hdr) (d : BitVec 6) (a : BitVec 6) (i : BitVec 6)
  | mfopAppend (h : Hdr) (d : BitVec 6) (a : BitVec 6)
  | mfopRollback (h : Hdr) (d : BitVec 6) (a : BitVec 6)
  | mfopFinish (h : Hdr) (d : BitVec 6) (a : BitVec 6)
  | mfopFault (h : Hdr) (d : BitVec 6) (a : BitVec 6)
  | trapEntry (gang : Nat)
  | breakpointStop (gang slice : Nat)
  | regangRelease (gang : Nat)
  | retRendezvous (gang inst : Nat)
  | sleepWake (gang slice : Nat)
  | waitRelease (gang slice : Nat)
  | pauseEnd (gang slice : Nat)
  | engineQueueRoom (gang slice : Nat)
  | fenceEngJoin (gang slice : Nat)
  | stageItemTaken (gang : Nat)
  | poundClose (launch : Nat)
  | roleSwitchBacking (gang : Nat)
  | moveRegister (gang slice : Nat)
  | moveAtomic (gang slice : Nat)
  | moveReleaseComplete (gang slice : Nat)
  | moveWriteBack (die key : Nat)
  | moveFill (core asid va : Nat)
  | moveDrop (cache : CacheName) (unit key : Nat)
  | engineAccess (thread unit : Nat)
  | landing (thread unit : Nat)
  | followOnFire (thread : Nat)
  | matrixOpen (core : Nat)
  | matrixAccumulate (core : Nat)
  | matrixClose (core : Nat)
  | trestleThread (thread : Nat)
  | nvmeCompletion (thread cmd status : Nat) (data : List (BitVec 8))
  | quayTimeout (thread : Nat)
  | messageAcknowledged (thread : Nat)
  | messageUndeliverable (thread : Nat)
  | messageArrival (asid tag source : Nat) (payload : List (BitVec 8))
  | barrierDeadlock (core barrier : Nat)
  | towSpill (gang slice : Nat)
  | towRefill (gang slice : Nat)
  | compaction (core quarter : Nat)
  | launchDequeue
  | gangPlacement (launch : Nat)
  | gangStart (gang : Nat)
  | launchEnd (launch : Nat)
  | sluiceDoorbell (q tail : Nat)
  | sluiceLaunch (q : Nat)
  | sluiceWait (q : Nat)
  | sluiceSignal (q : Nat)
  | sluiceArm (q : Nat)
  | sluiceDisarm (q : Nat)
  | semaphoreRetest (q : Nat)
  | sluiceErrorClear (q : Nat)
  | rotationInterrupt
  | lockEnable (reach : Nat) (value : BitVec 64)
  | lockDisable (reach : Nat)
  | subtailWrite (reach : Nat) (value : BitVec 32)
  | stepFinished (reach : Nat)
  | lockRetire (reach : Nat)
  | lockReserve (reach : Nat)
  | lockAdmit (reach : Nat)
  | lockPublish (reach : Nat)
  | lockPush (reach : Nat)
  | invalidatePage (va asid : Nat)
  | invalidateAsid (asid : Nat)
  | invalidateAll
  | invalidationComplete
  | replayParkId (die id : Nat) (cancel : Bool)
  | replayAsid (die asid : Nat) (cancel : Bool)
  | replayDie (die : Nat) (cancel : Bool)
  | overflowClear (die : Nat)
  | peerRequest (node asid va : Nat) (store : Bool) (data : List (BitVec 8))
  | hostAccess (space : Nat) (addr : Nat) (store : Bool) (data : List (BitVec 8))
  | preempt (asid : Nat)
  | preemptDeadline
  | saveComplete
  | contextRestore (asid : Nat)
  | controlStoreReplace (core : Nat)
  | watchdogExpiry (asid : Nat)
  | powerRecompute (throttled : List Nat) (average : Nat)
  | powercapWrite (value : BitVec 32)
  | pcSample (core : Nat)
  | triggerLine (line : Nat)
  | hostStopRequest (gang : Nat)
  | hostResume (gang : Nat)
  | scrub (die struct severity core : Nat) (addr : Nat)
  | retirementRequest (cluster : Nat)
  | securityVersionRaise (version : Nat)
  | moduleReset (imagesVerified : Bool) (version : Nat)
  | getVersion
  | getCapabilities
  | negotiateAlgorithms (ecdsaP384 sha384 : Bool)
  | getCertificate (slot offset length : Nat)
  | challenge (nonce : BitVec 256)
  | getMeasurements (index : Nat)
  | linkTraining (width rate : Nat)
  | portLinkChange (port : Nat) (up : Bool) (rate : Nat)
  | registerWrite (off size : Nat) (value : BitVec 64)
  | sluiceMap (q : Nat) (mapped : Bool)
  deriving DecidableEq, Repr

end Sys2Proof
end

