-- ==== Sys2Proof/Machine/State.lean ====
section
/-! DEFINITION. The state of the whole module as plain data: every piece of architectural state the spec names
(INVENTORY.md lists them by rule), and the few fields that are the model's own, marked so. -/

namespace Sys2Proof.Machine

/-- A sparse map in key order; a missing key holds the default its reader names. -/
abbrev FMap (α : Type) := List (Nat × α)

/-- Format tags (Table 1-1); code 15 is no tag (R8). -/
inductive Tag where
  | raw | i32 | u32 | f32 | f16x2 | bf16x2 | i16x2 | i8x4 | u8x4 | e4m3x4 | e5m2x4 | blk | idx | scl | a64
  deriving DecidableEq, Repr

/-- One slice's share of a vector register: four lane words, the slice's tag, a poison bit per lane, and the lane words that hold an
uncorrectable error which no read has met (R7, R51, R79, R216, R293). -/
structure Reg where
  l0 : Word
  l1 : Word
  l2 : Word
  l3 : Word
  tag : Tag
  poison : BitVec 4
  flaw : BitVec 4
  deriving DecidableEq, Repr

/-- An entry of a reconvergence stack (R133). -/
structure StackEntry where
  pc : Word
  nt : BitVec 4
  full : BitVec 4
  pending : Bool
  deriving DecidableEq, Repr

/-- Kinds of frame (Table 7-2). -/
inductive FrameKind where
  | call | callv | trap
  deriving DecidableEq, Repr

/-- A `callv` frame's budgets, gauges and reports (R338, R343); `away` is the model's own count of cycles its context had
been off the device when the frame began (R338, resident cycles), `hot` marks a block written after its record was. -/
structure VBlock where
  table : Nat
  tb0 : Word
  eb0 : Word
  start : Nat
  energy : Nat
  qf : Word
  reported : Option Nat
  entry : Nat
  frozen : Bool
  probe : Bool
  away : Nat
  hot : Bool
  deriving DecidableEq, Repr

/-- A frame's linkage (R137, R217, Table 7-2) and whether its registers stand on the towpath (R218). -/
structure Frame where
  kind : FrameKind
  ret : Word
  inst : Nat
  stk : Nat
  mask : BitVec 4
  slide : Nat
  spilled : Bool
  vb : Option VBlock
  deriving DecidableEq, Repr

/-- What a slice waits for at a waiting word (R124, R151–R153, R182, R298). -/
inductive Wait where
  | regang
  | ret
  | sleep (wake : Nat)
  | sleepC (wake barrier : Nat) (spanned : Bool)
  | wait (barrier : Nat) (phase : Bool)
  | waitCnt (barrier : Nat)
  | pause (till : Nat)
  | stage (since : Nat)
  | rolesw (role : Nat)
  | fenceEng
  | queue
  deriving DecidableEq, Repr

/-- Why a slice is parked (R296, R367). -/
inductive ParkKind where
  | lanes | fetch | tow | table
  deriving DecidableEq, Repr

/-- A parked word (R165): its index, the lanes still to perform, the park ids on its die not yet released (one for each
faulting page, R367). -/
structure Park where
  widx : Word
  pmask : BitVec 4
  ids : List Nat
  die : Nat
  kind : ParkKind
  deriving DecidableEq, Repr

/-- What `region` records (R294). -/
structure Region where
  mask : BitVec 4
  stack : List StackEntry
  dix : BitVec 64
  n : Nat
  deriving DecidableEq, Repr

/-- A destination of R40. -/
inductive Dst where
  | v (storage : Nat)
  | p (k : Nat)
  | q (k : Nat)
  | csr (id : Nat)
  deriving DecidableEq, Repr

/-- One open trap level (R208, R292, R294): `wdep` and stack depth at entry, the region it suspended, the park, the next
word and the operation of a `macro` (R62) that the slice returns to, the word it stood at and whether it waited there; `replay`,
`alone` and `olds` as the slice held them. -/
structure TrapLevel where
  depth : Nat
  stk : Nat
  region : Option Region
  park : Option Park
  word : Word
  waited : Bool
  replay : Option (BitVec 4)
  alone : Bool
  olds : List (Dst × Reg)
  next : Word
  rest : List (Word × BitVec 4)
  macroAt : Option (Word × Nat)
  deriving DecidableEq, Repr

/-- A fixed-latency result not yet readable, with the value it replaces and the lanes it wrote (R45, R47). -/
structure Flight where
  dst : Dst
  ready : Nat
  old : Reg
  mask : BitVec 4
  deriving DecidableEq, Repr

/-- Kinds of entry of PEND (R241, R247). -/
inductive PendKind where
  | store
  | atom (op : Nat)
  | cas
  | asum
  | release
  deriving DecidableEq, Repr

/-- An entry of PEND(s) (Table 8-4): the access, its data, its destination register and the word that took it (R180); for a
release the region open then, with the number of trap levels open and its START (R145, R295). Entries of one word carry
its `stamp` (R167). -/
structure Pend where
  kind : PendKind
  pa : Nat
  size : Nat
  data : Nat
  data2 : Nat
  va : Nat
  kid : Nat
  counted : Bool
  widx : Nat
  lane : Nat
  dst : Nat
  tag : Tag
  region : Option (Nat × Word × Region)
  stamp : Nat
  deriving DecidableEq, Repr

/-- A release whose write-back failed: the word it could not write, the store that dirtied it, the releasing word, the region
open when that word issued (R180, R295). -/
structure Failed where
  va : Nat
  store : Nat
  widx : Nat
  region : Option (Nat × Word × Region)
  deriving DecidableEq, Repr

/-- One slice of a gang (R205, Table 2-8, R294). `macroAt` names the `macro` word under way and its next operation (R62);
`next` the word that a parked, waiting or `macro` word
goes on to; `rest` the words of its chain, with their lanes, that it performs alone before that, and `olds` what its chain found in the
destinations of its words, while one of them has still to perform (R41). `replay` holds the lanes of a word that issues alone, `alone`
marks one that an earlier word of its chain held back, `again` a waiting word that issues again (R124); `bank` is the cycle until which bank conflicts hold it (R169), `issuedAt` one more than the cycle in
which it issued last. -/
structure Slice where
  pc : Word
  mask : BitVec 4
  live : BitVec 4
  stack : List StackEntry
  wb : Nat
  frames : List Frame
  towPtr : Nat
  regs : FMap Reg
  wait : Option Wait
  next : Word
  park : Option Park
  replay : Option (BitVec 4)
  again : Bool
  alone : Bool
  olds : List (Dst × Reg)
  rest : List (Word × BitVec 4)
  macroAt : Option (Word × Nat)
  stream : Nat
  ready : Nat
  bank : Nat
  issuedAt : Nat
  readySince : Nat
  flights : List Flight
  dix : BitVec 64
  cycHi : Option Word
  dixHi : Option Word
  vsel : Word
  tb0 : Word
  eb0 : Word
  qf : Word
  tcause : Word
  tpc : Word
  amask : Word
  tmask : Word
  tinfo : Word
  tinfo2 : Word
  tregion : Word
  pmask : Word
  levels : List TrapLevel
  region : Option Region
  reserve : Bool
  pend : List Pend
  forked : List Nat
  failed : Option Failed
  urd : Word
  bcf : Word
  hint : Option (BitVec 64)
  hintBasin : Word
  halted : Bool
  deriving DecidableEq, Repr

/-- A segment's base and limit (R57). -/
structure Seg where
  base : BitVec 64
  limit : BitVec 64
  deriving DecidableEq, Repr

/-- A role switch that a gang whose slices have met at `stage` waits for, with the item it took (R148, R149). -/
structure GangWait where
  role : Nat
  item : Nat
  deriving DecidableEq, Repr

/-- A stop record (Table 10-6), with the masks of a refused trap (R215). -/
structure Stop where
  reason : Nat
  slice : Nat
  widx : Word
  info : Word
  hit : Word
  cyc : Nat
  addr : Nat
  tcause : Word
  tpc : Word
  amask : Word
  tmask : Word
  deriving DecidableEq, Repr

/-- One resident gang (R54, R204, R212, Table 2-8). -/
structure Gang where
  launch : Nat
  asid : Nat
  reach : Nat
  system : Bool
  index : Nat
  count : Nat
  slices : FMap Slice
  role : Nat
  cls : Nat
  base : Nat
  allot : Nat
  core : Nat
  quarter : Nat
  place : Nat
  codeBase : Nat
  codeLimit : Nat
  handler : Nat
  towBase : Nat
  towSize : Nat
  roles : Nat
  preds : FMap Word
  masks : FMap Word
  fpmode : Word
  schk : Bool
  frag : Bool
  mix : Nat
  seed : BitVec 64
  rngs : BitVec 64
  lgl : Word
  pmiss : Word
  grp : Word
  berth : Word
  step : Word
  launchId : Word
  segs : FMap Seg
  energy : Nat
  instNo : Nat
  streamNo : Nat
  instReports : FMap Nat
  gwait : Option GangWait
  stop : Option Stop
  passBreak : Option Word
  passWatch : Option Word
  paused : Nat
  away : Nat
  started : Bool
  deriving DecidableEq, Repr

/-- A role entry of a launch image (Table 13-2). -/
structure Role where
  entry : Nat
  allot : Nat
  cls : Nat
  gangs : Nat
  inp : Option Nat
  out : Option Nat
  tags : Nat
  args : List Word
  deriving DecidableEq, Repr

/-- A pound entry of a launch image (Table 13-3). -/
structure PoundDesc where
  ring : Nat
  cap : Nat
  init : Nat
  valid : Bool
  deriving DecidableEq, Repr

/-- A group of a launch (Table 7-1). -/
structure Group where
  id : Nat
  together : Bool
  members : List Nat
  deriving DecidableEq, Repr

/-- A launch image that passed its checks (R312). -/
structure Image where
  frag : Bool
  gangs : Nat
  slices : Nat
  cls : Nat
  basin : Nat
  codeBase : Nat
  codeLimit : Nat
  handler : Nat
  towBase : Nat
  towSize : Nat
  segs : FMap Seg
  seed : BitVec 64
  rngs : BitVec 64
  basinImage : Nat
  basinBytes : Nat
  roles : List Role
  pounds : List PoundDesc
  groups : List Group
  deriving DecidableEq, Repr

/-- Who queued a launch (R323, R328, R329). -/
inductive LaunchSource where
  | sluice (q seq : Nat)
  | lock (reach : Nat)
  | armed (key slot : Nat)
  deriving DecidableEq, Repr

/-- Where a launch stands (R312, R319, R326). -/
inductive LaunchState where
  | queued
  | reading
  | placing
  | finished (code : Nat)
  deriving DecidableEq, Repr

/-- Head and tail counts of a pound and whether it is closed (R313, R317). -/
structure Pound where
  head : Nat
  tail : Nat
  closed : Bool
  deriving DecidableEq, Repr

/-- A launch (R312–R328). `placed` is the first gang not yet placed in ascending order, `cores` maps a placed LOCAL gang to
its core, `loaded` lists the cores that hold the Basin image, `held` maps a core whose Basin image copy waits at a fault to
its park id, `lost` lists those whose copy was cancelled, `code` is the failure it reports when its gangs have ended,
`berths` the berth, manifest and STREAM of each gang of a step (R354). -/
structure Launch where
  id : Word
  asid : Nat
  reach : Nat
  source : LaunchSource
  image : Nat
  grid : Nat
  img : Option Image
  state : LaunchState
  gangs : Nat
  placed : Nat
  ended : Nat
  cores : FMap Nat
  loaded : List Nat
  held : FMap Nat
  lost : List Nat
  code : Nat
  park : Option Nat
  pounds : FMap Pound
  doneVa : Nat
  doneVal : BitVec 64
  step : Word
  berths : List (Nat × Nat × Nat)
  offset : Option Nat
  late : FMap Nat
  reported : Bool
  deriving DecidableEq, Repr

/-- Kinds of engine thread (R251). -/
inductive ThreadKind where
  | barge | matrix | trestle | quay | send
  deriving DecidableEq, Repr

/-- An engine thread (Table 8-4 ENG, R251, R252, R265): its record, who forked it, the bytes read into its buffer, those
written, the units landed, the 64-byte units its access counters have seen, the accesses held (each with its park id and
its faulting page), the place of its gang, and how it ended: `some 0` for a thread that completed, else its fault code. `fired`
is set once the outputs of a command are formed. `todo` lists the words that a command has still to read, by their keys, `steps` counts
its K-steps (R273), `asked` the commands of a drive read that its drive has, `status` what the drive reported of them (R282). -/
structure Thread where
  kind : ThreadKind
  record : List Byte
  gang : Nat
  slice : Nat
  launch : Nat
  asid : Nat
  core : Nat
  widx : Nat
  index : Nat
  earlier : List Nat
  barrier : Nat
  buffer : FMap Byte
  poisoned : List Nat
  wrote : List Nat
  landed : List Nat
  counted : List Nat
  parks : FMap (Nat × Nat)
  gindex : Nat
  quarter : Nat
  ended : Option Nat
  started : Nat
  fired : Bool
  todo : List Nat
  steps : Nat
  asked : Nat
  status : FMap Nat
  deriving DecidableEq, Repr

/-- A copy of one word in an L1 or path cache (Table 8-4): which of its bytes are present (R242), the owning gang, the VA it was
brought in under (R364), the key id of the line (R376), and whether it was brought in with an uncorrectable error (R168). -/
structure Copy where
  val : Word
  kept : BitVec 4
  owner : Option Nat
  va : Nat
  kid : Nat
  bad : Bool
  deriving DecidableEq, Repr

/-- A slice whose store dirtied a word of an aqueduct (R247, R248, R180): its gang and context, the VA and the word index of its
last store there. -/
structure Dirtier where
  gang : Nat
  slice : Nat
  asid : Nat
  va : Nat
  widx : Nat
  deriving DecidableEq, Repr

/-- A word of an aqueduct (Table 8-4, R234, R248): which of its bytes are present and dirty, the key id it was read under (R376),
who dirtied it (the last first), and whether one store of the whole word is among what it holds dirty (R396). -/
structure AqWord where
  val : Word
  kept : BitVec 4
  dirty : BitVec 4
  whole : Bool
  kid : Nat
  dirtied : List Dirtier
  deriving DecidableEq, Repr

/-- One accumulator of a slot (R22, R25, R26): its sum, its anchor, its flags, the F32 bits of its first NaN, and its share of
the checksum of R274. -/
structure Acc where
  sum : Int
  anchor : Int
  ovf : Bool
  nan : Option Word
  pinf : Bool
  ninf : Bool
  check : Nat
  deriving DecidableEq, Repr

/-- An accumulator slot (R271, R272); `flaw` when its accumulators hold an uncorrectable error (R394). -/
structure Slot where
  opened : Bool
  tag : Tag
  m : Nat
  n : Nat
  ktotal : Nat
  ksum : Nat
  cmds : List (List Byte)
  ea : List Int
  eb : List Int
  acc : FMap Acc
  replayed : Bool
  flaw : Bool
  deriving DecidableEq, Repr

/-- A microprogram of a control store (R60, R61). -/
structure Micro where
  valid : Bool
  ops : List (BitVec 64)
  deriving DecidableEq, Repr

/-- PC-sample settings of a core (R303). -/
structure Sampler where
  shift : Nat
  ring : Nat
  size : Nat
  head : Nat
  get : Nat
  drops : Nat
  turn : Nat
  frozen : Bool
  deriving DecidableEq, Repr

/-- One core (Table 0-1, Table 8-4); `context` is the one that its barrier area, summaries and slots serve, and
how often that one had been created (R259, R266, R320). -/
structure Core where
  l1 : FMap Copy
  pc : FMap Copy
  pt : FMap Copy
  store : FMap Micro
  loading : FMap Micro
  summary : FMap Int
  slots : FMap Slot
  barrierLaunch : FMap Nat
  context : Option (Nat × Nat)
  matrixQueue : List Nat
  matrixStep : Nat
  sampler : Option Sampler
  deriving DecidableEq, Repr

/-- One entry of a cluster's TLB (R364). -/
structure TlbEntry where
  asid : Nat
  va : Nat
  size : Nat
  leaf : BitVec 64
  deriving DecidableEq, Repr

/-- One cluster: its TLB. -/
structure Cluster where
  tlb : List TlbEntry
  deriving DecidableEq, Repr

/-- A counter of the access-counter cache (R370): space, node, granule. -/
structure Counter where
  space : Nat
  node : Nat
  granule : Nat
  asid : Nat
  count : Nat
  deriving DecidableEq, Repr

/-- One die: aqueduct, fault buffer (Table 16-6), notification queue (Table 16-7), error ring (Table 20-2). `owed` are the notifications that
accesses of gangs have counted out, which are written once those gangs' words have performed (R389). -/
structure Die where
  aq : FMap AqWord
  fbBase : BitVec 64
  fbHead : Word
  fbGet : Word
  undelivered : Nat
  overflow : Bool
  replayReg : BitVec 64
  parkNo : Nat
  nqBase : BitVec 64
  nqSize : Word
  nqHead : Word
  nqGet : Word
  nqDrop : Word
  thresh : Nat
  counters : List Counter
  erBase : BitVec 64
  erSize : Word
  erHead : Word
  erGet : Word
  erDrop : Word
  scrub : Nat
  correctable : FMap Nat
  owed : List (Nat × Counter)
  deriving DecidableEq, Repr

/-- A sluice (Table 13-5): the bytes of the packet it holds (R323), how many writes had reached their homes when it last tested its
semaphore and the word's value then. -/
structure Sluice where
  base : BitVec 64
  size : Word
  ctx : Word
  tail : Word
  head : Word
  mapped : Bool
  blocked : Bool
  error : Option Nat
  blockCyc : Word
  held : Option (List Byte)
  seen : Nat
  semVal : Nat
  launches : List Nat
  seq : Nat
  park : Option Nat
  deriving DecidableEq, Repr

/-- States of a Lock (Table 15-5). -/
inductive LockState where
  | disabled | idle | retire | reserve | admission | publish | push | step
  deriving DecidableEq, Repr

/-- The Lock of one reach (R348–R359, R411): its registers, its state, its pool and its hidden counters. The pool holds the
page numbers below `pages` that are not `out` of it; `served` is set from an enable whose checks passed to the next enable
(R196 reads the setup also after a disable). `waiting` is set while the stage waits for room in the completion ring; `taken` maps a
manifest to its submission sequence, `recent` lists those that ran in the last step and `admitted` those admitted in this cycle;
`subHead` and `cTail` are the Lock's own (R6). `journal` lists what the accesses of the stage under way have given, in order: a stage
that waited goes on behind them (R408). `home` is what an enable whose checks passed found of the record: its die, and the place of SUBTAIL
with its key id (R351). -/
structure Lock where
  record : BitVec 64
  error : Bool
  enable : Bool
  asid : Nat
  skipped : Nat
  state : LockState
  served : Bool
  pages : Nat
  out : List Nat
  stepNo : Word
  admissions : Word
  submissions : Nat
  taken : FMap Nat
  recent : List Nat
  admitted : List Nat
  launch : Option Nat
  subHead : Nat
  cTail : Nat
  journal : List (List Nat)
  waiting : Bool
  park : Option Nat
  parkDie : Nat
  home : Option (Nat × Nat × Nat)
  deriving DecidableEq, Repr

/-- A watchpoint (R300): reads, writes, and whether a hit stops or traps. -/
structure Watch where
  va : Nat
  size : Nat
  onRead : Bool
  onWrite : Bool
  stops : Bool
  deriving DecidableEq, Repr

/-- An armed launch (R327); `key` tells it from an earlier one under its tag. -/
structure Armed where
  key : Nat
  tag : Nat
  image : Nat
  buffer : Nat
  slotShift : Nat
  slots : Nat
  seg : Nat
  doneVa : Nat
  doneVal : BitVec 64
  busy : List Nat
  reach : Nat
  img : Image
  deriving DecidableEq, Repr

/-- What the module holds for one context (R54, R300, R327, R329, R333, R360): the launch counter, how often its record has become VALID,
the watchdog and whether the context
made progress in this cycle, the
device-side queue, the debugger's settings, the armed launches, the key as of the last restore, the last context fault
delivered: a stop reason, 0x1B for a late write-back (with its address and the hash of the store's word index, R180), 0x100 + a code of
R326. -/
structure Ctx where
  launchNo : Word
  created : Nat
  watchdog : Nat
  progress : Bool
  queue : List Nat
  debugger : Bool
  dump : Nat
  breaks : List Nat
  watches : List Watch
  armed : List Armed
  key : Option (List Byte)
  fault : Option Nat
  late : Option (Nat × Nat)
  deriving DecidableEq, Repr

/-- A reach (R375). -/
structure Reach where
  frames : List (Nat × Nat)
  keys : BitVec 64
  deriving DecidableEq, Repr

/-- Trigger settings of one quarter and line (R304). -/
structure Trigger where
  line : Nat
  quarter : Nat
  onStop : Bool
  onWatch : Bool
  onDbrk : Option Nat
  doStop : Bool
  doFreeze : Bool
  doCount : Option Bool
  deriving DecidableEq, Repr

/-- A pre-emption under way (R373), by a hang where the context's launches end with it (R333). -/
structure Preempt where
  asid : Nat
  since : Nat
  forced : Bool
  hung : Bool
  deriving DecidableEq, Repr

/-- What the device keeps of a saved core beside the save area's sections (Table 16-9): the Basin ranges saved, the activation tables, the
launch of each barrier, the matrix threads waiting, the step of the first, how many commands each open slot's run has. -/
structure SavedCore where
  ranges : List (Nat × Nat)
  tables : List Host.Cell
  barrierLaunch : FMap Nat
  queue : List Nat
  step : Nat
  runs : List (Option Nat)
  deriving DecidableEq, Repr

/-- A saved context (R373): when it was saved, its gangs, its cores by their physical numbers then. -/
structure Saved where
  since : Nat
  gangs : FMap Gang
  cores : FMap SavedCore
  deriving DecidableEq, Repr

/-- Firmware, fuses and attestation (R399–R402): `response` is the last SPDM response. -/
structure Security where
  remap : List (BitVec 64)
  retire : List Nat
  version : Nat
  booted : Bool
  negotiated : Bool
  transcript : List Byte
  response : List Byte
  deriving DecidableEq, Repr

/-- The host link and an Ethernet port (R403, R404). -/
structure Link where
  width : Nat
  rate : Nat
  ports : FMap (Bool × Nat)
  deriving DecidableEq, Repr

/-- The power controller (R332, R405); `capped` when vector 0 has been sent for the present cap, which was written. -/
structure Power where
  cap : Word
  now : Word
  throttledCyc : BitVec 64
  throttled : List Nat
  capped : Bool
  deriving DecidableEq, Repr

/-- A drive's queue pair (R282, Table 9-14): the next submission slot, the next completion slot, the phase that a new completion
entry carries, and under their command ids the commands the drive has: thread, command, the cycle it was given. -/
structure DriveQueue where
  tail : Nat
  head : Nat
  phase : Bool
  out : FMap (Nat × Nat × Nat)
  deriving DecidableEq, Repr

/-- Quay drive state the engine keeps (R281–R283): the drive table's address, the drives failed by a timeout, the queue pairs, and
the doorbells rung: PCIe address and value. -/
structure Quay where
  table : Nat
  failed : List Nat
  queues : FMap DriveQueue
  bells : List (Nat × Nat)
  deriving DecidableEq, Repr

/-- A slice's share of a trap: the lanes its cause names, `tinfo`, `tinfo2`, and where its `tpc` stands. -/
structure TrapSlice where
  slice : Nat
  lanes : BitVec 4
  tinfo : Word
  tinfo2 : Word
  tpc : Word
  deriving DecidableEq, Repr

/-- A trap a word raises: its rank in R66, its cause, its trapping slices (R287), the slot, and whether it is imprecise;
`each` gives the cause and the slot of slices that do not share these, as they stand at other words (R284, R287). -/
structure TrapInfo where
  rank : Nat
  cause : Nat
  who : List TrapSlice
  slot : Nat
  imp : Bool
  each : List (Nat × Nat × Nat) := []
  deriving DecidableEq, Repr

/-- What is issuing (the model's own): the gang, its issuing slices, the word and its chain, the values words of the chain
read (R41, R47), the latencies of its results, the trap it has raised, the `dix` of each slice before the chain (R31), and the cycles that bank
conflicts add (R169). -/
structure Issue where
  gang : Nat
  slices : List Nat
  widx : Word
  chain : Word
  next : Word
  slot : Nat
  word : Nat
  replay : Bool
  view : List (Nat × Dst × Reg)
  olds : List (Nat × Dst × Reg)
  lats : FMap (Nat × Nat)
  dix0 : FMap (BitVec 64)
  stall : Nat
  delay : Nat
  again : Bool
  raised : Option (Nat × Nat)
  macroOp : Option Nat
  last : Bool
  trap : Option TrapInfo
  deriving DecidableEq, Repr

/-- The module. `co` lists the writes that have reached their homes, the last first: the key of the first byte, how many bytes, their
value (Table 8-4). -/
structure State where
  cyc : BitVec 64
  gangs : FMap Gang
  gangNo : Nat
  launches : FMap Launch
  launchNo : Nat
  queue : List Nat
  placing : List Nat
  threads : FMap Thread
  threadNo : Nat
  cores : FMap Core
  clusters : FMap Cluster
  dies : FMap Die
  sluices : FMap Sluice
  locks : FMap Lock
  ctxs : FMap Ctx
  reaches : FMap Reach
  mem : List Host.Cell
  co : List (Nat × Nat × Nat)
  poison : List Nat
  keyOf : FMap Nat
  own : FMap Nat
  homes : List (Nat × Nat × Nat)
  ctxBase : BitVec 64
  rotate : Word
  unmapped : Word
  rotStat : Bool
  iva : BitVec 64
  iasid : Nat
  iscope : Nat
  ibusy : Bool
  preempt : Option Preempt
  peers : List (Nat × Nat × Nat)
  refuses : List (Nat × Nat)
  msix : List Nat
  sent : List (Nat × List Byte)
  triggers : List Trigger
  lines : List Nat
  stoppedCounters : List Nat
  security : Security
  link : Link
  power : Power
  quay : Quay
  saved : FMap Saved
  cur : Issue
  agenda : List (Option Instr)
  issued : FMap Nat
  fresh : Nat
  deriving DecidableEq, Repr

/-- Why a step stops. No behaviour the spec describes ends in a fault of this model: it is safe and never raised. -/
inductive Fault where
  /-- reserved for a later repair; raised by no meaning of this model (safe) -/
  | stuck
  deriving DecidableEq, Repr

/-- Why a step is refused. -/
inductive Refusal where
  /-- raised by `exec` for a row without a meaning; safe, the machine stops where the hardware goes on -/
  | notModelled (mnemonic : String)
  deriving DecidableEq, Repr

/-- No issue under way. -/
def Issue.idle : Issue :=
  { gang := 0, slices := [], widx := 0, chain := 0, next := 0, slot := 0, word := 0, replay := false, view := [], olds := [],
    lats := [], dix0 := [], stall := 0, delay := 0, again := false, raised := none, macroOp := none, last := true, trap := none }

/-- Die registers after reset (Tables 16-6, 16-7, 20-2). -/
def Die.reset : Die :=
  { aq := [], fbBase := 0, fbHead := 0, fbGet := 0, undelivered := 0, overflow := false, replayReg := 0, parkNo := 0,
    nqBase := 0, nqSize := 0, nqHead := 0, nqGet := 0, nqDrop := 0, thresh := 0, counters := [], erBase := 0,
    erSize := 0, erHead := 0, erGet := 0, erDrop := 0, scrub := 4, correctable := [], owed := [] }

/-- The remap entries of a die after reset: 24 clusters enabled with all cores in reach 0, densely numbered, and two
harvested (Table 0-1, R399; log 3). -/
def remapReset (die : Nat) : List (BitVec 64) :=
  (List.range 24).map (fun k => BitVec.ofNat 64 (0x0F000001 + 0x10000 * (24 * die + k))) ++
    List.replicate 2 (BitVec.ofNat 64 0xFF00)

/-- The module right after reset (R401 and the Reset columns; log 3 for what the spec leaves open). -/
def State.reset : State :=
  { cyc := 0, gangs := [], gangNo := 0, launches := [], launchNo := 0, queue := [], placing := [], threads := [], threadNo := 0,
    cores := [], clusters := [], dies := [], sluices := [], locks := [], ctxs := [],
    reaches := [(0, { frames := [(0, Config.hbmBytes)], keys := BitVec.allOnes 64 })],
    mem := [], co := [], poison := [], keyOf := [], own := [], homes := [], ctxBase := 0, rotate := 0, unmapped := 0,
    rotStat := false, iva := 0, iasid := 0, iscope := 0, ibusy := false, preempt := none, peers := [], refuses := [],
    msix := [], sent := [], triggers := [], lines := [], stoppedCounters := [],
    security := { remap := remapReset 0 ++ remapReset 1 ++ remapReset 2 ++ remapReset 3, retire := [], version := 0,
                  booted := true, negotiated := false, transcript := [], response := [] },
    link := { width := 16, rate := 7, ports := [] },
    power := { cap := 3600, now := 0, throttledCyc := 0, throttled := [], capped := true },
    quay := { table := 0, failed := [], queues := [], bells := [] },
    saved := [], cur := Issue.idle, agenda := [], issued := [], fresh := 0 }

end Sys2Proof.Machine
end

