-- ==== Sys2Proof/Machine/Store.lean ====
section
/-! DEFINITION. Sparse maps, and the bytes of every space of the module in one canonical list: addresses strictly
rising, no entry equal to what an unlisted address reads as (log 2). -/

namespace Sys2Proof.Machine

/-- The value at a key. -/
def FMap.find {α : Type} : FMap α → Nat → Option α
  | [], _ => none
  | (j, v) :: r, k => if j = k then some v else FMap.find r k

/-- The value at a key, or a default. -/
def FMap.getOr {α : Type} (m : FMap α) (k : Nat) (d : α) : α := (m.find k).getD d

/-- Set the value at a key, keeping key order. -/
def FMap.put {α : Type} : FMap α → Nat → α → FMap α
  | [], k, v => [(k, v)]
  | (j, w) :: r, k, v =>
    if k < j then (k, v) :: (j, w) :: r else if k = j then (k, v) :: r else (j, w) :: FMap.put r k v

/-- Remove a key. -/
def FMap.del {α : Type} : FMap α → Nat → FMap α
  | [], _ => []
  | (j, w) :: r, k => if j = k then FMap.del r k else (j, w) :: FMap.del r k

/-- Change the value at a key that is present. -/
def FMap.adjust {α : Type} : FMap α → Nat → (α → α) → FMap α
  | [], _, _ => []
  | (j, w) :: r, k, f => if j = k then (j, f w) :: r else (j, w) :: FMap.adjust r k f

/-- The keys present. -/
def FMap.keys {α : Type} (m : FMap α) : List Nat := m.map Prod.fst

/-- Change every value. -/
def FMap.mapAll {α : Type} (m : FMap α) (f : Nat → α → α) : FMap α := m.map fun (k, v) => (k, f k v)

/-- Keep the entries a test accepts. -/
def FMap.keep {α : Type} (m : FMap α) (f : Nat → α → Bool) : FMap α := m.filter fun (k, v) => f k v

/-- The spaces of R231 and the deck store of R264, as the high part of a key. -/
def devSpace : Nat := 0
def hostSpace : Nat := 1
def peerSpace : Nat := 2
def basinSpace : Nat := 3
def deckSpace : Nat := 4

/-- The key of a byte: its space, the node or core it belongs to, its address. -/
def keyAt (space node addr : Nat) : Nat := space * 2 ^ 120 + node * 2 ^ 64 + addr % 2 ^ 64

def keySpace (k : Nat) : Nat := k / 2 ^ 120
def keyNode (k : Nat) : Nat := k / 2 ^ 64 % 2 ^ 56
def keyAddr (k : Nat) : Nat := k % 2 ^ 64

/-- What a byte that nothing has written reads as (log 2: DESIGN CHOICE). -/
def blankByte : Byte := 0

/-- One byte of memory. -/
def Memory.read : List Host.Cell → Nat → Byte
  | [], _ => blankByte
  | (j, v) :: r, k => if j = k then v else Memory.read r k

/-- Write one byte, keeping the canonical form. -/
def Memory.write : List Host.Cell → Nat → Byte → List Host.Cell
  | [], k, v => if v = blankByte then [] else [(k, v)]
  | (j, w) :: r, k, v =>
    if k < j then (if v = blankByte then (j, w) :: r else (k, v) :: (j, w) :: r)
    else if k = j then (if v = blankByte then r else (k, v) :: r)
    else (j, w) :: Memory.write r k v

/-- Every address is above a bound, addresses rise, no entry reads blank. -/
def Memory.above : Nat → List Host.Cell → Bool
  | _, [] => true
  | b, (j, v) :: r => decide (b ≤ j) && decide (v ≠ blankByte) && Memory.above (j + 1) r

/-- The canonical form of a memory. -/
def Memory.wf (m : List Host.Cell) : Bool := Memory.above 0 m

/-- `n` bytes from key `k`, the lowest address least significant (R4). -/
def Memory.readLE (m : List Host.Cell) (k : Nat) : Nat → Nat
  | 0 => 0
  | n + 1 => (Memory.read m k).toNat + 256 * Memory.readLE m (k + 1) n

/-- Write the low `n` bytes of a number from key `k` (R4). -/
def Memory.writeLE (m : List Host.Cell) (k : Nat) : Nat → Nat → List Host.Cell
  | 0, _ => m
  | n + 1, v => Memory.writeLE (Memory.write m k (BitVec.ofNat 8 v)) (k + 1) n (v / 256)

/-- `n` bytes from key `k` as a list. -/
def Memory.bytes (m : List Host.Cell) (k : Nat) : Nat → List Byte
  | 0 => []
  | n + 1 => Memory.read m k :: Memory.bytes m (k + 1) n

/-- Write a list of bytes from key `k`. -/
def Memory.writeBytes (m : List Host.Cell) (k : Nat) : List Byte → List Host.Cell
  | [] => m
  | b :: r => Memory.writeBytes (Memory.write m k b) (k + 1) r

/-- Memory with `n` bytes from key `k` on as nothing has written them. -/
def Memory.clear : List Host.Cell → Nat → Nat → List Host.Cell
  | [], _, _ => []
  | (j, v) :: r, k, n => if k ≤ j ∧ j < k + n then Memory.clear r k n else (j, v) :: Memory.clear r k n

/-- Little-endian value of a list of bytes. -/
def leNat : List Byte → Nat
  | [] => 0
  | b :: r => b.toNat + 256 * leNat r

/-- `n` bytes of a number, least significant first. -/
def leBytes : Nat → Nat → List Byte
  | 0, _ => []
  | n + 1, v => BitVec.ofNat 8 v :: leBytes n (v / 256)

/-- Field of a record: `n` bytes at an offset. -/
def recNat (r : List Byte) (off n : Nat) : Nat := leNat ((r.drop off).take n)

/-- Bits `lo + len - 1` to `lo` of a number. -/
def bitsOf (v lo len : Nat) : Nat := v / 2 ^ lo % 2 ^ len

/-- Bit `i` of a number. -/
def bitOf (v i : Nat) : Bool := v / 2 ^ i % 2 == 1

/-- A signed number of `w` bits. -/
def signedOf (v w : Nat) : Int := if v % 2 ^ w < 2 ^ (w - 1) then (v % 2 ^ w : Int) else (v % 2 ^ w : Int) - 2 ^ w

/-- A number modulo `2^w`. -/
def wrapNat (x : Int) (w : Nat) : Nat := (x % 2 ^ w).toNat

/-- Insert into a rising list without repeats. -/
def addSorted : List Nat → Nat → List Nat
  | [], k => [k]
  | j :: r, k => if k < j then k :: j :: r else if k = j then j :: r else j :: addSorted r k

/-- Round up to a multiple. -/
def roundUp (n m : Nat) : Nat := (n + m - 1) / m * m

/-- `⌈a / b⌉`. -/
def ceilDiv (a b : Nat) : Nat := (a + b - 1) / b

/-- The number of set bits of a number below `2^n`. -/
def popCount (n v : Nat) : Nat := ((List.range n).filter fun i => bitOf v i).length

/-- Repeat a state change. -/
def iter {α : Type} (f : α → α) : Nat → α → α
  | 0, s => s
  | n + 1, s => iter f n (f s)

end Sys2Proof.Machine
end

