-- ==== Sys2Proof/Machine/Access.lean ====
section
/-! DEFINITION. The named operations over the state: gangs and slices, registers through the window (R216), predicates
and mask registers, the lanes active for a word (R43), special-register halves, free choices. -/

namespace Sys2Proof.Machine

/-- The code of a tag (Table 1-1). -/
def Tag.code : Tag → Nat
  | .raw => 0 | .i32 => 1 | .u32 => 2 | .f32 => 3 | .f16x2 => 4 | .bf16x2 => 5 | .i16x2 => 6 | .i8x4 => 7
  | .u8x4 => 8 | .e4m3x4 => 9 | .e5m2x4 => 10 | .blk => 11 | .idx => 12 | .scl => 13 | .a64 => 14

/-- The tag of a code; 15 is no tag, and no caller passes it (R8). -/
def Tag.ofCode : Nat → Tag
  | 1 => .i32 | 2 => .u32 | 3 => .f32 | 4 => .f16x2 | 5 => .bf16x2 | 6 => .i16x2 | 7 => .i8x4 | 8 => .u8x4
  | 9 => .e4m3x4 | 10 => .e5m2x4 | 11 => .blk | 12 => .idx | 13 => .scl | 14 => .a64 | _ => .raw

/-- A register position that nothing has written: zero tagged RAW (R148, R216; log 3). -/
def Reg.zero : Reg := { l0 := 0, l1 := 0, l2 := 0, l3 := 0, tag := .raw, poison := 0, flaw := 0 }

/-- A register whose lane words are one word (R55). -/
def Reg.splat (w : Word) (t : Tag) (poison : BitVec 4) : Reg := { l0 := w, l1 := w, l2 := w, l3 := w, tag := t, poison := poison, flaw := 0 }

/-- One lane word of a slice's register. -/
def Reg.lane (r : Reg) : Nat → Word
  | 0 => r.l0 | 1 => r.l1 | 2 => r.l2 | _ => r.l3

/-- Replace one lane word, leaving tag and poison. -/
def Reg.setLane (r : Reg) (j : Nat) (w : Word) : Reg :=
  match j with
  | 0 => { r with l0 := w } | 1 => { r with l1 := w } | 2 => { r with l2 := w } | _ => { r with l3 := w }

/-- Bit `j` of a lane nibble. -/
def nib (m : BitVec 4) (j : Nat) : Bool := m.getLsbD j

/-- A lane nibble from a test. -/
def nibOf (f : Nat → Bool) : BitVec 4 :=
  BitVec.ofBool (f 3) ++ BitVec.ofBool (f 2) ++ BitVec.ofBool (f 1) ++ BitVec.ofBool (f 0)

/-- `WRITE` of Table 2-11 over a slice: the lanes of `m` take the words of `f`, lose their poison, and the tag becomes
`t`; with no lane, nothing changes (R51, R293). -/
def Reg.write (r : Reg) (m : BitVec 4) (f : Nat → Word) (t : Tag) : Reg :=
  if m = 0 then r else
    { l0 := if nib m 0 then f 0 else r.l0, l1 := if nib m 1 then f 1 else r.l1,
      l2 := if nib m 2 then f 2 else r.l2, l3 := if nib m 3 then f 3 else r.l3,
      tag := t, poison := r.poison &&& ~~~m, flaw := r.flaw &&& ~~~m }

/-- One of two registers in each lane word of `m`, with the poison of that lane, and for the tag, as `pick` chooses; the second
one's lanes elsewhere (R47). -/
def Reg.mix (m : BitVec 4) (pick : Nat → Bool) (a b : Reg) : Reg :=
  let old (j : Nat) : Bool := nib m j && pick j
  { l0 := if old 0 then a.l0 else b.l0, l1 := if old 1 then a.l1 else b.l1, l2 := if old 2 then a.l2 else b.l2,
    l3 := if old 3 then a.l3 else b.l3, tag := if pick 4 then a.tag else b.tag,
    poison := nibOf fun j => if old j then nib a.poison j else nib b.poison j, flaw := b.flaw }

/-- A slice before it starts: no live lane, every register at its reset value (log 3). -/
def Slice.blank : Slice :=
  { pc := 0, mask := 0, live := 0, stack := [], wb := 0, frames := [], towPtr := 0, regs := [], wait := none,
    next := 0, park := none, replay := none, again := false, alone := false, olds := [], rest := [], macroAt := none, stream := 0, ready := 0, bank := 0,
    issuedAt := 0, readySince := 0, flights := [], dix := 0,
    cycHi := none, dixHi := none, vsel := 0, tb0 := 0xFFFFFFFF, eb0 := 0xFFFFFFFF, qf := 0, tcause := 0, tpc := 0,
    amask := 0, tmask := 0, tinfo := 0, tinfo2 := 0, tregion := 0, pmask := 0, levels := [], region := none,
    reserve := true, pend := [], forked := [], failed := none, urd := 0, bcf := 0, hint := none,
    hintBasin := 0, halted := false }

/-- A segment that covers nothing. -/
def Seg.zero : Seg := { base := 0, limit := 0 }

/-- A gang place that no gang holds. -/
def Gang.blank : Gang :=
  { launch := 0, asid := 0, reach := 0, system := false, index := 0, count := 0, slices := [], role := 0, cls := 0,
    base := 0, allot := 64, core := 0, quarter := 0, place := 0, codeBase := 0, codeLimit := 0, handler := 0xFFFFFFFF,
    towBase := 0, towSize := 0x10000, roles := 1, preds := [], masks := [], fpmode := 0, schk := false, frag := false,
    mix := 0, seed := 0, rngs := 0, lgl := 0, pmiss := 0, grp := 0xFFFFFFFF, berth := 0xFFFFFFFF, step := 0,
    launchId := 0, segs := [], energy := 0, instNo := 0, streamNo := 0, instReports := [], gwait := none, stop := none,
    passBreak := none, passWatch := none, paused := 0, away := 0, started := false }

/-- A core with empty caches, invalid microprograms, EMPTY summaries and closed slots. -/
def Core.blank : Core :=
  { l1 := [], pc := [], pt := [], store := [], loading := [], summary := [], slots := [], barrierLaunch := [],
    context := none, matrixQueue := [], matrixStep := 0, sampler := none }

/-- A context record the device has not met: launch ids start at 1 (R54). -/
def Ctx.blank : Ctx :=
  { launchNo := 1, created := 0, watchdog := 0, progress := false, queue := [], debugger := false, dump := 0, breaks := [], watches := [], armed := [],
    key := none, fault := none, late := none }

/-- A sluice after reset (Table 13-5). -/
def Sluice.blank : Sluice :=
  { base := 0, size := 0, ctx := 0, tail := 0, head := 0, mapped := false, blocked := false, error := none,
    blockCyc := 0, held := none, seen := 0, semVal := 0, launches := [], seq := 0, park := none }

/-- A Lock after reset (Table 15-6). -/
def Lock.blank : Lock :=
  { record := 0, error := false, enable := false, asid := 0, skipped := 0, state := .disabled, served := false, pages := 0, out := [], stepNo := 0,
    admissions := 0, submissions := 0, taken := [], recent := [], admitted := [], launch := none,
    subHead := 0, cTail := 0, journal := [], waiting := false, park := none, parkDie := 0, home := none }

/-- A pound before its launch starts. -/
def Pound.blank : Pound := { head := 0, tail := 0, closed := false }

/-- No thread: an ended one that names nothing. -/
def Thread.blank : Thread :=
  { kind := .barge, record := [], gang := 0, slice := 0, launch := 0, asid := 0, core := 0, widx := 0, index := 0,
    earlier := [], barrier := 0, buffer := [], poisoned := [], wrote := [], landed := [], counted := [], parks := [],
    gindex := 0, quarter := 0, ended := some 0, started := 0, fired := true, todo := [], steps := 0, asked := 0, status := [] }

/-- A launch that is over. -/
def Launch.blank : Launch :=
  { id := 0, asid := 0, reach := 0, source := .sluice 0 0, image := 0, grid := 0, img := none, state := .finished 0,
    gangs := 0, placed := 0, ended := 0, cores := [], loaded := [], held := [], lost := [], code := 0, park := none, pounds := [],
    doneVa := 0, doneVal := 0, step := 0, berths := [], offset := none, late := [], reported := true }

/-- A closed accumulator slot. -/
def Slot.blank : Slot :=
  { opened := false, tag := .raw, m := 0, n := 0, ktotal := 0, ksum := 0, cmds := [], ea := [], eb := [], acc := [],
    replayed := false, flaw := false }

namespace State

def gang (s : State) (g : Nat) : Gang := s.gangs.getOr g Gang.blank
def core (s : State) (c : Nat) : Core := s.cores.getOr c Core.blank
def die (s : State) (d : Nat) : Die := s.dies.getOr d Die.reset
def ctx (s : State) (a : Nat) : Ctx := s.ctxs.getOr a Ctx.blank
def sluice (s : State) (q : Nat) : Sluice := s.sluices.getOr q Sluice.blank
def lock (s : State) (r : Nat) : Lock := s.locks.getOr r Lock.blank
def launch (s : State) (l : Nat) : Launch := s.launches.getOr l Launch.blank
def thread (s : State) (t : Nat) : Thread := s.threads.getOr t Thread.blank
def tlb (s : State) (c : Nat) : List TlbEntry := (s.clusters.getOr c ⟨[]⟩).tlb
def slice (s : State) (g k : Nat) : Slice := (s.gang g).slices.getOr k Slice.blank

def modGang (s : State) (g : Nat) (f : Gang → Gang) : State := { s with gangs := s.gangs.adjust g f }
def modSlice (s : State) (g k : Nat) (f : Slice → Slice) : State :=
  s.modGang g fun x => { x with slices := x.slices.adjust k f }
def modCore (s : State) (c : Nat) (f : Core → Core) : State := { s with cores := s.cores.put c (f (s.core c)) }
def modDie (s : State) (d : Nat) (f : Die → Die) : State := { s with dies := s.dies.put d (f (s.die d)) }
def modCtx (s : State) (a : Nat) (f : Ctx → Ctx) : State := { s with ctxs := s.ctxs.put a (f (s.ctx a)) }
def modSluice (s : State) (q : Nat) (f : Sluice → Sluice) : State := { s with sluices := s.sluices.put q (f (s.sluice q)) }
def modLock (s : State) (r : Nat) (f : Lock → Lock) : State := { s with locks := s.locks.put r (f (s.lock r)) }
def modLaunch (s : State) (l : Nat) (f : Launch → Launch) : State := { s with launches := s.launches.adjust l f }
def modThread (s : State) (t : Nat) (f : Thread → Thread) : State := { s with threads := s.threads.adjust t f }
def setTlb (s : State) (c : Nat) (t : List TlbEntry) : State := { s with clusters := s.clusters.put c ⟨t⟩ }

/-- The gang whose word is issuing, and its slices. -/
def me (s : State) : Gang := s.gang s.cur.gang
def sl (s : State) (k : Nat) : Slice := s.me.slices.getOr k Slice.blank
def modMe (s : State) (f : Gang → Gang) : State := s.modGang s.cur.gang f
def modSl (s : State) (k : Nat) (f : Slice → Slice) : State := s.modSlice s.cur.gang k f

/-- `cyc` as a number (R54). -/
def now (s : State) : Nat := s.cyc.toNat

/-- The next free value, and a free bit that depends on what it is drawn for. -/
def freeWord (s : State) (k : Nat) : Word := Config.freeWord (s.fresh * 4096 + k)
def freeBit (s : State) (k : Nat) : Bool := Config.freeBit (s.fresh * 4096 + k)
def renew (s : State) : State := { s with fresh := s.fresh + 1 }

end State

/-- The die of a physical core, its cluster, its place in the cluster (R399). -/
def dieOfCore (c : Nat) : Nat := c / 4 / Config.clustersPerDie
def clusterOfCore (c : Nat) : Nat := c / 4

/-- The die that homes a device address (R231: fixed by the device, not architectural; plain data). -/
def State.homeDie (s : State) (addr : Nat) : Nat :=
  match s.homes.find? fun (b, n, _) => decide (b ≤ addr) && decide (addr < b + n) with
  | some (_, _, d) => d
  | none => 0

/-- Table of a remap entry (Table 20-4). -/
def remapJoins (e : BitVec 64) (reach : Nat) : Bool :=
  bitsOf e.toNat 0 2 == 1 && bitsOf e.toNat 24 8 == 0x0F && bitsOf e.toNat 8 8 == reach

/-- The dense number of a physical core within its reach (R375). -/
def State.denseCore (s : State) (c : Nat) : Nat :=
  bitsOf ((s.security.remap[c / 4]?).getD 0).toNat 16 8 * 4 + c % 4

/-- The physical cores of a reach in dense order (R375). -/
def State.reachCores (s : State) (reach : Nat) : List Nat :=
  let clusters := (List.range Config.clusters).filter fun k => remapJoins ((s.security.remap[k]?).getD 0) reach
  let dense (n : Nat) := clusters.filter fun k => bitsOf ((s.security.remap[k]?).getD 0).toNat 16 8 == n
  (List.range 96).flatMap fun n => (dense n).flatMap fun k => (List.range 4).map (4 * k + ·)

/-! ### Registers through the window -/

/-- The allotment register a field names (R216). -/
def storageOf (allot wb n : Nat) : Nat := if n < 8 then n else 8 + (wb + (n - 8)) % (allot - 8)

/-- A value a word of the chain reads in place of the present one. -/
def viewOf : List (Nat × Dst × Reg) → Nat → Dst → Option Reg
  | [], _, _ => none
  | (k, d, r) :: v, k', d' => if k = k' ∧ d = d' then some r else viewOf v k' d'

namespace State

/-- The allotment register that field `n` names in slice `k`. -/
def storage (s : State) (k n : Nat) : Nat := storageOf s.me.allot (s.sl k).wb n

/-- A stored register of a slice. -/
def stored (s : State) (k st : Nat) : Reg := (s.sl k).regs.getOr st Reg.zero

/-- A destination's value as the words of the chain read it (R41, R47). -/
def seen (s : State) (k : Nat) (d : Dst) : Option Reg := (viewOf s.cur.view k d).or (viewOf s.cur.olds k d)

/-- Slice `k`'s register `n` as the issuing word reads it. -/
def reg (s : State) (k n : Nat) : Reg := (s.seen k (.v (s.storage k n))).getD (s.stored k (s.storage k n))

/-- `V(n, l)` and `TAG(n)` of Table 2-11, and `V64`. -/
def V (s : State) (n l : Nat) : Word := (s.reg (l / 4) n).lane (l % 4)
def V64 (s : State) (n l : Nat) : BitVec 64 := s.V (n + 1) l ++ s.V n l
def tagOf (s : State) (k n : Nat) : Tag := (s.reg k n).tag

/-- The latency of a destination of the issuing word in a slice (R45). -/
def latOf (s : State) (k : Nat) (d : Dst) : Nat :=
  let l := s.cur.lats.getOr k (0, 0)
  match d with | .v _ => l.1 | _ => l.2

/-- Note the value a word of the chain replaces in the lanes of `m` (R41), and when the new one is readable (R45). -/
def noteOld (s : State) (k : Nat) (d : Dst) (m : BitVec 4) (old : Reg) : State :=
  let c := s.cur
  let s := { s with cur := { c with olds := if (viewOf c.olds k d).isSome then c.olds else (k, d, old) :: c.olds } }
  let n := s.latOf k d
  if n = 0 then
    s.modSl k fun x => { x with flights := x.flights.map fun f => if f.dst = d then { f with mask := f.mask &&& ~~~m } else f }
  else s.modSl k fun x => { x with flights := ⟨d, s.now + n, old, m⟩ :: x.flights }

/-- The lanes of a destination whose earlier write would land no earlier than one that issues now (R45, R47). -/
def lateWrite (s : State) (k : Nat) (d : Dst) : BitVec 4 :=
  if s.latOf k d = 0 then 0
  else ((s.sl k).flights.filter fun f => decide (f.dst = d) && decide (s.now + s.latOf k d ≤ f.ready)).foldl
    (fun m f => m ||| f.mask) 0

/-- Write slice `k`'s register `n` in the lanes of `m`. -/
def write (s : State) (k n : Nat) (m : BitVec 4) (f : Nat → Word) (t : Tag) : State :=
  let st := s.storage k n
  let old := s.stored k st
  let new := old.write m f t
  let late := s.lateWrite k (.v st) &&& m
  let new := if late = 0 then new else Reg.mix late (Config.freeLane s.fresh k st) old new
  if m = 0 then s
  else (s.modSl k fun x => { x with regs := x.regs.put st new }).noteOld k (.v st) m old

/-- Predicate `k` of the gang, one bit per lane. -/
def predWord (s : State) (p : Nat) : Word := if p = 0 then BitVec.allOnes 32 else s.me.preds.getOr p 0

/-- A gang-level word held as a register, to be noted as old. -/
def wordReg (w : Word) : Reg := { Reg.zero with l0 := w }

/-- `P(k, l)` as the issuing word reads it; `P(0, l) = 1` (R50). -/
def P (s : State) (p l : Nat) : Bool :=
  if p = 0 then true else (((s.seen (l / 4) (.p p)).map Reg.l0).getD (s.predWord p)).getLsbD l

/-- Write predicate `p` in the lanes of slice `k` that `m` names; p0 discards (R50). -/
def writeP (s : State) (p k : Nat) (m : BitVec 4) (f : Nat → Bool) : State :=
  if p = 0 ∨ m = 0 then s
  else
    let old := s.predWord p
    let late := s.lateWrite k (.p p)
    let bit (j : Nat) : Bool :=
      if nib m j && !(nib late j && Config.freeLane s.fresh k (4096 + p) j) then f j else old.getLsbD (4 * k + j)
    let field := (BitVec.zeroExtend 32 (nibOf bit)) <<< (4 * k)
    let keep := ~~~((15#32) <<< (4 * k))
    let new := (old &&& keep) ||| field
    (s.modMe fun g => { g with preds := g.preds.put p new }).noteOld k (.p p) m (wordReg old)

/-- Mask register `q` of the gang as the issuing word reads it (R129). -/
def Q (s : State) (q : Nat) : Word :=
  ((s.cur.slices.head?.bind fun k => s.seen k (.q q)).map Reg.l0).getD (s.me.masks.getOr q 0)

/-- Write mask register `q`. -/
def writeQ (s : State) (q : Nat) (w : Word) : State :=
  let old := s.me.masks.getOr q 0
  let w := if (s.cur.slices.any fun k => s.lateWrite k (.q q) != 0) && s.freeBit (128 + q) then old else w
  s.cur.slices.foldl (fun s k => s.noteOld k (.q q) 15 (wordReg old)) (s.modMe fun g => { g with masks := g.masks.put q w })

/-! ### Lanes -/

/-- The lanes of slice `k` whose guard bit is 1 (R43). -/
def guardBits (s : State) (g : BitVec 3) (k : Nat) : BitVec 4 := nibOf fun j => s.P g.toNat (4 * k + j)

/-- The lanes of slice `k` active for a word guarded by `g` (R43); on replay the lanes of `pmask` alone (R165). -/
def act (s : State) (g : BitVec 3) (k : Nat) : BitVec 4 :=
  if s.cur.replay then ((s.sl k).replay.getD 0) else (s.sl k).mask &&& s.guardBits g k

/-- The active lanes of the issuing set, ascending. -/
def actLanes (s : State) (g : BitVec 3) : List Nat :=
  s.cur.slices.flatMap fun k => ((List.range 4).filter fun j => nib (s.act g k) j).map (4 * k + ·)

/-- `LOWEST_ACTIVE()` (Table 5-1). -/
def lowest (s : State) (g : BitVec 3) : Option Nat := (s.actLanes g).head?

/-- Every lane of the issuing set, ascending. -/
def issLanes (s : State) : List Nat := s.cur.slices.flatMap fun k => (List.range 4).map (4 * k + ·)

/-- `ISSUING(l)` (Table 5-1). -/
def issuing (s : State) (l : Nat) : Bool := s.cur.slices.contains (l / 4)

/-- Write register `n` in every active lane of every issuing slice. -/
def writeLanes (s : State) (g : BitVec 3) (n : Nat) (f : Nat → Word) (t : Nat → Tag) : State :=
  s.cur.slices.foldl (fun s' k => s'.write k n (s.act g k) (fun j => f (4 * k + j)) (t k)) s

/-- Whether a context is being pre-empted (R373), and whether it is off the device or leaving it. -/
def preempting (s : State) (asid : Nat) : Bool := s.preempt.any fun p => p.asid == asid
def leaving (s : State) (asid : Nat) : Bool := s.preempting asid || (s.saved.find asid).isSome

/-- The live slices of a gang, ascending. -/
def liveSlices (s : State) (g : Nat) : List Nat :=
  ((s.gang g).slices.filter fun (_, x) => decide (x.live ≠ 0)).map Prod.fst

end State

/-- `wdep` (R205, R217): the number of the slice's frames. -/
def Slice.wdep (x : Slice) : Nat := x.frames.length

/-- The relative depth (R208). -/
def Slice.relDepth (x : Slice) : Nat := x.wdep - ((x.levels.head?.map TrapLevel.depth).getD 0)

/-- Whether the slice is in a handler (R285). -/
def Slice.inHandler (x : Slice) : Bool := !x.levels.isEmpty

/-- The size of a frame's record (R226). -/
def Frame.bytes (f : Frame) : Nat :=
  match f.kind with
  | .trap => 976
  | .call => 16 * f.slide + roundUp f.slide 16 + 16
  | .callv => 16 * f.slide + roundUp f.slide 16 + 16 + 32

/-- The committed towpath bytes of a slice (R227). -/
def Slice.committed (x : Slice) : Nat := (x.frames.map Frame.bytes).sum

/-- The lane bits of slice `k` in a 32-bit lane mask. -/
def laneWord (k : Nat) (m : BitVec 4) : Word := (BitVec.zeroExtend 32 m) <<< (4 * k)

/-- A 32-bit lane mask of a list of lanes. -/
def lanesWord (ls : List Nat) : Word := ls.foldl (fun w l => w ||| (1#32 <<< l)) 0

/-- The nibble of slice `k` in a 32-bit lane mask. -/
def nibbleOf (w : Word) (k : Nat) : BitVec 4 := (w >>> (4 * k)).truncate 4

/-- A segment of a gang (R57). -/
def Gang.seg (g : Gang) (e : Nat) : Seg := g.segs.getOr e Seg.zero

/-- The word hash of R33. -/
def wordHash (widx : Nat) : Nat := widx * 0x9E5 % 2 ^ 17

end Sys2Proof.Machine
end

