-- ==== Sys2Proof/Machine/Fp.lean ====
section
/-! DEFINITION. Floating arithmetic on exact dyadic numbers: the formats of R9 and R12, one rounding (R9–R11, R76), NaN
payloads (R33, R34), stochastic rounding (R31, R32), anchored accumulation (R22–R30), and the special functions of
Table 4-8 by fixed-point enclosures far below the last place of any format (log 9). -/

namespace Sys2Proof.Machine

/-- A floating format: exponent and fraction widths, bias, whether the top exponent holds infinities, the fields of its
NaN payload (Table 1-8). -/
structure Fmt where
  eb : Nat
  fb : Nat
  bias : Nat
  inf : Bool
  laneLo : Nat
  laneBits : Nat
  deriving DecidableEq, Repr

def fmtF32 : Fmt := ⟨8, 23, 127, true, 17, 5⟩
def fmtF16 : Fmt := ⟨5, 10, 15, true, 4, 5⟩
def fmtBF16 : Fmt := ⟨8, 7, 127, true, 1, 5⟩
def fmtE5M2 : Fmt := ⟨5, 2, 15, true, 0, 0⟩
def fmtE4M3 : Fmt := ⟨4, 3, 7, false, 0, 0⟩

/-- The width of a format. -/
def Fmt.width (f : Fmt) : Nat := 1 + f.eb + f.fb

/-- The exponent of the smallest normal number, and of the last place of a subnormal one. -/
def Fmt.emin (f : Fmt) : Int := 1 - (f.bias : Int)
def Fmt.qmin (f : Fmt) : Int := f.emin - f.fb

/-- The bits of +∞, or of the first pattern above the finite ones; of the largest finite number. -/
def Fmt.infBits (f : Fmt) : Nat := if f.inf then (2 ^ f.eb - 1) * 2 ^ f.fb else 2 ^ (f.eb + f.fb) - 1
def Fmt.maxBits (f : Fmt) : Nat := f.infBits - 1

/-- A decoded element: a NaN with its fraction, an infinity, or `m × 2^e`. -/
inductive FVal where
  | nan (s : Bool) (frac : Nat)
  | inf (s : Bool)
  | fin (s : Bool) (m : Nat) (e : Int)
  deriving DecidableEq, Repr

/-- Decode the bits of a format. -/
def Fmt.decode (f : Fmt) (b : Nat) : FVal :=
  let s := bitOf b (f.eb + f.fb)
  let x := bitsOf b f.fb f.eb
  let m := bitsOf b 0 f.fb
  if f.inf then
    if x = 2 ^ f.eb - 1 then (if m = 0 then .inf s else .nan s m)
    else if x = 0 then .fin s m f.qmin else .fin s (2 ^ f.fb + m) (f.qmin + x - 1)
  else if b % 2 ^ (f.eb + f.fb) = 2 ^ (f.eb + f.fb) - 1 then .nan s m
  else if x = 0 then .fin s m f.qmin else .fin s (2 ^ f.fb + m) (f.qmin + x - 1)

/-- The sign bit in place. -/
def Fmt.sign (f : Fmt) (s : Bool) : Nat := if s then 2 ^ (f.eb + f.fb) else 0

/-- Rounding directions: nearest even, toward zero, toward −∞, toward +∞, and away when a 16-bit draw is below the
discarded fraction (R32). -/
inductive Round where
  | ne | z | down | up | draw (d : Nat)
  deriving DecidableEq, Repr

/-- `m × 2^e` over `2^q`, rounded to an integer magnitude. -/
def roundMag (r : Round) (s : Bool) (m : Nat) (e q : Int) : Nat :=
  if q ≤ e then m * 2 ^ (e - q).toNat
  else
    let k := (q - e).toNat
    let t := m / 2 ^ k
    let rem := m % 2 ^ k
    let bump := match r with
      | .ne => decide (2 ^ k < 2 * rem) || (decide (2 ^ k = 2 * rem) && t % 2 == 1)
      | .z => false
      | .down => s && decide (rem ≠ 0)
      | .up => !s && decide (rem ≠ 0)
      | .draw d => decide (d < rem * 2 ^ 16 / 2 ^ k)
    if bump then t + 1 else t

/-- The magnitude bits of `m × 2^e` in a format, without regard to its range. -/
def Fmt.magBits (f : Fmt) (r : Round) (s : Bool) (m : Nat) (e : Int) : Nat :=
  if m = 0 then 0
  else
    let q := max ((Nat.log2 m : Int) + e - f.fb) f.qmin
    (q - f.qmin).toNat * 2 ^ f.fb + roundMag r s m e q

/-- Flush a subnormal pattern to zero of its sign (R11). -/
def Fmt.flush (f : Fmt) (ftz : Bool) (b : Nat) : Nat :=
  if ftz && bitsOf b f.fb f.eb == 0 then b / 2 ^ (f.eb + f.fb) * 2 ^ (f.eb + f.fb) else b

/-- `m × 2^e` rounded once under a mode, with the overflow rule of R76. -/
def Fmt.round (f : Fmt) (r : Round) (s : Bool) (m : Nat) (e : Int) : Nat :=
  let b := f.magBits r s m e
  let b := if b < f.infBits then b else if r = .z then f.maxBits else f.infBits
  f.sign s + b

/-- `round`, then a tiny result flushed under FTZ (R11, R76). -/
def Fmt.result (f : Fmt) (r : Round) (ftz : Bool) (s : Bool) (m : Nat) (e : Int) : Nat := f.flush ftz (f.round r s m e)

/-- The quiet bit of a format (Table 1-8). -/
def Fmt.quietBit (f : Fmt) : Nat := 2 ^ (f.fb - 1)

/-- A NaN's bits with the quiet bit set (R34). -/
def Fmt.quiet (f : Fmt) (s : Bool) (frac : Nat) : Nat :=
  if f.inf then f.sign s + f.infBits + (if bitOf frac (f.fb - 1) then frac else frac + f.quietBit)
  else f.sign s + f.infBits

/-- `NAN_OF(fmt, lane)`: a new quiet NaN with the origin payload of Table 1-8. -/
def Fmt.nanOf (f : Fmt) (lane hash : Nat) : Nat :=
  if f.inf then f.infBits + f.quietBit +
    (if f.laneBits = 0 then 0 else lane % 2 ^ f.laneBits * 2 ^ f.laneLo + hash % 2 ^ f.laneLo)
  else f.infBits

/-- The width of a format's hash field (Table 1-8). -/
def Fmt.hashBits (f : Fmt) : Nat := if f.laneBits = 0 then (if f.inf then 1 else 0) else f.laneLo

/-- A NaN carried to another format field by field (R34). -/
def nanCarry (src dst : Fmt) (s : Bool) (frac : Nat) : Nat :=
  if dst.laneBits = 0 then (if dst.inf then 0x7E else 0x7F)
  else
    let lane := if src.laneBits = 0 then 0 else bitsOf frac src.laneLo src.laneBits
    let hash := bitsOf frac 0 src.hashBits
    dst.sign s + dst.infBits + dst.quietBit + lane * 2 ^ dst.laneLo + hash % 2 ^ dst.laneLo

/-- The element under FTZ as an operand. -/
def Fmt.operand (f : Fmt) (ftz : Bool) (b : Nat) : FVal := f.decode (f.flush ftz b)

/-- A signed dyadic sum: the common exponent and the integer. -/
def dyadicAdd (s₁ : Bool) (m₁ : Nat) (e₁ : Int) (s₂ : Bool) (m₂ : Nat) (e₂ : Int) : Int × Int :=
  let e := min e₁ e₂
  let a : Int := (m₁ * 2 ^ (e₁ - e).toNat : Nat)
  let b : Int := (m₂ * 2 ^ (e₂ - e).toNat : Nat)
  ((if s₁ then -a else a) + (if s₂ then -b else b), e)

/-- What floating arithmetic depends on besides its operands: rounding, FTZ, and the bits of a new NaN. -/
structure FEnv where
  rnd : Round
  ftz : Bool
  newNan : Nat

/-- The rounding of a sum of two finite terms; an exact zero of opposite signs is +0 (R76). -/
def Fmt.sum (f : Fmt) (v : FEnv) (s₁ : Bool) (m₁ : Nat) (e₁ : Int) (s₂ : Bool) (m₂ : Nat) (e₂ : Int) : Nat :=
  let (t, e) := dyadicAdd s₁ m₁ e₁ s₂ m₂ e₂
  if t = 0 then f.sign (s₁ && s₂) else f.result v.rnd v.ftz (decide (t < 0)) t.natAbs e

/-- a + b (R76, R77). -/
def Fmt.add (f : Fmt) (v : FEnv) (a b : Nat) : Nat :=
  match f.operand v.ftz a, f.operand v.ftz b with
  | .nan s x, _ => f.quiet s x
  | _, .nan s x => f.quiet s x
  | .inf s, .inf t => if s = t then f.sign s + f.infBits else v.newNan
  | .inf s, .fin .. => f.sign s + f.infBits
  | .fin .., .inf s => f.sign s + f.infBits
  | .fin s m e, .fin t n g => f.sum v s m e t n g

/-- a − b: a NaN operand is returned as it is (R34), so the sign of b changes only when it is a number. -/
def Fmt.sub (f : Fmt) (v : FEnv) (a b : Nat) : Nat :=
  match f.operand v.ftz a, f.operand v.ftz b with
  | .nan s x, _ => f.quiet s x
  | _, .nan s x => f.quiet s x
  | .inf s, .inf t => if s = !t then f.sign s + f.infBits else v.newNan
  | .inf s, .fin .. => f.sign s + f.infBits
  | .fin .., .inf s => f.sign (!s) + f.infBits
  | .fin s m e, .fin t n g => f.sum v s m e (!t) n g

/-- a × b. -/
def Fmt.mul (f : Fmt) (v : FEnv) (a b : Nat) : Nat :=
  match f.operand v.ftz a, f.operand v.ftz b with
  | .nan s x, _ => f.quiet s x
  | _, .nan s x => f.quiet s x
  | .inf s, .inf t => f.sign (s != t) + f.infBits
  | .inf s, .fin t n _ => if n = 0 then v.newNan else f.sign (s != t) + f.infBits
  | .fin s m _, .inf t => if m = 0 then v.newNan else f.sign (s != t) + f.infBits
  | .fin s m e, .fin t n g => f.result v.rnd v.ftz (s != t) (m * n) (e + g)

/-- a × b + d, the product not rounded (R85). -/
def Fmt.fma (f : Fmt) (v : FEnv) (a b d : Nat) : Nat :=
  match f.operand v.ftz a, f.operand v.ftz b, f.operand v.ftz d with
  | .nan s x, _, _ => f.quiet s x
  | _, .nan s x, _ => f.quiet s x
  | _, _, .nan u x => f.quiet u x
  | .inf s, .inf t, .inf u => if (s != t) = u then f.sign u + f.infBits else v.newNan
  | .inf s, .inf t, .fin .. => f.sign (s != t) + f.infBits
  | .inf s, .fin t n _, .inf u => if n = 0 then v.newNan else if (s != t) = u then f.sign u + f.infBits else v.newNan
  | .inf s, .fin t n _, .fin .. => if n = 0 then v.newNan else f.sign (s != t) + f.infBits
  | .fin s m _, .inf t, .inf u => if m = 0 then v.newNan else if (s != t) = u then f.sign u + f.infBits else v.newNan
  | .fin s m _, .inf t, .fin .. => if m = 0 then v.newNan else f.sign (s != t) + f.infBits
  | .fin .., .fin .., .inf u => f.sign u + f.infBits
  | .fin s m e, .fin t n g, .fin u k h => f.sum v (s != t) (m * n) (e + g) u k h

/-- A quotient to 64 bits beyond its operands, its last bit set when it is inexact. -/
def divJam (m n : Nat) : Nat × Int :=
  let k := Nat.log2 n + 66
  let q := m * 2 ^ k / n
  ((if m * 2 ^ k % n = 0 then 2 * q else 2 * q + 1), -(k : Int) - 1)

/-- a / b (R105). -/
def Fmt.div (f : Fmt) (v : FEnv) (a b : Nat) : Nat :=
  match f.operand v.ftz a, f.operand v.ftz b with
  | .nan s x, _ => f.quiet s x
  | _, .nan s x => f.quiet s x
  | .inf _, .inf _ => v.newNan
  | .inf s, .fin t _ _ => f.sign (s != t) + f.infBits
  | .fin s _ _, .inf t => f.sign (s != t)
  | .fin s m e, .fin t n g =>
    if n = 0 then (if m = 0 then v.newNan else f.sign (s != t) + f.infBits)
    else if m = 0 then f.sign (s != t)
    else let (q, k) := divJam m n; f.result v.rnd v.ftz (s != t) q (k + e - g)

/-- Whether |x| < |y| for finite values. -/
def magLt (m : Nat) (e : Int) (n : Nat) (g : Int) : Bool :=
  let k := min e g
  decide (m * 2 ^ (e - k).toNat < n * 2 ^ (g - k).toNat)

/-- Strict order of numbers with −0 below +0 when `zeros` is set, equal otherwise. -/
def fLt (zeros : Bool) : FVal → FVal → Bool
  | .inf s, .inf t => s && !t
  | .inf s, .fin .. => s
  | .fin .., .inf t => !t
  | .fin s m e, .fin t n g =>
    if m = 0 ∧ n = 0 then zeros && s && !t
    else if s != t then s
    else if s then magLt n g m e else magLt m e n g
  | _, _ => false

/-- Floating `min` (`lo`) or `max`: an operand value, the first NaN quieted (R84). -/
def Fmt.pick (f : Fmt) (ftz lo : Bool) (a b : Nat) : Nat :=
  let x := f.flush ftz a
  let y := f.flush ftz b
  match f.decode x, f.decode y with
  | .nan s q, _ => f.quiet s q
  | _, .nan s q => f.quiet s q
  | u, w => if lo then (if fLt true w u then y else x) else (if fLt true u w then y else x)

/-! ### Special functions (R103, R104) -/

/-- The integer square root, bit by bit from bit `k`. -/
def isqrt (n : Nat) : Nat → Nat → Nat
  | 0, r => if (r + 1) * (r + 1) ≤ n then r + 1 else r
  | k + 1, r => let t := r + 2 ^ (k + 1); isqrt n k (if t * t ≤ n then t else r)

/-- Fraction bits of the fixed-point numbers below. -/
def fixBits : Nat := 320

/-- atanh(p / q) = Σ (p/q)^(2k+1) / (2k+1), `n` terms from power `t` (fixed point). -/
def atanhFix (p q : Nat) : Nat → Nat → Nat → Nat
  | 0, _, _ => 0
  | n + 1, t, k => t / (2 * k + 1) + atanhFix p q n (t * p * p / (q * q)) (k + 1)

/-- ln 2 = 2 atanh(1/3). -/
def ln2Fix : Nat := 2 * atanhFix 1 3 110 (2 ^ fixBits / 3) 0

/-- e^x for 0 ≤ x < 1 in fixed point: `n` terms of the series. -/
def expFix (x : Nat) : Nat → Nat → Nat → Nat
  | 0, _, _ => 0
  | n + 1, t, k => t + expFix x n (t * x / 2 ^ fixBits / (k + 1)) (k + 1)

/-- 2^f for 0 ≤ f < 1 in fixed point. -/
def exp2Fix (f : Nat) : Nat := expFix (f * ln2Fix / 2 ^ fixBits) 80 (2 ^ fixBits) 0

/-- A positive value with its last bit set: an inexact magnitude and its exponent. -/
structure Mag where
  m : Nat
  e : Int

/-- The floor of x × 2^fixBits for a dyadic magnitude. -/
def toFix (m : Nat) (e : Int) : Nat :=
  let k := e + fixBits
  if 0 ≤ k then m * 2 ^ k.toNat else m / 2 ^ (-k).toNat

/-- 2^x for a dyadic x: integer part and fixed-point fraction of x give the magnitude. -/
def exp2Mag (s : Bool) (m : Nat) (e : Int) : Mag :=
  if decide (14 ≤ (Nat.log2 m : Int) + e) then (if s then ⟨1, -20000⟩ else ⟨1, 20000⟩)
  else if decide ((Nat.log2 m : Int) + e < -200) then (if s then ⟨2 ^ 200 - 1, -200⟩ else ⟨2 ^ 200 + 1, -200⟩)
  else
    let t := toFix m e
    if s then
      let i := t / 2 ^ fixBits
      let r := t % 2 ^ fixBits
      if r = 0 then ⟨1, -(i : Int)⟩
      else ⟨2 * exp2Fix (2 ^ fixBits - r) + 1, -(i : Int) - 2 - fixBits⟩
    else
      let i := t / 2 ^ fixBits
      let r := t % 2 ^ fixBits
      if r = 0 then ⟨1, i⟩ else ⟨2 * exp2Fix r + 1, (i : Int) - 1 - fixBits⟩

/-- log₂ of m × 2^e: sign and magnitude; exact for a power of two. -/
def log2Mag (m : Nat) (e : Int) : Bool × Mag :=
  let k := Nat.log2 m
  let i : Int := (k : Int) + e
  if m = 2 ^ k then (decide (i < 0), ⟨i.natAbs, 0⟩)
  else
    let p := m - 2 ^ k
    let q := m + 2 ^ k
    let ln := 2 * atanhFix p q 110 (2 ^ fixBits * p / q) 0
    let fr := ln * 2 ^ fixBits / ln2Fix
    let t : Int := i * 2 ^ fixBits + fr
    (decide (t < 0), ⟨if t < 0 then 2 * t.natAbs - 1 else 2 * t.natAbs + 1, -(fixBits : Int) - 1⟩)

/-- e^(−x) for x = m × 2^e > 0 as `g × 2^k`, g in fixed point. -/
def expNeg (m : Nat) (e : Int) : Nat × Int :=
  let y := toFix m e * 2 ^ fixBits / ln2Fix
  let i := y / 2 ^ fixBits
  let r := y % 2 ^ fixBits
  (exp2Fix (2 ^ fixBits - r - 1), -(i : Int) - 1 - fixBits)

/-- tanh of a positive dyadic. -/
def tanhMag (m : Nat) (e : Int) : Mag :=
  if decide ((Nat.log2 m : Int) + e < -60) then ⟨m * 2 ^ 64 - 1, e - 64⟩
  else if decide (8 ≤ (Nat.log2 m : Int) + e) then ⟨2 ^ 128 - 1, -128⟩
  else
    let (g, k) := expNeg m (e + 1)
    let t := max 1 (if -k ≤ 2 * fixBits then g * 2 ^ (2 * fixBits - (-k).toNat) else g / 2 ^ ((-k).toNat - 2 * fixBits))
    let one := 2 ^ (2 * fixBits)
    ⟨2 * ((one - t) * 2 ^ fixBits / (one + t)) + 1, -(fixBits : Int) - 1⟩

/-- 1 / (1 + e^(−x)) of a nonzero dyadic. -/
def sigmMag (s : Bool) (m : Nat) (e : Int) : Mag :=
  if decide (11 ≤ (Nat.log2 m : Int) + e) then (if s then ⟨1, -20000⟩ else ⟨2 ^ 128 - 1, -128⟩)
  else if decide ((Nat.log2 m : Int) + e < -200) then (if s then ⟨2 ^ 200 - 1, -201⟩ else ⟨2 ^ 200 + 1, -201⟩)
  else
    let (g, k) := expNeg m e
    let one := 2 ^ (-k).toNat
    if s then ⟨2 * (g * 2 ^ fixBits / (one + g)) + 1, -(fixBits : Int) - 1⟩
    else ⟨2 * (one * 2 ^ fixBits / (one + g)) + 1, -(fixBits : Int) - 1⟩

/-- Special functions of Table 4-8. -/
inductive SFn where
  | rcp | rsq | sqrt | exp2 | log2 | tanh | sigm
  deriving DecidableEq, Repr

/-- A function's exact result as bits, or a magnitude to round (R103): the special values of Table 4-8. -/
def Fmt.fnVal (f : Fmt) (v : FEnv) (fn : SFn) (x : FVal) : Nat ⊕ (Bool × Mag) :=
  let inf (s : Bool) : Nat := f.sign s + f.infBits
  match fn, x with
  | _, .nan s q => .inl (f.quiet s q)
  | .rcp, .inf s => .inl (f.sign s)
  | .rcp, .fin s m e => if m = 0 then .inl (inf s) else let (q, k) := divJam 1 m; .inr (s, ⟨q, k - e⟩)
  | .rsq, .inf s => if s then .inl v.newNan else .inl 0
  | .rsq, .fin s m e =>
    if m = 0 then .inl (inf s) else if s then .inl v.newNan
    else
      let (m, e) := if e % 2 = 0 then (m, e) else (2 * m, e - 1)
      let r := isqrt (2 ^ 256 / m) 128 0
      .inr (false, ⟨if r * r * m = 2 ^ 256 then 2 * r else 2 * r + 1, -129 - e / 2⟩)
  | .sqrt, .inf s => if s then .inl v.newNan else .inl (inf false)
  | .sqrt, .fin s m e =>
    if m = 0 then .inl (f.sign s) else if s then .inl v.newNan
    else
      let (m, e) := if e % 2 = 0 then (m, e) else (2 * m, e - 1)
      let n := m * 2 ^ 128
      let r := isqrt n 80 0
      .inr (false, ⟨if r * r = n then 2 * r else 2 * r + 1, e / 2 - 65⟩)
  | .exp2, .inf s => if s then .inl 0 else .inl (inf false)
  | .exp2, .fin s m e => if m = 0 then .inr (false, ⟨1, 0⟩) else .inr (false, exp2Mag s m e)
  | .log2, .inf s => if s then .inl v.newNan else .inl (inf false)
  | .log2, .fin s m e => if m = 0 then .inl (inf true) else if s then .inl v.newNan else .inr (log2Mag m e)
  | .tanh, .inf s => .inr (s, ⟨1, 0⟩)
  | .tanh, .fin s m e => if m = 0 then .inl (f.sign s) else .inr (s, tanhMag m e)
  | .sigm, .inf s => if s then .inl 0 else .inr (false, ⟨1, 0⟩)
  | .sigm, .fin s m e => if m = 0 then .inr (false, ⟨1, -1⟩) else .inr (false, sigmMag s m e)

/-- The exact form: rounded once under the mode (R103). -/
def Fmt.fn (f : Fmt) (v : FEnv) (fn : SFn) (a : Nat) : Nat :=
  match f.fnVal v fn (f.operand v.ftz a) with
  | .inl b => b
  | .inr (s, g) => f.result v.rnd v.ftz s g.m g.e

/-- The first 12 significant bits of a magnitude that F32 holds as a normal number; an underflowing one goes as in the
exact form (R104). -/
def cut12 (g : Mag) : Mag :=
  let k := Nat.log2 g.m
  if k < 12 ∨ (k : Int) + g.e < fmtF32.emin then g else ⟨g.m / 2 ^ (k - 11), g.e + (k - 11 : Nat)⟩

/-- The approximate form on F32: the exact value toward zero to 12 significant bits (R104). -/
def fnApprox (v : FEnv) (fn : SFn) (a : Nat) : Nat :=
  match fmtF32.fnVal v fn (fmtF32.operand v.ftz a) with
  | .inl b => b
  | .inr (s, g) => let g := cut12 g; fmtF32.result .z v.ftz s g.m g.e

/-- a × 2^n rounded once (R106). -/
def Fmt.scale (f : Fmt) (v : FEnv) (a : Nat) (n : Int) : Nat :=
  match f.operand v.ftz a with
  | .nan s x => f.quiet s x
  | .inf s => f.sign s + f.infBits
  | .fin s m e => if m = 0 then f.sign s else f.result v.rnd v.ftz s m (e + max (-512) (min 512 n))

/-- An element rounded to an integral value (R108). -/
def Fmt.integral (f : Fmt) (ftz : Bool) (r : Round) (a : Nat) : Nat :=
  match f.operand ftz a with
  | .nan s x => f.quiet s x
  | .inf s => f.sign s + f.infBits
  | .fin s m e => f.result .ne ftz s (roundMag r s m e 0) 0

/-- The class bits of `fcls` (Table 4-9). -/
def Fmt.classOf (f : Fmt) (ftz : Bool) (a : Nat) : Nat :=
  match f.operand ftz a with
  | .nan _ x => if f.inf && !bitOf x (f.fb - 1) then 0 else 1
  | .inf _ => 2
  | .fin _ m _ => if m = 0 then 5 else if bitsOf (f.flush ftz a) f.fb f.eb = 0 then 4 else 3

/-! ### Stochastic draws (R31) -/

def mixStep (h : BitVec 32) : BitVec 32 := (h ^^^ (h >>> 15)) * 0x2C1B3C6D#32

/-- `SR_BITS(seed, dix, lane, j)`. -/
def srBits (seed dix : BitVec 64) (lane j : Nat) : Nat :=
  let h := seed.truncate 32 ^^^ (dix.truncate 32 * 0x6B3F29D5#32) ^^^ (BitVec.ofNat 32 (lane + 32 * j) * 0x5C4E2A97#32) ^^^
    (seed >>> 32).truncate 32
  ((mixStep (mixStep (mixStep h))) >>> 16).toNat

/-! ### Conversion (R14, Table 1-3) -/

/-- Whether m × 2^e is at or above a format's overflow threshold, the largest finite magnitude and half a last place. -/
def Fmt.beyond (f : Fmt) (m : Nat) (e : Int) : Bool :=
  match f.decode f.maxBits with
  | .fin _ n g => !magLt m e (2 * n + 1) (g - 1)
  | _ => false

/-- A finite value in a floating target under a rounding code of `cvt`: 0 ne, 1 z, 2 sr with its draw, 3 ne+saturate. -/
def Fmt.convert (f : Fmt) (code draw : Nat) (s : Bool) (m : Nat) (e : Int) : Nat :=
  if code = 1 then f.sign s + min (f.magBits .z s m e) f.maxBits
  else if f.beyond m e then (if code = 3 then f.sign s + f.maxBits else if f.inf then f.sign s + f.infBits else f.infBits)
  else
    let within := decide (f.magBits .up false m e ≤ f.maxBits)
    f.sign s + min (f.magBits (if code = 2 ∧ within then .draw draw else .ne) s m e) f.maxBits

/-- An infinity in a floating target (Table 1-3). -/
def Fmt.convertInf (f : Fmt) (code : Nat) (s : Bool) : Nat :=
  if f.inf then (if code = 3 then f.sign s + f.maxBits else f.sign s + f.infBits)
  else if code = 1 ∨ code = 3 then f.sign s + f.maxBits else f.infBits

/-- A clamp to an integer range. -/
def clampInt (x lo hi : Int) : Int := max lo (min hi x)

/-! ### Anchored accumulation (R22–R30) -/

/-- The emax of a finite element (R24). -/
def Fmt.emax (f : Fmt) (b : Nat) : Int :=
  let x := bitsOf b f.fb f.eb
  if x = 0 then f.emin else (x : Int) - f.bias

/-- A condition of an accumulation (R25). -/
inductive Term where
  | num (s : Bool) (m : Nat) (e : Int)
  | inf (s : Bool)
  | nan (bits : Nat)
  deriving DecidableEq, Repr

/-- A term on the grid of an anchor: toward zero (R22). -/
def quantise (α : Int) (s : Bool) (m : Nat) (e : Int) : Int :=
  let k := e - (α - 100)
  let q : Int := (if 0 ≤ k then m * 2 ^ k.toNat else m / 2 ^ (-k).toNat : Nat)
  if s then -q else q

/-- The bound of R26 and a saturating sum with its overflow. -/
def satMax : Int := 2 ^ 127 - 1
def satAdd (a q : Int) : Int × Bool :=
  let q' := clampInt q (-satMax) satMax
  let t := clampInt (a + q') (-satMax) satMax
  (t, decide (q' ≠ q) || decide (t ≠ a + q'))

/-- The running sum of an accumulation: the integer, sticky overflow, the first NaN's bits, the infinities. -/
structure Sum where
  a : Int
  ovf : Bool
  nan : Option Nat
  pinf : Bool
  ninf : Bool
  deriving DecidableEq, Repr

def Sum.zero : Sum := ⟨0, false, none, false, false⟩

def Sum.add (α : Int) (x : Sum) : Term → Sum
  | .nan b => { x with nan := x.nan.or (some b) }
  | .inf s => if s then { x with ninf := true } else { x with pinf := true }
  | .num s m e => let (t, o) := satAdd x.a (quantise α s m e); { x with a := t, ovf := x.ovf || o }

/-- `ANCHOR_SUM(terms, α)`. -/
def anchorSum (α : Int) (ts : List Term) : Sum := ts.foldl (Sum.add α) Sum.zero

/-- The final conversion into a format (R25, R29): nearest even, subnormals kept. -/
def Sum.toFmt (f : Fmt) (α : Int) (newNan : Nat) (x : Sum) : Nat :=
  match x.nan with
  | some b => b
  | none =>
    if x.pinf && x.ninf then newNan
    else if x.pinf then f.infBits else if x.ninf then f.sign true + f.infBits
    else f.round .ne (decide (x.a < 0)) x.a.natAbs (α - 100)

/-- A product of two elements as a term; a NaN operand is the first of a, b, quieted into the result format (R25). -/
def prodTerm (f : Fmt) (carry : Bool → Nat → Nat) (newNan : Nat) (a b : Nat) : Term :=
  match f.decode a, f.decode b with
  | .nan s x, _ => .nan (carry s x)
  | _, .nan s x => .nan (carry s x)
  | .inf s, .inf t => .inf (s != t)
  | .inf s, .fin t m _ => if m = 0 then .nan newNan else .inf (s != t)
  | .fin s m _, .inf t => if m = 0 then .nan newNan else .inf (s != t)
  | .fin s m e, .fin t n g => .num (s != t) (m * n) (e + g)

/-- One element as a term. -/
def elemTerm (f : Fmt) (carry : Bool → Nat → Nat) (a : Nat) : Term :=
  match f.decode a with
  | .nan s x => .nan (carry s x)
  | .inf s => .inf s
  | .fin s m e => .num s m e

/-- The emax of a set: its finite elements, or the format's minimum normal exponent (R24). -/
def Fmt.emaxSet (f : Fmt) (bs : List Nat) : Int :=
  let es := bs.filterMap fun b => match f.decode b with | .fin .. => some (f.emax b) | _ => none
  es.foldl max f.emin

end Sys2Proof.Machine
end

