-- ==== Sys2Proof/Machine/Translate.lean ====
section
/-! DEFINITION. Contexts, page tables, cluster TLBs, homes under key ids (R360–R366, R376, R377). -/

namespace Sys2Proof.Machine

/-- What an access does to its page (R363). -/
inductive Use where
  | read | write | fetch
  deriving DecidableEq, Repr

/-- A translation that succeeded: the key of the byte, the key id, the policy, whether the page counts accesses, the leaf
and the page it maps. -/
structure Xlat where
  pa : Nat
  kid : Nat
  policy : Nat
  counted : Bool
  leaf : BitVec 64
  page : Nat
  size : Nat
  deriving DecidableEq, Repr

/-- A translation that failed: its cause, the level, the base of the faulting page (Table 16-5, R367). -/
structure XFail where
  cause : Nat
  level : Nat
  page : Nat
  deriving DecidableEq, Repr

namespace State

/-- `n` bytes of a context record (Table 16-1); CTXBASE is taken as a device physical address (log 8). -/
def ctxField (s : State) (asid off n : Nat) : Nat :=
  Memory.readLE s.mem (keyAt devSpace 0 (s.ctxBase.toNat + 256 * asid + off)) n

def ctxValid (s : State) (asid : Nat) : Bool := bitOf (s.ctxField asid 4 4) 0
def ctxSystem (s : State) (asid : Nat) : Bool := bitOf (s.ctxField asid 4 4) 1
def ctxReach (s : State) (asid : Nat) : Nat := s.ctxField asid 2 1

/-- A page-table entry (R362). -/
def pte (s : State) (addr : Nat) : Nat := Memory.readLE s.mem (keyAt devSpace 0 addr) 8

/-- The levels of Table 16-2 as (level, low index bit, index bits). -/
def levels : List (Nat × Nat × Nat) := [(0, 48, 9), (1, 39, 9), (2, 30, 9), (3, 21, 9), (4, 16, 5)]

/-- A walk to a leaf (R361–R363): the leaf and its page size. -/
def walkFrom (s : State) (va table : Nat) : List (Nat × Nat × Nat) → Except XFail (Nat × Nat × Nat)
  | [] => .error ⟨2, 4, 0⟩
  | (lv, lo, n) :: rest =>
    let e := s.pte (table + 8 * bitsOf va lo n)
    let page := va / 2 ^ lo * 2 ^ lo
    if !bitOf e 0 then .error ⟨0, lv, page⟩
    else if bitOf e 7 then
      if lv < 2 then .error ⟨2, lv, page⟩ else .ok (e, lo, lv)
    else if lv = 4 then .error ⟨2, lv, page⟩
    else if bitsOf e 52 12 ≠ 0 ∨ bitsOf e 1 6 ≠ 0 then .error ⟨2, lv, page⟩
    else walkFrom s va (bitsOf e 8 44 * 256) rest

def walk (s : State) (asid va : Nat) : Except XFail (Nat × Nat × Nat) :=
  s.walkFrom va (s.ctxField asid 8 8) levels

/-- Whether a leaf is malformed (Table 16-3, R363): the low bits of FRAME are zero under every SPACE. -/
def leafBad (e lo : Nat) : Bool :=
  bitsOf e 52 12 != 0 || bitsOf e 14 2 == 3 || bitsOf e 1 2 == 3 ||
    (bitsOf e 16 (lo - 16) != 0 && decide (16 < lo)) ||
    (bitsOf e 14 2 == 2 && bitsOf e 48 4 != 0) || (bitsOf e 14 2 != 0 && bitsOf e 8 6 != 0) ||
    (bitsOf e 14 2 == 0 && bitOf e 6)

/-- Whether a device page lies in a reach's frame ranges (R375). -/
def inFrames (s : State) (reach pa n : Nat) : Bool :=
  ((s.reaches.getOr reach ⟨[], 0⟩).frames.any fun (b, m) => decide (b ≤ pa) && decide (pa + n ≤ b + m))

/-- The key of a byte of peer memory: the node, the issuing context and the VA, which the peer translates (R366). -/
def peerKey (asid node va : Nat) : Nat := keyAt peerSpace (asid * 2 ^ 32 + node) va

/-- Whether a peer refuses an access at a VA: what its own tables say is not in this module (R366; log 68). -/
def peerRefuses (s : State) (key va : Nat) : Bool := s.refuses.contains (keyNode key, va / 2 ^ 16) || s.freeBit 3000

/-- The checks of R363 at a leaf, in their order, and the place the leaf maps `va` to. -/
def useLeaf (s : State) (reach asid va e lo lv : Nat) (use : Use) : Except XFail Xlat :=
  let page := va / 2 ^ lo * 2 ^ lo
  let space := bitsOf e 14 2
  let base := if space = 2 then 0 else bitsOf e 16 36 * 2 ^ 16
  let fail (c : Nat) : Except XFail Xlat := .error ⟨c, lv, page⟩
  if leafBad e lo then fail 2
  else if space = 0 ∧ !(s.reaches.getOr reach ⟨[], 0⟩).keys.getLsbD (bitsOf e 8 6) then fail 4
  else if space = 0 ∧ !s.inFrames reach base (2 ^ lo) then fail 6
  else if (use = .write ∧ !bitOf e 3) ∨ (use = .fetch ∧ !bitOf e 4) then fail 1
  else if use = .write ∧ bitOf e 5 then fail 3
  else if space = 2 ∧ s.peerRefuses (peerKey asid (bitsOf e 16 32) va) va then fail 5
  else
    let pa := if space = 2 then peerKey asid (bitsOf e 16 32) va
              else keyAt space 0 (base + va % 2 ^ lo)
    .ok ⟨pa, bitsOf e 8 6, bitsOf e 1 2, bitOf e 6, BitVec.ofNat 64 e, page, 2 ^ lo⟩

/-- The entry of a cluster's TLB that covers a page (R364). -/
def tlbHit (s : State) (cluster asid va : Nat) : Option TlbEntry :=
  (s.tlb cluster).find? fun e => e.asid == asid && decide (e.va ≤ va) && decide (va < e.va + e.size)

/-- The level of a page of a size, and its low index bit. -/
def levelOf (size : Nat) : Nat × Nat := if size = 2 ^ 30 then (2, 30) else if size = 2 ^ 21 then (3, 21) else (4, 16)

/-- Whether two translations come to the same. -/
def sameXlat : Except XFail Xlat → Except XFail Xlat → Bool
  | .ok a, .ok b => decide (a = b)
  | .error a, .error b => decide (a = b)
  | _, _ => false

/-- The translation of `va` in a cluster: by the tables, or while an invalidation is due by the entry the TLB holds
(R365); `pick` names the access the free choice is made for. -/
def translate (s : State) (cluster asid reach va : Nat) (use : Use) (pick : Nat) : Except XFail Xlat :=
  let new : Except XFail Xlat := match s.walk asid va with
    | .error e => .error e
    | .ok (e, lo, lv) => s.useLeaf reach asid va e lo lv use
  match s.tlbHit cluster asid va with
  | none => new
  | some t =>
    let lo := (levelOf t.size).2
    let old := s.useLeaf reach asid va t.leaf.toNat lo (levelOf t.size).1 use
    if sameXlat old new then new else if s.freeBit (1024 + pick) then old else new

/-- Keep a translation in the cluster's TLB; the oldest entry leaves a full TLB (R364). -/
def keepXlat (s : State) (cluster asid : Nat) (x : Xlat) : State :=
  if (s.tlbHit cluster asid x.page).isSome then s
  else s.setTlb cluster (⟨asid, x.page, x.size, x.leaf⟩ :: (s.tlb cluster).take (Config.tlbEntries - 1))

/-- Send an MSI-X message (R403). -/
def interrupt (s : State) (v : Nat) : State := { s with msix := s.msix ++ [v] }

/-! ### Device memory under key ids (R376, R377) -/

/-- A 16-byte block as written. -/
def blockOf (s : State) (pa : Nat) : BitVec 128 := BitVec.ofNat 128 (Memory.readLE s.mem (pa / 16 * 16) 16)

/-- One byte at its home as an access under a key id reads it. -/
def homeByte (s : State) (pa kid : Nat) : Byte :=
  let k := s.keyOf.getOr (pa / 16) 0
  if keySpace pa = devSpace ∧ k ≠ kid then
    (Config.decipher k kid (pa / 16 * 16) (s.blockOf pa)).extractLsb' (8 * (pa % 16)) 8
  else Memory.read s.mem pa

/-- `n` bytes at their home. -/
def homeRead (s : State) (pa kid : Nat) : Nat → Nat
  | 0 => 0
  | n + 1 => (s.homeByte pa kid).toNat + 256 * s.homeRead (pa + 1) kid n

/-- Bring a block under a key id before it is written under it (R376). -/
def rekey (s : State) (pa kid : Nat) : State :=
  let k := s.keyOf.getOr (pa / 16) 0
  if keySpace pa = devSpace ∧ k ≠ kid then
    let b := Config.decipher k kid (pa / 16 * 16) (s.blockOf pa)
    { s with mem := Memory.writeLE s.mem (pa / 16 * 16) 16 b.toNat,
             keyOf := if kid = 0 then s.keyOf.del (pa / 16) else s.keyOf.put (pa / 16) kid }
  else s

/-- Bring `n` blocks under a key id. -/
def rekeyAll (s : State) (b kid : Nat) : Nat → State
  | 0 => s
  | n + 1 => (s.rekey (16 * b) kid).rekeyAll (b + 1) kid n

/-- The drives that failed and whose table entries a write meets: each serves commands again, on a queue pair anew (R283). -/
def rewritten (q : Quay) (pa n : Nat) : Quay :=
  let met (d : Nat) : Bool := decide (pa < keyAt devSpace 0 (q.table + 64 * d) + 64) && decide (keyAt devSpace 0 (q.table + 64 * d) < pa + n)
  { q with failed := q.failed.filter fun d => !met d, queues := q.queues.keep fun d _ => !(q.failed.contains d && met d) }

/-- A context whose record becomes VALID starts its launch ids at 1, and its random key is the one it finds when it starts (R54, R360);
`s` is the state before. -/
def renewCtxs (t s : State) : FMap Ctx :=
  t.ctxs.mapAll fun a c => if !s.ctxValid a && t.ctxValid a then { c with launchNo := 1, key := none, created := c.created + 1 } else c

/-- Write the low `n` bytes of a number at their home, where the write joins co (Table 8-4); a whole word written loses its poison (R396). -/
def homeWrite (s : State) (pa kid : Nat) (n v : Nat) : State :=
  let s := s.rekeyAll (pa / 16) kid ((pa + n - 1) / 16 + 1 - pa / 16)
  let t : State :=
    { s with mem := Memory.writeLE s.mem pa n v, co := (pa, n, v % 2 ^ (8 * n)) :: s.co, quay := rewritten s.quay pa n,
             poison := s.poison.filter fun w => !(decide (pa ≤ 4 * w) && decide (4 * w + 4 ≤ pa + n)) }
  let table := keyAt devSpace 0 s.ctxBase.toNat
  if pa < table + 2 ^ 24 ∧ table < pa + n then { t with ctxs := t.renewCtxs s } else t

/-- Whether a word that an access touches is poisoned (R168, R396). -/
def poisoned (s : State) (pa n : Nat) : Bool :=
  s.poison.any fun w => decide (pa < 4 * w + 4) && decide (4 * w < pa + n)

/-- Mark the words of an access poisoned. -/
def setPoison (s : State) (pa n : Nat) : State :=
  { s with poison := (List.range ((pa + n - 1) / 4 + 1 - pa / 4)).foldl (fun p k => addSorted p (pa / 4 + k)) s.poison }

end State

end Sys2Proof.Machine
end

