-- ==== Sys2Proof/Machine/Memory.lean ====
section
/-! DEFINITION. The moves of the ordering machine (R238–R257): copies in L1, path caches and aqueducts, the pending
buffer of a slice, Fetch, Register, Atomic, Acquire, Release, Write-back, Path read, Path fence, Fill, Drop, and the
accesses of engines, the host and peers. -/

namespace Sys2Proof.Machine

/-- A place an access reaches: its key, key id, policy, whether it counts, its VA and the agent's context, die, core. -/
structure Place where
  pa : Nat
  kid : Nat
  policy : Nat
  counted : Bool
  va : Nat
  asid : Nat
  deriving DecidableEq, Repr

/-- Bytes of a word replaced by the low bytes of a number: bytes `lo … lo + n - 1` of the word. -/
def setBytes (w : Word) (lo n v : Nat) : Word :=
  let m := (2 ^ (8 * n) - 1) * 2 ^ (8 * lo)
  (w &&& ~~~(BitVec.ofNat 32 m)) ||| BitVec.ofNat 32 (v % 2 ^ (8 * n) * 2 ^ (8 * lo))

/-- The byte lanes of a word that an access of `n` bytes at `pa` covers. -/
def byteMask (w pa n : Nat) : BitVec 4 := nibOf fun j => decide (pa ≤ 4 * w + j) && decide (4 * w + j < pa + n)

/-- Byte `j` of a word. -/
def wordByte (w : Word) (j : Nat) : Byte := w.extractLsb' (8 * j) 8

/-- Whether two byte ranges meet. -/
def overlap (a m b n : Nat) : Bool := decide (a < b + n) && decide (b < a + m)

/-- Whether a place is homed off a die (R231, R234). -/
def State.offDie (s : State) (die pa : Nat) : Bool :=
  keySpace pa == hostSpace || keySpace pa == peerSpace || (keySpace pa == devSpace && s.homeDie (keyAddr pa) != die)

/-- A pending entry is a store. -/
def Pend.isStore (p : Pend) : Bool := decide (p.kind = .store)

/-- A pending entry reads or adds: it has no value to forward (R240). -/
def Pend.isRmw (p : Pend) : Bool :=
  match p.kind with | .store => false | .release => false | .atom _ => true | .cas => true | .asum => true

/-- The youngest pending store that covers a byte, the newest entry last in PEND (R240). -/
def forward : List Pend → Nat → Option Byte
  | [], _ => none
  | p :: r, b =>
    match forward r b with
    | some v => some v
    | none => if p.isStore && decide (p.pa ≤ b) && decide (b < p.pa + p.size)
              then some (BitVec.ofNat 8 (p.data / 2 ^ (8 * (b - p.pa)))) else none

namespace State

/-! ### Copies -/

/-- Remove the copies of a word from every aqueduct but one die's (R234). -/
def dropAqBut (s : State) (w : Nat) (but : Option Nat) : State :=
  { s with dies := s.dies.mapAll fun d x => if but = some d then x else { x with aq := x.aq.del w } }

/-- The L1 copies of a word on cores other than `but` lose their owner mark (R242, R252). -/
def disown (s : State) (w : Nat) (but : Option Nat) : State :=
  { s with cores := s.cores.mapAll fun c x =>
      if but = some c then x else { x with l1 := x.l1.adjust w fun e => { e with owner := none } } }

/-- Words of the 64-byte line of a key. -/
def lineWords (pa : Nat) : List Nat := (List.range 16).map (pa / 64 * 16 + ·)

/-- The words that an access touches. -/
def wordsOf (pa n : Nat) : List Nat := (List.range ((pa + n - 1) / 4 + 1 - pa / 4)).map (pa / 4 + ·)

/-- Byte `j` of a copy, where an access under a key id finds it (R376). -/
def copyByte (m : FMap Copy) (b kid : Nat) : Option Byte :=
  (m.find (b / 4)).bind fun e => if nib e.kept (b % 4) && e.kid == kid then some (wordByte e.val (b % 4)) else none

/-- A byte as the aqueduct of a die or the home holds it (R240, R252): a clean one only under the key id it was read under (R376). -/
def belowL1 (s : State) (die : Nat) (clean : Bool) (pa kid : Nat) : Byte :=
  match (s.die die).aq.find (pa / 4) with
  | some a => if nib a.dirty (pa % 4) || (clean && a.kid == kid && nib a.kept (pa % 4)) then wordByte a.val (pa % 4)
              else s.homeByte pa kid
  | none => s.homeByte pa kid

/-- A whole word as the aqueduct of a die or the home holds it; `clean` as in `belowL1`. -/
def wordBelow (s : State) (die : Nat) (clean : Bool) (w kid : Nat) : Word :=
  let b (j : Nat) := s.belowL1 die clean (4 * w + j) kid
  b 3 ++ b 2 ++ b 1 ++ b 0

/-- Whether a word read below the L1 of a die carries an uncorrectable error: one that a store of the whole word has dirtied in its aqueduct
does not (R168, R396). -/
def wordBad (s : State) (die w : Nat) : Bool :=
  s.poison.contains w && !(((s.die die).aq.find w).any fun a => a.whole)

/-! ### Write-back (R248) -/

/-- Whether the page of a dirty aqueduct word is still writable (R180): the write-blocking bit does not count. -/
def stillWritable (s : State) (w : Nat) (a : AqWord) : Bool :=
  match a.dirtied.head? with
  | none => true
  | some x => match s.walk x.asid x.va with
    | .error _ => false
    | .ok (e, lo, _) => !leafBad e lo && bitOf e 3 && !(keySpace (4 * w) == peerSpace && s.peerRefuses (4 * w) x.va)

/-- Write a dirty word of an aqueduct to its home, when its page is still writable; narrower stores leave it poisoned (R396). -/
def writeBack (s : State) (die w : Nat) : State :=
  match (s.die die).aq.find w with
  | none => s
  | some a =>
    if a.dirty = 0 ∨ !s.stillWritable w a then s
    else
      let s := (List.range 4).foldl (fun s j =>
        if nib a.dirty j then s.homeWrite (4 * w + j) 0 1 (wordByte a.val j).toNat else s) s
      let s := if a.whole then { s with poison := s.poison.filter fun x => decide (x ≠ w) } else s
      s.modDie die fun d => { d with aq := d.aq.put w { a with dirty := 0, whole := false, dirtied := [] } }

/-- The words a slice has dirtied in its die's aqueduct. -/
def dirtyOf (s : State) (die gang slice : Nat) : List Nat :=
  ((s.die die).aq.filter fun (_, a) =>
    decide (a.dirty ≠ 0) && a.dirtied.any fun x => x.gang == gang && x.slice == slice).map Prod.fst

/-- The words that a context dirtied in a die's aqueduct (R257). -/
def dirtyIn (s : State) (die asid : Nat) : List Nat :=
  ((s.die die).aq.filter fun (_, a) => decide (a.dirty ≠ 0) && a.dirtied.any fun x => x.asid == asid).map Prod.fst

/-- Write back every dirty word of an aqueduct that a list names. -/
def writeBackAll (s : State) (die : Nat) (ws : List Nat) : State := ws.foldl (fun s w => s.writeBack die w) s

/-! ### Lines that caches take in and give up (R240, R245, R364, Table 0-1) -/

/-- The lines of which a map holds words. -/
def linesOf {α : Type} (m : FMap α) : List Nat := (m.map fun (w, _) => w / 16).eraseDups

/-- A line other than `line` that a full map gives up, by a free choice; none while `cap` lines fit. -/
def victim {α : Type} (s : State) (m : FMap α) (cap line : Nat) : Option Nat :=
  let ls := linesOf m
  if ls.length ≤ cap then none
  else
    let others := ls.filter fun l => l != line
    others[(s.freeWord 3001).toNat % max 1 others.length]?

/-- Drop a line from a map of copies. -/
def dropLine (m : FMap Copy) (key : Nat) : FMap Copy := (lineWords key).foldl (fun m w => m.del w) m

/-- Drop the clean bytes of a line from an aqueduct. -/
def dropClean (m : FMap AqWord) (key : Nat) : FMap AqWord :=
  (lineWords key).foldl (fun m w =>
    match m.find w with
    | some a => if a.dirty = 0 then m.del w else m.put w { a with kept := a.dirty }
    | none => m) m

/-- Install a line in a map of copies of `cap` lines. -/
def installLine (s : State) (m : FMap Copy) (cap die : Nat) (clean : Bool) (p : Place) : FMap Copy :=
  let m := (lineWords p.pa).foldl (fun m w =>
    m.put w ⟨s.wordBelow die clean w p.kid, 15, none, p.va / 64 * 64, p.kid, s.wordBad die w⟩) m
  match s.victim m cap (p.pa / 64) with
  | some l => dropLine m (64 * l)
  | none => m

/-- An aqueduct that holds more lines than fit gives one up, its dirty words written back first. -/
def boundAq (s : State) (die line : Nat) : State :=
  match s.victim (s.die die).aq Config.aqLines line with
  | none => s
  | some l =>
    (s.writeBackAll die (lineWords (64 * l))).modDie die fun d => { d with aq := dropClean d.aq (64 * l) }

/-- Install clean copies of a line in the aqueduct of a die, what is dirty there kept (R240, Table 8-2). -/
def fillAq (s : State) (die : Nat) (p : Place) : State :=
  let s := (lineWords p.pa).foldl (fun s w =>
    let v := s.wordBelow die true w p.kid
    s.modDie die fun d =>
      { d with aq := match d.aq.find w with
          | some a => d.aq.put w { a with val := v, kept := 15, kid := p.kid }
          | none => d.aq.put w { val := v, kept := 15, dirty := 0, whole := false, kid := p.kid, dirtied := [] } }) s
  s.boundAq die (p.pa / 64)

/-- Install the line of a place in an L1, its words unowned, every byte from the aqueduct or the home (R240, R245). -/
def fillL1 (s : State) (core die : Nat) (p : Place) : State :=
  s.modCore core fun c => { c with l1 := s.installLine c.l1 Config.l1Lines die true p }

/-- Remove the line of a place from an L1 that holds words of it under another VA or another key id (R364, R376). -/
def dropAlias (s : State) (core : Nat) (p : Place) : State :=
  let bad := (lineWords p.pa).any fun w =>
    ((s.core core).l1.find w).any fun e => decide (e.va ≠ p.va / 64 * 64) || decide (e.kid ≠ p.kid)
  if bad then s.modCore core fun c => { c with l1 := dropLine c.l1 p.pa } else s

/-! ### Stores and atomics at their place (R242, R243, R175) -/

/-- The bytes of a word that a write of `n` bytes at `pa` puts into a word. -/
def mergeWord (old : Word) (w pa n v : Nat) : Word :=
  let lo := max pa (4 * w)
  let hi := min (pa + n) (4 * w + 4)
  setBytes old (lo - 4 * w) (hi - lo) (v / 2 ^ (8 * (lo - pa)))

/-- The L1 of a core receives the bytes of a word that its gang wrote, owned by the gang, when the line is there; a copy under another
key id loses its owner mark (R242, R376). -/
def l1Take (s : State) (core gang : Nat) (p : Place) (n v w : Nat) : State :=
  let m := byteMask w p.pa n
  let line := (lineWords (4 * w)).findSome? fun x => ((s.core core).l1.find x).bind fun e => if e.kid = p.kid then some e.va else none
  s.modCore core fun c =>
    { c with l1 := match c.l1.find w with
        | some e =>
          if e.kid = p.kid then
            c.l1.put w { e with val := mergeWord e.val w p.pa n v, kept := e.kept ||| m, owner := some gang, bad := e.bad && m != 15 }
          else c.l1.put w { e with owner := none }
        | none => match line with
          | some va => c.l1.put w ⟨mergeWord 0 w p.pa n v, m, some gang, va, p.kid, false⟩
          | none => c.l1 }

/-- Write bytes at a device or Basin home for a gang, with the effects of R242 on ownership and copies. -/
def homeStore (s : State) (core gang : Nat) (p : Place) (n v : Nat) : State :=
  let s := s.homeWrite p.pa p.kid n v
  (wordsOf p.pa n).foldl (fun s w =>
    let s := { s with own := s.own.put w gang }
    ((s.dropAqBut w none).disown w (some core)).l1Take core gang p n v w) s

/-- Gain exclusive ownership of the host line of a word for a die: every other aqueduct copy of the line is removed, a dirty word
written back first (R234). -/
def ownHost (s : State) (die w : Nat) : State :=
  (lineWords (4 * w)).foldl (fun s w =>
    (s.dies.keys.foldl (fun s d => if d = die then s else s.writeBack d w) s).dropAqBut w (some die)) s

/-- Write bytes into the aqueduct of a die as dirty, recording the slice (R234, R242). -/
def aqStore (s : State) (die core gang slice widx : Nat) (p : Place) (n v : Nat) : State :=
  let one (s : State) (w : Nat) : State :=
    let s := if keySpace p.pa = hostSpace then s.ownHost die w else s
    let m := byteMask w p.pa n
    let a : AqWord := ((s.die die).aq.find w).getD { val := 0, kept := 0, dirty := 0, whole := false, kid := p.kid, dirtied := [] }
    let me : Dirtier := ⟨gang, slice, p.asid, p.va - p.pa % 4 + 4 * (w - p.pa / 4), widx⟩
    let a := { a with val := mergeWord a.val w p.pa n v, kept := a.kept ||| m, dirty := a.dirty ||| m, whole := a.whole || m == 15,
                      dirtied := me :: a.dirtied.filter fun x => x.gang != gang || x.slice != slice }
    (s.modDie die fun d => { d with aq := d.aq.put w a }).l1Take core gang p n v w
  ((wordsOf p.pa n).foldl one s).boundAq die (p.pa / 64)

/-- A store at the place of R242. -/
def storeAt (s : State) (die core gang slice widx : Nat) (p : Place) (n v : Nat) : State :=
  if keySpace p.pa = hostSpace ∨ keySpace p.pa = peerSpace then s.aqStore die core gang slice widx p n v
  else s.homeStore core gang p n v

/-- The current bytes an atomic reads at its place, and the state in which it reads them: on host memory after the die has gained the
line; at a peer's home after the die's own dirty bytes of the words have been written back (R175). -/
def atomicRead (s : State) (die : Nat) (p : Place) (n : Nat) : State × Nat :=
  if keySpace p.pa = hostSpace then
    let s := (wordsOf p.pa n).foldl (fun s w => s.ownHost die w) s
    (s, leNat ((List.range n).map fun i => s.belowL1 die true (p.pa + i) p.kid))
  else if keySpace p.pa = peerSpace then
    let s := s.writeBackAll die (wordsOf p.pa n)
    (s, s.homeRead p.pa p.kid n)
  else (s, s.homeRead p.pa p.kid n)

/-- An atomic at a peer's home: the die's own copies of the words and the core's L1 receive the new bytes (R175, R243; log 68). -/
def peerAtomic (s : State) (die core gang : Nat) (p : Place) (n v : Nat) : State :=
  (wordsOf p.pa n).foldl (fun s w =>
    (s.modDie die fun d => { d with aq := d.aq.adjust w fun a => { a with val := mergeWord a.val w p.pa n v } }).l1Take
      core gang p n v w) (s.homeWrite p.pa p.kid n v)

/-- Write an atomic's new bytes at its place. -/
def atomicWrite (s : State) (die core gang slice widx : Nat) (p : Place) (n v : Nat) : State :=
  if keySpace p.pa = hostSpace then s.aqStore die core gang slice widx p n v
  else if keySpace p.pa = peerSpace then s.peerAtomic die core gang p n v
  else s.homeStore core gang p n v

/-- Words that an atomic computed from an uncorrectable error keep it (R396: poison travels with data). -/
def stain (s : State) (die core : Nat) (ws : List Nat) : State :=
  ws.foldl (fun s w =>
    let s := s.setPoison (4 * w) 4
    let s := s.modDie die fun d => { d with aq := d.aq.adjust w fun a => { a with whole := false } }
    s.modCore core fun c => { c with l1 := c.l1.adjust w fun e => { e with bad := true } }) s

/-! ### Acquire, path fence (R246, R249) -/

/-- The Acquire move of a gang on a core and die. -/
def acquire (s : State) (core die gang : Nat) : State :=
  let s := s.modCore core fun c => { c with l1 := c.l1.keep fun _ e => decide (e.owner = some gang) }
  let clean (w : Nat) (a : AqWord) : Bool := keySpace (4 * w) == peerSpace && decide (a.dirty = 0)
  let strip (w : Nat) (a : AqWord) : AqWord := if keySpace (4 * w) = peerSpace then { a with kept := a.dirty } else a
  s.modDie die fun d => { d with aq := FMap.mapAll (FMap.keep d.aq fun w a => !clean w a) strip }

/-- Remove every copy of the named path caches of a core. -/
def pathFence (s : State) (core : Nat) (constant tile : Bool) : State :=
  s.modCore core fun c => { c with pc := if constant then [] else c.pc, pt := if tile then [] else c.pt }

/-! ### Engines, the host, peers (R252, R255) -/

/-- An engine's read of bytes in its die: a dirty aqueduct byte, else the home. -/
def engineRead (s : State) (die pa kid n : Nat) : Nat :=
  leNat ((List.range n).map fun i => s.belowL1 die false (pa + i) kid)

/-- An engine's, the host's or a peer's write: at the home, every aqueduct copy of its words removed, every L1 copy disowned; a write of
host memory gains its line for the die first (R234, R252). -/
def engineWrite (s : State) (die pa kid n v : Nat) : State :=
  let ws := wordsOf pa n
  let s := if keySpace pa = hostSpace then ws.foldl (fun s w => s.ownHost die w) s else s
  ws.foldl (fun s w => { (s.dropAqBut w none).disown w none with own := s.own.del w }) (s.homeWrite pa kid n v)

/-- A write performed at the home in one step for a word of a gang (R244): as a store on device memory and the Basin; elsewhere every
aqueduct copy is written back and removed first. -/
def homePut (s : State) (core gang : Nat) (p : Place) (n v : Nat) : State :=
  if keySpace p.pa = hostSpace ∨ keySpace p.pa = peerSpace then
    let s := (wordsOf p.pa n).foldl (fun s w => (s.dies.keys.foldl (fun s d => s.writeBack d w) s).dropAqBut w none) s
    (wordsOf p.pa n).foldl (fun s w => s.l1Take core gang p n v w) (s.homeWrite p.pa p.kid n v)
  else s.homeStore core gang p n v

end State

end Sys2Proof.Machine
end

