-- ==== Sys2Proof/Machine/Reports.lean ====
section
/-! DEFINITION. What a die reports in memory: error records, fault records, notifications of its access counters (R367, R368, R370,
R389, R397, R407). -/

namespace Sys2Proof.Machine

namespace State

/-- Bytes written by the record logic of a die: Engine access writes (R252, R389), at a place already translated. -/
def recordWrite (s : State) (die pa kid : Nat) (bs : List Byte) : State := s.engineWrite die pa kid bs.length (leNat bs)

/-! ### Error records (R397) -/

/-- STRUCT and SEVERITY of a record that the spec requires without stating them (R407; log 5). -/
def freeStruct (s : State) : Nat := 1 + (s.freeWord 8).toNat % 8
def freeSeverity (s : State) : Nat := (s.freeWord 9).toNat % 4

/-- Write an error record of a die, or count it dropped: the ring is full, beyond device memory, or meets an uncorrectable error. The ring
VA is taken as a device address (log 8). `where_` is an address for the rows of Table 20-1 that have them; else bits 31:0 are a word index,
and the bits above tell the structures of one row apart (log 55). -/
def errorRecord (s : State) (die : Nat) (struct severity found core asid where_ : Nat) : State :=
  let d := s.die die
  let unit := (struct * 2 ^ 16 + core) * 2 ^ 64 + where_
  let place := if struct = 1 ∨ 5 ≤ struct ∧ struct ≠ 7 then where_ % 2 ^ 32 else where_
  let seen := min (d.correctable.getOr unit 0 + (if severity = 0 then 1 else 0)) (2 ^ 32 - 1)
  let s := s.modDie die fun d => { d with correctable := d.correctable.put unit seen }
  let held := (d.erHead - d.erGet).toNat
  if d.erSize = 0 ∨ d.erSize.toNat ≤ held then s.modDie die fun d => { d with erDrop := d.erDrop + 1 }
  else
    let off := d.erBase.toNat + 32 * (d.erHead.toNat % d.erSize.toNat)
    let at_ := keyAt devSpace 0 off
    if Config.hbmBytes < off + 32 ∨ s.poisoned at_ 32 then s.modDie die fun d => { d with erDrop := d.erDrop + 1 }
    else
      let rec_ := leBytes 1 struct ++ leBytes 1 severity ++ leBytes 1 found ++ leBytes 1 0 ++ leBytes 2 core ++
        leBytes 2 asid ++ leBytes 8 place ++ leBytes 8 s.now ++ leBytes 4 seen ++ leBytes 4 0
      let s := (s.recordWrite die at_ 0 rec_).modDie die fun d => { d with erHead := d.erHead + 1 }
      if held = 0 then s.interrupt 7 else s

/-- Log an uncorrectable error that an access met at a place (R168, R394, R397): by its word index in the Basin or the deck store of a core,
by its address in device memory, which is a die's, or beyond the module, where Table 20-1 names no structure (log 5). -/
def noteBad (s : State) (core asid pa : Nat) : State :=
  let die := dieOfCore core
  let at_ := keyAddr pa
  if keySpace pa = basinSpace then s.errorRecord die 1 1 0 (s.denseCore (keyNode pa)) asid (at_ / 4)
  else if keySpace pa = deckSpace then s.errorRecord die 1 1 0 (s.denseCore (keyNode pa)) asid (2 ^ 32 + at_ / 4)
  else if keySpace pa = devSpace then s.errorRecord (s.homeDie at_) 4 1 0 0xFFFF asid at_
  else s.errorRecord die (s.freeStruct) 1 0 0xFFFF asid at_

/-! ### Fault records (R367, R368, R407) -/

/-- What a fault record says of its source (Table 16-5). -/
structure FaultInfo where
  va : Nat
  asid : Nat
  kind : Nat
  cause : Nat
  reach : Nat
  quarter : Nat
  core : Nat
  launch : Nat
  gang : Nat
  widx : Nat
  slice : Nat
  level : Nat
  barrier : Nat
  lanes : Nat

/-- The bytes of a fault record (Table 16-5). -/
def faultBytes (f : FaultInfo) (park cyc : Nat) : List Byte :=
  leBytes 8 f.va ++ leBytes 2 f.asid ++ leBytes 1 f.kind ++ leBytes 1 f.cause ++ leBytes 1 f.reach ++
    leBytes 1 f.quarter ++ leBytes 2 f.core ++ leBytes 4 f.launch ++ leBytes 4 f.gang ++ leBytes 4 f.widx ++
    leBytes 1 f.slice ++ leBytes 1 f.level ++ leBytes 2 f.barrier ++ leBytes 4 f.lanes ++ leBytes 4 park ++
    leBytes 8 cyc ++ leBytes 16 0

/-- Withhold a fault record (R368, R407). -/
def withhold (s : State) (die : Nat) : State :=
  let d := s.die die
  let s' := s.modDie die fun d => { d with overflow := true, undelivered := min (d.undelivered + 1) 0xFFFF }
  if d.overflow then s' else s'.interrupt 3

/-- The next park id of a die. -/
def nextPark (s : State) (die : Nat) : Nat := (s.die die).parkNo % 2 ^ 32

/-- Write the fault record of one faulting page with the park id given, or withhold it. The ring is translated under
the record's own context (log 8). -/
def faultRecord (s : State) (die park : Nat) (f : FaultInfo) : State :=
  let d := s.die die
  if d.overflow ∨ (d.fbHead - d.fbGet).toNat = Config.faultEntries then s.withhold die
  else
    let va := d.fbBase.toNat + 64 * (d.fbHead.toNat % Config.faultEntries)
    match (s.walk f.asid va).bind fun (e, lo, lv) => s.useLeaf f.reach f.asid va e lo lv .write with
    | .error _ => (s.withhold die).errorRecord die s.freeStruct s.freeSeverity 0 0xFFFF f.asid va
    | .ok x =>
      if s.poisoned x.pa 64 then (s.withhold die).errorRecord die 4 1 0 0xFFFF f.asid va
      else
        let empty := d.fbHead = d.fbGet
        let s := (s.recordWrite die x.pa x.kid (faultBytes f park s.now)).modDie die fun d => { d with fbHead := d.fbHead + 1 }
        if empty then s.interrupt 3 else s

/-- Take a new park id of a die. -/
def takePark (s : State) (die : Nat) : State := s.modDie die fun d => { d with parkNo := d.parkNo + 1 }

/-! ### Access counters (R370) -/

/-- Write a notification record, or count it dropped (R370, R407). -/
def notify (s : State) (die : Nat) (c : Counter) : State :=
  let d := s.die die
  let held := (d.nqHead - d.nqGet).toNat
  let drop := s.modDie die fun d => { d with nqDrop := d.nqDrop + 1 }
  if d.nqSize = 0 ∨ d.nqSize.toNat ≤ held then drop
  else
    let va := d.nqBase.toNat + 16 * (d.nqHead.toNat % d.nqSize.toNat)
    match (s.walk c.asid va).bind fun (e, lo, lv) => s.useLeaf (s.ctxReach c.asid) c.asid va e lo lv .write with
    | .error _ => drop.errorRecord die s.freeStruct s.freeSeverity 0 0xFFFF c.asid va
    | .ok x =>
      if s.poisoned x.pa 16 then drop.errorRecord die 4 1 0 0xFFFF c.asid va
      else
        let bytes := leBytes 8 (c.granule * 2 ^ 16) ++ leBytes 2 c.asid ++ leBytes 1 die ++ leBytes 1 c.space ++
          leBytes 4 (if c.space = 1 then d.thresh else c.node % 2 ^ 32)
        let s := (s.recordWrite die x.pa x.kid bytes).modDie die fun d => { d with nqHead := d.nqHead + 1 }
        if held = 0 then s.interrupt 4 else s

/-- The counter of an access's granule. -/
def counterOf (asid pa : Nat) (c : Counter) : Bool :=
  c.space == keySpace pa && c.node == keyNode pa && c.granule == keyAddr pa / 2 ^ 16 && (c.space == 1 || c.asid == asid)

/-- Count one access to the granule of a place; a full cache gives up an entry of a free choice (R370). A record for an engine's access is
written at once, one for a gang's is owed (R389). -/
def countAccess (s : State) (die asid pa : Nat) (by_ : Option Nat) : State :=
  let d := s.die die
  if d.thresh = 0 then s
  else
    let g := keyAddr pa / 2 ^ 16
    let same := counterOf asid pa
    let n := ((d.counters.find? same).map Counter.count).getD 0 + 1
    let rest := d.counters.filter fun c => !same c
    let rest := if rest.length < Config.counterEntries then rest
                else rest.eraseIdx ((s.freeWord 7).toNat % Config.counterEntries)
    let c : Counter := ⟨keySpace pa, keyNode pa, g, asid, n⟩
    if n < d.thresh then s.modDie die fun d => { d with counters := c :: rest }
    else
      let s := s.modDie die fun d => { d with counters := { c with count := 0 } :: rest }
      match by_ with
      | none => s.notify die c
      | some g => s.modDie die fun d => { d with owed := d.owed ++ [(g, c)] }

end State

end Sys2Proof.Machine
end

