-- ==== Sys2Proof/Machine/Moves.lean ====
section
/-! DEFINITION. The moves that take entries of a slice's pending buffer, and the reads of its words (R240–R249, R173,
R174, R177). -/

namespace Sys2Proof.Machine

/-- The new word of an `atom` operation (Table 6-5). -/
def atomNew (op : Nat) (t : Tag) (old d : Word) : Word :=
  let signed := decide (t = .i32)
  match op with
  | 0 => if signed then BitVec.ofInt 32 (clampInt (old.toInt + d.toInt) (-2 ^ 31) (2 ^ 31 - 1))
         else BitVec.ofNat 32 (min (old.toNat + d.toNat) (2 ^ 32 - 1))
  | 1 => if signed then (if old.toInt ≤ d.toInt then old else d) else (if old.toNat ≤ d.toNat then old else d)
  | 2 => if signed then (if d.toInt ≤ old.toInt then old else d) else (if d.toNat ≤ old.toNat then old else d)
  | 3 => old &&& d
  | 4 => old ||| d
  | 5 => old ^^^ d
  | 6 => d
  | _ => old + d

/-- The elements of a lane word under a tag that `asum` and `red` add: their bits and format (R7, R177). -/
def floatElems (t : Tag) (w : Word) : List (Fmt × Nat) :=
  match t with
  | .f32 => [(fmtF32, w.toNat)]
  | .f16x2 => [(fmtF16, bitsOf w.toNat 0 16), (fmtF16, bitsOf w.toNat 16 16)]
  | .bf16x2 => [(fmtBF16, bitsOf w.toNat 0 16), (fmtBF16, bitsOf w.toNat 16 16)]
  | .e4m3x4 => (List.range 4).map fun j => (fmtE4M3, bitsOf w.toNat (8 * j) 8)
  | .e5m2x4 => (List.range 4).map fun j => (fmtE5M2, bitsOf w.toNat (8 * j) 8)
  | _ => []

/-- The addends of an `asum` lane word. -/
def asumTerms (t : Tag) (w : Word) : List Term :=
  match t with
  | .i32 => [.num (decide (w.toInt < 0)) w.toInt.natAbs 0]
  | _ => (floatElems t w).map fun (f, b) => elemTerm f (fun _ _ => 0) b

/-- A sum cell after one addend (Table 6-6, R177). -/
def cellAdd (cell : Nat) (t : Term) : Nat :=
  let put (c lo n v : Nat) : Nat := c - bitsOf c lo n * 2 ^ lo + v % 2 ^ n * 2 ^ lo
  let cell := put cell 160 32 (bitsOf cell 160 32 + 1)
  match t with
  | .nan _ => put cell 153 1 1
  | .inf s => if s then put cell 155 1 1 else put cell 154 1 1
  | .num s m e =>
    let (a, o) := satAdd (signedOf (bitsOf cell 0 128) 128) (quantise (signedOf (bitsOf cell 128 16) 16) s m e)
    let cell := put cell 0 128 (wrapNat a 128)
    if o then put cell 152 1 1 else cell

/-- The value `srd` reads from a sum cell (R178). -/
def cellValue (cell : Nat) : Word :=
  let pinf := bitOf cell 154
  let ninf := bitOf cell 155
  if bitOf cell 153 || (pinf && ninf) then 0x7FC00000
  else if pinf then 0x7F800000 else if ninf then 0xFF800000
  else
    let a := signedOf (bitsOf cell 0 128) 128
    BitVec.ofNat 32 (fmtF32.round .ne (decide (a < 0)) a.natAbs (signedOf (bitsOf cell 128 16) 16 - 100))

/-- The place of a pending entry. -/
def Pend.place (p : Pend) (asid : Nat) : Place := ⟨p.pa, p.kid, 0, p.counted, p.va, asid⟩

namespace State

/-- Give a lane of an allotment register the word an RMW returned, poisoned when the memory word was (R168, R243): R173 names
load lanes alone, and that an RMW returns the old bits of such a word is the model's choice (DESIGN CHOICE, log 69). -/
def returnLane (s : State) (g k : Nat) (p : Pend) (w : Word) (bad : Bool) : State :=
  s.modSlice g k fun x =>
    let r := x.regs.getOr p.dst Reg.zero
    let r := { r.setLane p.lane w with tag := p.tag, poison := r.poison &&& ~~~(1#4 <<< p.lane) ||| (if bad then 1#4 <<< p.lane else 0),
                                             flaw := r.flaw &&& ~~~(1#4 <<< p.lane) }
    { x with regs := x.regs.put p.dst r }

/-- Count an access that went beyond the core, when its page counts (R370). -/
def countIf (s : State) (die asid pa g : Nat) (counted : Bool) : State := if counted then s.countAccess die asid pa (some g) else s

/-- Take a store of PEND at its place (R242). -/
def performStore (s : State) (g k : Nat) (p : Pend) : State :=
  let x := s.gang g
  let die := dieOfCore x.core
  (s.storeAt die x.core g k p.widx (p.place x.asid) p.size p.data).countIf die x.asid p.pa g p.counted

/-- Take an RMW or `asum` of PEND in one indivisible step (R243, R173, R174, R177). The words of its place that carry an uncorrectable error
are logged (R394), and stay poisoned but under a swap; the lane gets the old bits, poisoned (log 69). -/
def performRmw (s : State) (g k : Nat) (p : Pend) : State :=
  let x := s.gang g
  let die := dieOfCore x.core
  let pl := p.place x.asid
  let bads := (wordsOf p.pa p.size).filter (s.wordBad die)
  let bad := bads != []
  let (s, old) := s.atomicRead die pl p.size
  let put (s : State) (v : Nat) : State := s.atomicWrite die x.core g k p.widx pl p.size v
  let s := match p.kind with
    | .atom op =>
      (put s (atomNew op p.tag (BitVec.ofNat 32 old) (BitVec.ofNat 32 p.data)).toNat).returnLane g k p (BitVec.ofNat 32 old) bad
    | .cas => (if old = p.data then put s p.data2 else s).returnLane g k p (BitVec.ofNat 32 old) bad
    | .asum => put s ((asumTerms p.tag (BitVec.ofNat 32 p.data)).foldl cellAdd old)
    | _ => s
  let s := if p.kind = .atom 6 then s else s.stain die x.core bads
  (bads.foldl (fun s w => s.noteBad x.core x.asid (4 * w)) s).countIf die x.asid p.pa g p.counted

/-- The region to which a release that a slice issues now is attributed (R145, R295). -/
def attributed (x : Slice) : Option (Nat × Word × Region) := x.region.map fun r => (x.levels.length, x.tregion &&& 0xFFFFFF, r)

/-- Complete a release of a slice: write back every word it dirtied; a word that stays dirty is a release write-back
fault, reported when the release completes (R247, R248, R180). Of several such words the first alone is reported (DESIGN CHOICE, log 69). -/
def completeRelease (s : State) (g k widx : Nat) (region : Option (Nat × Word × Region)) : State :=
  let die := dieOfCore (s.gang g).core
  let s := s.writeBackAll die (s.dirtyOf die g k)
  match s.dirtyOf die g k with
  | [] => s
  | w :: _ =>
    let by_ := ((s.die die).aq.find w).bind fun a => a.dirtied.find? fun x => x.gang == g && x.slice == k
    s.modSlice g k fun x => { x with failed := some ⟨(by_.map Dirtier.va).getD 0, (by_.map Dirtier.widx).getD 0, widx, region⟩ }

/-- Remove the oldest entry of PEND. -/
def popPend (s : State) (g k : Nat) : State := s.modSlice g k fun x => { x with pend := x.pend.tail }

/-- Perform an entry that has left PEND. -/
def performEntry (s : State) (g k : Nat) (p : Pend) : State :=
  match p.kind with
  | .store => s.performStore g k p
  | .release => s.completeRelease g k p.widx p.region
  | _ => s.performRmw g k p

/-- Take the oldest entry of PEND(s), whatever it is. -/
def takeFront (s : State) (g k : Nat) : State :=
  match (s.slice g k).pend with
  | [] => s
  | p :: _ => (s.popPend g k).performEntry g k p

/-- Whether an entry is of the same word as another and reaches its item. -/
def sameItem (p q : Pend) : Bool := p.stamp == q.stamp && decide (q.kind ≠ .release) && overlap p.pa p.size q.pa q.size

/-- How many of the oldest entries of slice `j` precede an entry of a higher slice, by the order of the lanes of one word (R167). -/
def lanesBefore (s : State) (g j : Nat) (p : Pend) : Nat :=
  let ps := (s.slice g j).pend
  if p.kind = .release ∨ !ps.any (sameItem p) then 0 else ps.length - (ps.reverse.takeWhile fun q => !sameItem p q).length

/-- Take what the slices below `k` must perform before an entry (R167). -/
def lowerFirst (g : Nat) : Nat → Pend → State → State
  | 0, _, s => s
  | j + 1, p, s =>
    let s := lowerFirst g j p s
    iter (fun s => match (s.slice g j).pend with
      | [] => s
      | q :: _ => (lowerFirst g j q s).takeFront g j) (s.lanesBefore g j p) s

/-- Take the oldest entry of PEND(s), after the lanes of its word that come before it. -/
def takeOldest (s : State) (g k : Nat) : State :=
  match (s.slice g k).pend with
  | [] => s
  | p :: _ => (lowerFirst g k p s).takeFront g k

/-- Take every entry of PEND(s), oldest first. -/
def drain (s : State) (g k : Nat) : State := iter (fun s => s.takeOldest g k) (s.slice g k).pend.length s

/-- What a slice has stored stands at its home: its pending entries are taken and its dirty words written back (R389). -/
def settle (s : State) (g k : Nat) : State :=
  let s := s.drain g k
  s.writeBackAll (dieOfCore (s.gang g).core) (s.dirtyOf (dieOfCore (s.gang g).core) g k)

/-- Write the notifications that are owed, after what the words that caused them and those before them stored stands at its home (R389). -/
def payOwed (s : State) : State :=
  let gs := s.dies.flatMap fun (_, d) => d.owed.map Prod.fst
  if gs = [] then s else
  let s := gs.eraseDups.foldl (fun s g => (s.gang g).slices.keys.foldl (fun s k => s.settle g k) s) s
  s.dies.keys.foldl (fun s d =>
    let cs := (s.die d).owed
    cs.foldl (fun s x => s.notify d x.2) (s.modDie d fun y => { y with owed := [] })) s

/-- A release that completes at once (R247): every older entry is taken, then the slice's dirty words written back. -/
def release (s : State) (g k widx : Nat) : State := (s.drain g k).completeRelease g k widx (attributed (s.slice g k))

/-- Take entries until none that reads or adds meets a byte range (R240). -/
def drainOver (s : State) (g k pa n : Nat) : State :=
  if (s.slice g k).pend.any fun p => p.isRmw && overlap p.pa p.size pa n then s.drain g k else s

/-- Take entries until none returns to a register of a list (R45: the device interlocks). -/
def drainRegs (s : State) (g k : Nat) (sts : List Nat) : State :=
  if (s.slice g k).pend.any fun p => p.isRmw && decide (p.kind ≠ .asum) && sts.contains p.dst then s.drain g k else s

/-- What a read returns: the state after it, the value, whether a word was poisoned, whether it went beyond the core. -/
structure Got where
  st : State
  val : Nat
  bad : Bool
  far : Bool

/-- The Fetch move of a lane (R240): `l1` is false for reads that take no L1 step. -/
def fetch (s : State) (g k : Nat) (p : Place) (n : Nat) (l1 : Bool) : Got :=
  let s := s.drainOver g k p.pa n
  let x := s.gang g
  let die := dieOfCore x.core
  let basin := keySpace p.pa == basinSpace
  let direct := p.policy == 2
  let pend := (s.slice g k).pend
  let l1m : FMap Copy := if basin || direct || !l1 then [] else (s.core x.core).l1
  let near (b : Nat) : Option Byte := (forward pend b).or (copyByte l1m b p.kid)
  let byte (b : Nat) : Byte := (near b).getD (if basin then s.homeByte b p.kid else s.belowL1 die (!direct) b p.kid)
  let at_ := (List.range n).map (p.pa + ·)
  let v := leNat (at_.map byte)
  let bad := at_.any fun b => (forward pend b).isNone &&
    if (copyByte l1m b p.kid).isSome then (FMap.find l1m (b / 4)).any Copy.bad
    else if basin then s.poison.contains (b / 4) else s.wordBad die (b / 4)
  let far := at_.any fun b => (near b).isNone
  let fill := far && !basin && !direct
  let s := if fill && s.offDie die p.pa then s.fillAq die p else s
  let s := if fill && l1 && p.policy == 0 then s.fillL1 x.core die p else s
  ⟨s, v, bad, far && !basin⟩

/-- The Path read move of a lane (R249): through the constant (`c`) or tile path cache of the core; what it reads below it installs
there, and in the aqueduct as Fetch does. -/
def pathRead (s : State) (core : Nat) (c : Bool) (p : Place) (n : Nat) : Got :=
  let die := dieOfCore core
  let cache := if c then (s.core core).pc else (s.core core).pt
  let clean := p.policy != 2
  let at_ := (List.range n).map (p.pa + ·)
  let v := leNat (at_.map fun b => (copyByte cache b p.kid).getD (s.belowL1 die clean b p.kid))
  let far := at_.any fun b => (copyByte cache b p.kid).isNone
  let bad := at_.any fun b =>
    if (copyByte cache b p.kid).isSome then (cache.find (b / 4)).any Copy.bad else s.wordBad die (b / 4)
  let add (s : State) (m : FMap Copy) : FMap Copy := s.installLine m Config.pathLines die clean p
  let s := if far && clean && s.offDie die p.pa then s.fillAq die p else s
  let s := if far then s.modCore core fun x => { x with pc := if c then add s x.pc else x.pc, pt := if c then x.pt else add s x.pt }
           else s
  ⟨s, v, bad, far⟩

/-- Append entries to PEND(s). -/
def pushPend (s : State) (g k : Nat) (ps : List Pend) : State := s.modSlice g k fun x => { x with pend := x.pend ++ ps }

end State

end Sys2Proof.Machine
end

