-- ==== Sys2Proof/Machine/Tow.lean ====
section
/-! DEFINITION. Window frames and the towpath (R216–R228): the ring, frame records, spills, refills, committed bytes. -/

namespace Sys2Proof.Machine

/-- The registers of a gang's ring (R212). -/
def Gang.ring (g : Gang) : Nat := g.allot - 8

/-- The slides of the frames whose registers stand in the ring (R218). -/
def Slice.resident (x : Slice) : Nat := ((x.frames.filter fun f => !f.spilled).map Frame.slide).sum

/-- Whether the current window and the trap reserve fit beside the resident frames (R219). -/
def Gang.fits (g : Gang) (x : Slice) : Bool := decide (56 + (if g.allot = 64 then 0 else 56) + x.resident ≤ g.ring)

/-- The ring position where the registers of frame `i` (newest first) begin. -/
def frameBase (g : Gang) (x : Slice) (i : Nat) : Nat :=
  (x.wb + g.ring * x.frames.length - ((x.frames.take (i + 1)).map Frame.slide).sum) % g.ring

/-- Slide the window by `d`: the base moves and the frame is recorded (R217). -/
def Slice.slideIn (x : Slice) (ring : Nat) (f : Frame) : Slice :=
  { x with wb := (x.wb + f.slide) % ring, frames := f :: x.frames }

/-- Slide the window back by its newest frame (R217). -/
def Slice.slideOut (x : Slice) (ring : Nat) : Slice :=
  { x with wb := (x.wb + ring - ((x.frames.head?.map Frame.slide).getD 0)) % ring, frames := x.frames.tail }

/-! ### Records (R225, Table 7-2, R343) -/

/-- The bytes of a register as a record holds them: its four lane words; its tag-block byte. -/
def Reg.bytes (r : Reg) : List Byte :=
  leBytes 4 r.l0.toNat ++ leBytes 4 r.l1.toNat ++ leBytes 4 r.l2.toNat ++ leBytes 4 r.l3.toNat
def Reg.tagByte (r : Reg) : Byte := BitVec.ofNat 8 (r.tag.code + 16 * r.poison.toNat)

/-- The register that 16 data bytes and a tag-block byte hold. -/
def Reg.ofBytes (b : List Byte) (t : Byte) : Reg :=
  { l0 := BitVec.ofNat 32 (recNat b 0 4), l1 := BitVec.ofNat 32 (recNat b 4 4), l2 := BitVec.ofNat 32 (recNat b 8 4),
    l3 := BitVec.ofNat 32 (recNat b 12 4), tag := Tag.ofCode (t.toNat % 16), poison := BitVec.ofNat 4 (t.toNat / 16),
    flaw := 0 }

/-- A register of which a read has met its uncorrectable errors: those lane words are poisoned (R228, R293). -/
def Reg.met (r : Reg) : Reg := { r with poison := r.poison ||| r.flaw, flaw := 0 }

/-- Bit `i` set when a flag is. -/
def flagBit (b : Bool) (i : Nat) : Nat := if b then 2 ^ i else 0

/-- The variant block of a `callv` frame (R343). -/
def VBlock.bytes (v : VBlock) : List Byte :=
  leBytes 8 v.table ++ leBytes 4 v.tb0.toNat ++ leBytes 4 v.eb0.toNat ++ leBytes 4 v.start ++ leBytes 4 v.energy ++
    leBytes 2 v.qf.toNat ++ leBytes 2 (v.reported.getD 0) ++
    leBytes 1 (v.entry % 8 + flagBit v.reported.isSome 3 + flagBit v.frozen 4 + flagBit v.probe 5) ++ leBytes 3 0

/-- A variant block as its record's bytes give it; what the bytes hold only modulo 2^32 keeps the device's count where
they agree with it. A block written after its record was stands as the device holds it (log 26). -/
def VBlock.ofBytes (old : VBlock) (b : List Byte) : VBlock :=
  if old.hot ∨ old.bytes = b then { old with hot := false }
  else
    let f := recNat b 28 1
    { table := recNat b 0 8, tb0 := BitVec.ofNat 32 (recNat b 8 4), eb0 := BitVec.ofNat 32 (recNat b 12 4),
      start := recNat b 16 4, energy := recNat b 20 4, qf := BitVec.ofNat 32 (recNat b 24 2),
      reported := if bitOf f 3 then some (recNat b 26 2) else none, entry := f % 8, frozen := bitOf f 4,
      probe := bitOf f 5, away := old.away, hot := false }

def FrameKind.code : FrameKind → Nat
  | .call => 0 | .callv => 1 | .trap => 2

/-- The header of a frame record (Table 7-2). -/
def Frame.header (f : Frame) : Nat :=
  f.ret.toNat * 2 ^ 96 + f.inst % 2 ^ 16 * 2 ^ 80 + f.stk % 16 * 2 ^ 68 + f.mask.toNat * 2 ^ 64 + f.kind.code * 2 ^ 61 +
    (if f.kind = .trap then 7 else f.slide / 8) * 2 ^ 58

def FrameKind.ofCode : Nat → Option FrameKind
  | 0 => some .call | 1 => some .callv | 2 => some .trap | _ => none

/-- No variant block. -/
def VBlock.blank : VBlock :=
  { table := 0, tb0 := 0, eb0 := 0, start := 0, energy := 0, qf := 0, reported := none, entry := 0, frozen := false,
    probe := false, away := 0, hot := false }

/-- The frame a header gives, none where R225 refuses it. -/
def Frame.ofHeader (old : Frame) (h : Nat) : Option Frame :=
  let c := bitsOf h 58 3
  match FrameKind.ofCode (bitsOf h 61 3) with
  | none => none
  | some k =>
    if bitsOf h 72 8 ≠ 0 ∨ bitsOf h 0 58 ≠ 0 ∨ (k = .trap ∧ c ≠ 7) ∨ (k ≠ .trap ∧ (c = 0 ∨ c = 7)) then none
    else some { old with kind := k, slide := 8 * c, ret := BitVec.ofNat 32 (bitsOf h 96 32), inst := bitsOf h 80 16,
                         stk := bitsOf h 68 4, mask := BitVec.ofNat 4 (bitsOf h 64 4),
                         vb := if k = .callv then some (old.vb.getD VBlock.blank) else none }

/-- A frame's registers, read from the ring. -/
def frameRegs (g : Gang) (x : Slice) (i d : Nat) : List Reg :=
  (List.range d).map fun j => x.regs.getOr (8 + (frameBase g x i + j) % g.ring) Reg.zero

/-- The record of frame `i`, laid out upward. -/
def frameRecord (g : Gang) (x : Slice) (i : Nat) (f : Frame) : List Byte :=
  let rs := frameRegs g x i f.slide
  rs.flatMap Reg.bytes ++ rs.map Reg.tagByte ++ List.replicate (roundUp f.slide 16 - f.slide) 0 ++
    (match f.vb with | some v => v.bytes | none => []) ++ leBytes 16 f.header

/-- What a tow transfer comes to: a record that does not agree, or holds an uncorrectable error in a word of its header or tag block, is
broken (R225, Table 20-1). -/
inductive Tow where
  | fine (s : State)
  | fault (x : XFail) (va : Nat)
  | broken (bad : Option Nat)

/-- The towpath VA of byte `off` of a slice (R224). -/
def towVa (g : Gang) (k off : Nat) : Nat := g.towBase + g.towSize * (8 * g.index + k) + off

namespace State

/-- Translate `n` 16-byte chunks of a towpath. -/
def towXlat (s : State) (g : Gang) (va : Nat) (use : Use) : Nat → Except (XFail × Nat) (List Xlat)
  | 0 => .ok []
  | n + 1 =>
    match s.translate (clusterOfCore g.core) g.asid g.reach va use n with
    | .error e => .error (e, va)
    | .ok x => match s.towXlat g (va + 16) use n with
      | .error e => .error e
      | .ok xs => .ok (x :: xs)

/-- Write a record's chunks. -/
def towWrite (s : State) : List Xlat → List Byte → State
  | [], _ => s
  | x :: xs, bs => (s.homeWrite x.pa x.kid 16 (leNat (bs.take 16))).towWrite xs (bs.drop 16)

/-- Read a record's chunks. -/
def towRead (s : State) (xs : List Xlat) : List Byte := xs.flatMap fun x => leBytes 16 (s.homeRead x.pa x.kid 16)

/-- A read of registers of a slice meets their uncorrectable errors: it poisons those lane words and logs a record for each
register (R228, R293, Table 20-1). -/
def meetFlaws (s : State) (g k : Nat) (sts : List Nat) : State :=
  let y := s.gang g
  sts.foldl (fun s st =>
    let r := (s.slice g k).regs.getOr st Reg.zero
    if r.flaw = 0 then s
    else (s.modSlice g k fun x => { x with regs := x.regs.put st r.met }).errorRecord (dieOfCore y.core) 1 1 0
           (s.denseCore y.core) y.asid (2 * 2 ^ 32 + ((y.quarter * Config.backing + y.base + st) * 8 + k) * 4)) s

/-- Spill the oldest resident frame of a slice, whose RMW results return first (R45, R218, R225); with none, nothing. -/
def spill (s : State) (gi k : Nat) : Tow :=
  let g := s.gang gi
  let x₀ := s.slice gi k
  match (x₀.frames.takeWhile fun f => !f.spilled).length with
  | 0 => .fine s
  | i + 1 =>
    match x₀.frames[i]? with
    | none => .fine s
    | some f =>
      let held := (List.range f.slide).map fun j => 8 + (frameBase g x₀ i + j) % g.ring
      let s := s.drainRegs gi k held
      match s.towXlat g (towVa g k (s.slice gi k).towPtr) .write (f.bytes / 16) with
      | .error (e, a) => .fault e a
      | .ok xs =>
        let s := s.meetFlaws gi k held
        let s := (s.towWrite xs (frameRecord g (s.slice gi k) i f)).modSlice gi k fun x =>
          { x with frames := x.frames.set i { f with spilled := true }, towPtr := x.towPtr + f.bytes }
        .fine ((xs.head?.map fun x => s.keepXlat (clusterOfCore g.core) g.asid x).getD s)

/-- The poisoned words of some 16-byte chunks. -/
def badWords (s : State) (pas : List Nat) : List Nat :=
  pas.flatMap fun pa => ([0, 4, 8, 12].map (pa + ·)).filter fun a => s.poisoned a 4

/-- The frame that a spilled record holds, from its header at the towpath pointer (R225). -/
def recordFrame (s : State) (g : Gang) (k ptr : Nat) (f : Frame) : Except Tow Frame :=
  match s.towXlat g (towVa g k (ptr - 16)) .read 1 with
  | .error (e, a) => .error (.fault e a)
  | .ok xs =>
    match xs.find? fun x => s.poisoned x.pa 16 with
    | some x => .error (.broken (some x.pa))
    | none => match f.ofHeader (leNat (s.towRead xs)) with
      | none => .error (.broken none)
      | some f' => .ok f'

/-- Refill the newest spilled frame of a slice (R218, R225, R228); with none, nothing. What was still to return to the ring positions it
fills returns first, and no result of an earlier window is under way there (R217, R243). An error in a variant block ends as one in the
tag block does (log 26). -/
def refill (s : State) (gi k : Nat) : Tow :=
  let g := s.gang gi
  let x := s.slice gi k
  let i := (x.frames.takeWhile fun f => !f.spilled).length
  match x.frames[i]? with
  | none => .fine s
  | some f₀ =>
    match s.recordFrame g k x.towPtr f₀ with
    | .error e => e
    | .ok f =>
      let at_ := x.towPtr - f.bytes
      let first := frameBase g { x with frames := x.frames.set i f } i
      let held := (List.range f.slide).map fun j => 8 + (first + j) % g.ring
      let s := s.drainRegs gi k held
      match s.towXlat g (towVa g k at_) .read (f.bytes / 16) with
      | .error (e, a) => .fault e a
      | .ok xs =>
        let b := s.towRead xs
        let bad (i : Nat) : Bool := (xs[i]?.map fun x => s.poisoned x.pa 16).getD false
        match (List.range (f.bytes / 16 - f.slide)).find? fun j => bad (f.slide + j) with
        | some j => .broken (xs[f.slide + j]?.map Xlat.pa)
        | none =>
          let one (j : Nat) : Reg :=
            let r := Reg.ofBytes ((b.drop (16 * j)).take 16) ((b[16 * f.slide + j]?).getD 0)
            let hit (l : Nat) : Bool := (xs[j]?.map fun x => s.poisoned (x.pa + 4 * l) 4).getD false
            { r with poison := r.poison ||| nibOf hit }
          let vb := f.vb.map fun v => v.ofBytes ((b.drop (f.bytes - 48)).take 32)
          let f := { f with spilled := false, vb := vb, mask := f.mask &&& x.live }
          let s := (s.badWords ((xs.take f.slide).map Xlat.pa)).foldl (fun s pa => s.noteBad g.core g.asid pa) s
          .fine (s.modSlice gi k fun x =>
            { x with
              frames := x.frames.set i f, towPtr := at_,
              flights := x.flights.filter fun f => match f.dst with | .v st => !held.contains st | _ => true,
              regs := (List.range f.slide).foldl (fun m j => m.put (8 + (first + j) % g.ring) (one j)) x.regs })

/-- Spill until the window and the reserve fit (R219). -/
def makeRoom (s : State) (gi k : Nat) : Nat → Tow
  | 0 => .fine s
  | n + 1 =>
    if (s.gang gi).fits (s.slice gi k) then .fine s
    else match s.spill gi k with
      | .fine s => s.makeRoom gi k n
      | t => t

/-- Refill the newest frame when it is spilled (R222). -/
def needFrame (s : State) (gi k : Nat) : Tow :=
  match (s.slice gi k).frames.head? with
  | some f => if f.spilled then s.refill gi k else .fine s
  | none => .fine s

/-- The same over several slices, all or none; a fault names the slice that met it. -/
def towAll (s : State) (f : State → Nat → Tow) : List Nat → Tow × Nat
  | [] => (.fine s, 0)
  | k :: ks =>
    match f s k with
    | .fine s => towAll s f ks
    | t => (t, k)

end State

end Sys2Proof.Machine
end

