-- ==== Sys2Proof/Machine/Csr.lean ====
section
/-! DEFINITION. Special registers: the values of Tables 2-8 and 2-12, the budgets of R338 and R339, and the writes of
Table 5-9. -/

namespace Sys2Proof.Machine

/-- The budgets that govern a slice: those of its nearest `callv` frame (R338). -/
def Slice.budget (x : Slice) : Option VBlock := (x.frames.find? fun f => f.vb.isSome).bind Frame.vb

/-- A 32-bit value that shrinks to zero. -/
def shrink (b : Word) (n : Nat) : Word := BitVec.ofNat 32 (b.toNat - n)

/-- The tag a `csrr` result carries (R53). -/
def csrTag (id : Nat) : Tag := if 0x010 ≤ id ∧ id ≤ 0x017 then .a64 else .u32

namespace State

/-- Resident cycles since a `callv` frame began (R338). -/
def elapsed (s : State) (g : Gang) (v : VBlock) : Nat := s.now - v.start - (g.away - v.away)

/-- `tbud`, `ebud` and `qflr` of a slice (R338). -/
def tbud (s : State) (g : Gang) (x : Slice) : Word :=
  match x.budget with | none => x.tb0 | some v => shrink v.tb0 (s.elapsed g v)
def ebud (_ : State) (g : Gang) (x : Slice) : Word :=
  match x.budget with | none => x.eb0 | some v => shrink v.eb0 (g.energy - v.energy)
def qflr (_ : State) (x : Slice) : Word := match x.budget with | none => x.qf | some v => v.qf

/-- `dix` of slice `k` as the issuing word sees it: the words of its own chain have not retired (R31). -/
def dixNow (s : State) (k : Nat) (x : Slice) : BitVec 64 := (s.cur.dix0.find k).getD x.dix

/-- The value of a special register for lane `l` of a gang (Tables 2-8, 2-12); an ID that names none reads zero. -/
def csrVal (s : State) (g : Gang) (x : Slice) (l id : Nat) : Word :=
  match id with
  | 0x000 => BitVec.ofNat 32 l
  | 0x001 => BitVec.ofNat 32 (l / 4)
  | 0x002 => BitVec.ofNat 32 g.index
  | 0x003 => BitVec.ofNat 32 g.count
  | 0x004 => g.launchId
  | 0x005 => BitVec.ofNat 32 g.role
  | 0x006 => g.grp
  | 0x007 => g.berth
  | 0x008 => g.step
  | 0x010 => s.cyc.truncate 32
  | 0x011 => x.cycHi.getD ((s.cyc >>> 32).truncate 32)
  | 0x012 => (s.dixNow (l / 4) x).truncate 32
  | 0x013 => x.dixHi.getD ((s.dixNow (l / 4) x >>> 32).truncate 32)
  | 0x014 => g.seed.truncate 32
  | 0x015 => (g.seed >>> 32).truncate 32
  | 0x016 => g.rngs.truncate 32
  | 0x017 => (g.rngs >>> 32).truncate 32
  | 0x018 => g.lgl
  | 0x020 => s.tbud g x
  | 0x021 => s.ebud g x
  | 0x022 => s.qflr x
  | 0x023 => x.vsel
  | 0x024 => BitVec.ofNat 32 x.wdep
  | 0x030 => g.fpmode
  | 0x031 => BitVec.ofNat 32 (flagBit g.schk 0 + flagBit g.frag 1 + g.mix % 32 * 256)
  | 0x040 => x.tcause
  | 0x041 => x.tpc
  | 0x042 => x.amask
  | 0x043 => x.tmask
  | 0x044 => x.tinfo
  | 0x045 => x.tinfo2
  | 0x046 => x.tregion
  | 0x047 => x.pmask
  | 0x050 => g.pmiss
  | 0x060 => x.urd
  | 0x061 => x.bcf
  | _ => 0

/-- What a `csrr` leaves of the latched high halves of slice `k` (R54). -/
def latch (s : State) (k : Nat) (x : Slice) (id : Nat) : Slice :=
  match id with
  | 0x010 => { x with cycHi := some ((s.cyc >>> 32).truncate 32) }
  | 0x011 => { x with cycHi := none }
  | 0x012 => { x with dixHi := some ((s.dixNow k x >>> 32).truncate 32) }
  | 0x013 => { x with dixHi := none }
  | _ => x

end State

/-- Change the variant block of the nearest `callv` frame. -/
def adjustBudget (f : VBlock → VBlock) : List Frame → List Frame
  | [] => []
  | x :: r => match x.vb with
    | some v => { x with vb := some { f v with hot := x.spilled } } :: r
    | none => x :: adjustBudget f r

/-- A rounding field that R10 refuses. -/
def fpmodeBad (w : Word) : Bool := w.getLsbD 1

/-- The smaller and the larger of two words. -/
def minW (a b : Word) : Word := if a.toNat ≤ b.toNat then a else b
def maxW (a b : Word) : Word := if a.toNat ≤ b.toNat then b else a

namespace State

/-- Write `tbud`, `ebud` or `qflr` of a slice (R338, R339). -/
def setTbud (s : State) (g k : Nat) (w : Word) : State :=
  let t := s.tbud (s.gang g) (s.slice g k)
  s.modSlice g k fun x => match x.budget with
    | none => { x with tb0 := w }
    | some _ => if w.toNat < t.toNat then
        { x with frames := adjustBudget (fun v => { v with tb0 := v.tb0 - (t - w) }) x.frames } else x
def setEbud (s : State) (g k : Nat) (w : Word) : State :=
  let t := s.ebud (s.gang g) (s.slice g k)
  s.modSlice g k fun x => match x.budget with
    | none => { x with eb0 := w }
    | some _ => if w.toNat < t.toNat then
        { x with frames := adjustBudget (fun v => { v with eb0 := v.eb0 - (t - w) }) x.frames } else x
def setQflr (s : State) (g k : Nat) (w : Word) : State :=
  s.modSlice g k fun x => match x.budget with
    | none => { x with qf := minW w 0xFFFF }
    | some _ => { x with frames := adjustBudget (fun v => { v with qf := maxW v.qf (minW w 0xFFFF) }) x.frames }

/-- Write a special register from slice `k` (Table 5-9). Read-only bits keep their values. -/
def csrSet (s : State) (g k id : Nat) (w : Word) : State :=
  let sl (f : Slice → Slice) : State := s.modSlice g k f
  match id with
  | 0x014 => s.modGang g fun x => { x with seed := (x.seed >>> 32).truncate 32 ++ w }
  | 0x015 => s.modGang g fun x => { x with seed := w ++ x.seed.truncate 32 }
  | 0x016 => s.modGang g fun x => { x with rngs := (x.rngs >>> 32).truncate 32 ++ w }
  | 0x017 => s.modGang g fun x => { x with rngs := w ++ x.rngs.truncate 32 }
  | 0x018 => s.modGang g fun x => { x with lgl := w }
  | 0x020 => s.setTbud g k w
  | 0x021 => s.setEbud g k w
  | 0x022 => s.setQflr g k w
  | 0x030 => s.modGang g fun x => { x with fpmode := w &&& 7 }
  | 0x031 => s.modGang g fun x => { x with schk := w.getLsbD 0 }
  | 0x040 => sl fun x => { x with tcause := w &&& 0xC00003FF }
  | 0x041 => sl fun x => { x with tpc := w }
  | 0x042 => sl fun x => { x with amask := w }
  | 0x043 => sl fun x => { x with tmask := w }
  | 0x044 => sl fun x => { x with tinfo := w }
  | 0x045 => sl fun x => { x with tinfo2 := w }
  | 0x046 => sl fun x => { x with tregion := w }
  | 0x047 => sl fun x => { x with pmask := w }
  | 0x050 => s.modGang g fun x => { x with pmiss := w }
  | _ => s

end State

end Sys2Proof.Machine
end

