-- ==== Sys2Proof/Decode.lean ====
section
/-! DEFINITION. Decoding a word and the literals it owns (Table 2-1, Table 2-2, Table 2-6, R38, R64, R65), total and
rejecting by name, and the encoder written from the same tables. A word whose fixed fields are those of a row decodes to
that row; what the spec asks of the remaining fields is `Instr.wf`. -/

namespace Sys2Proof

/-- Why bits are not an instruction. -/
inductive DecodeError where
  /-- fewer bytes than the word and its literals take -/
  | truncated
  /-- a reserved primary opcode (R63, R64) -/
  | reservedOpcode
  /-- a function code, or a field that must be zero, that no row of the opcode defines (R64, R65) -/
  | undefinedForm
  deriving DecidableEq, Repr

/-- Bits `hi = lo + len - 1` down to `lo` of a word. -/
def field (w : Word) (lo len : Nat) : BitVec len := w.extractLsb' lo len

/-- C, S and G of a word (Table 2-1). -/
def hdrOf (w : Word) : Hdr := ⟨field w 31 1 == 1#1, field w 28 3, field w 18 3⟩

/-- C and S of a word whose guard is zero. -/
def hd0Of (w : Word) : Hd0 := ⟨field w 31 1 == 1#1, field w 28 3⟩

/-- Opcode 0x00: nop. -/
def decodeOp00 (w : Word) : Except DecodeError Instr :=
  if field w 0 21 = 0#21 then .ok (.nop (hd0Of w))
  else .error .undefinedForm

/-- Opcode 0x01: add. -/
def decodeOp01 (w : Word) : Except DecodeError Instr :=
  .ok (.add (hdrOf w) (field w 12 6) (field w 6 6) (field w 0 6))

/-- Opcode 0x02: sub. -/
def decodeOp02 (w : Word) : Except DecodeError Instr :=
  .ok (.sub (hdrOf w) (field w 12 6) (field w 6 6) (field w 0 6))

/-- Opcode 0x03: mul. -/
def decodeOp03 (w : Word) : Except DecodeError Instr :=
  .ok (.mul (hdrOf w) (field w 12 6) (field w 6 6) (field w 0 6))

/-- Opcode 0x04: mulh. -/
def decodeOp04 (w : Word) : Except DecodeError Instr :=
  .ok (.mulh (hdrOf w) (field w 12 6) (field w 6 6) (field w 0 6))

/-- Opcode 0x05: fma. -/
def decodeOp05 (w : Word) : Except DecodeError Instr :=
  .ok (.fma (hdrOf w) (field w 12 6) (field w 6 6) (field w 0 6))

/-- Opcode 0x06: min. -/
def decodeOp06 (w : Word) : Except DecodeError Instr :=
  .ok (.min (hdrOf w) (field w 12 6) (field w 6 6) (field w 0 6))

/-- Opcode 0x07: max. -/
def decodeOp07 (w : Word) : Except DecodeError Instr :=
  .ok (.max (hdrOf w) (field w 12 6) (field w 6 6) (field w 0 6))

/-- Opcode 0x08: unop. -/
def decodeOp08 (w : Word) : Except DecodeError Instr :=
  if field w 0 6 = 0#6 then .ok (.unopAbs (hdrOf w) (field w 12 6) (field w 6 6))
  else if field w 0 6 = 1#6 then .ok (.unopNeg (hdrOf w) (field w 12 6) (field w 6 6))
  else if field w 0 6 = 2#6 then .ok (.unopNabs (hdrOf w) (field w 12 6) (field w 6 6))
  else if field w 0 6 = 3#6 then .ok (.unopSat (hdrOf w) (field w 12 6) (field w 6 6))
  else if field w 0 6 = 4#6 then .ok (.unopNot (hdrOf w) (field w 12 6) (field w 6 6))
  else .error .undefinedForm

/-- Opcode 0x09: addl. -/
def decodeOp09 (w l0 : Word) : Except DecodeError Instr :=
  if field w 0 6 = 0#6 then .ok (.addl (hdrOf w) (field w 12 6) (field w 6 6) l0)
  else .error .undefinedForm

/-- Opcode 0x0A: movl. -/
def decodeOp0A (w l0 : Word) : Except DecodeError Instr :=
  if field w 4 8 = 0#8 then .ok (.movl (hdrOf w) (field w 12 6) (field w 0 4) l0)
  else .error .undefinedForm

/-- Opcode 0x0B: movi. -/
def decodeOp0B (w : Word) : Except DecodeError Instr :=
  .ok (.movi (hdrOf w) (field w 12 6) (field w 0 12))

/-- Opcode 0x0C: mov. -/
def decodeOp0C (w : Word) : Except DecodeError Instr :=
  if field w 0 6 = 0#6 then .ok (.mov (hdrOf w) (field w 12 6) (field w 6 6))
  else .error .undefinedForm

/-- Opcode 0x0D: sel. -/
def decodeOp0D (w : Word) : Except DecodeError Instr :=
  .ok (.sel (hdrOf w) (field w 12 6) (field w 6 6) (field w 0 6))

/-- Opcode 0x0E: cmp. -/
def decodeOp0E (w : Word) : Except DecodeError Instr :=
  if field w 12 3 = 0#3 then .ok (.cmpEq (hdrOf w) (field w 15 3) (field w 6 6) (field w 0 6))
  else if field w 12 3 = 1#3 then .ok (.cmpNe (hdrOf w) (field w 15 3) (field w 6 6) (field w 0 6))
  else if field w 12 3 = 2#3 then .ok (.cmpLt (hdrOf w) (field w 15 3) (field w 6 6) (field w 0 6))
  else if field w 12 3 = 3#3 then .ok (.cmpLe (hdrOf w) (field w 15 3) (field w 6 6) (field w 0 6))
  else if field w 12 3 = 4#3 then .ok (.cmpGt (hdrOf w) (field w 15 3) (field w 6 6) (field w 0 6))
  else if field w 12 3 = 5#3 then .ok (.cmpGe (hdrOf w) (field w 15 3) (field w 6 6) (field w 0 6))
  else if field w 12 3 = 6#3 then .ok (.cmpUnord (hdrOf w) (field w 15 3) (field w 6 6) (field w 0 6))
  else if field w 12 3 = 7#3 then .ok (.cmpOrd (hdrOf w) (field w 15 3) (field w 6 6) (field w 0 6))
  else .error .undefinedForm

/-- Opcode 0x0F: add64. -/
def decodeOp0F (w : Word) : Except DecodeError Instr :=
  .ok (.add64 (hdrOf w) (field w 12 6) (field w 6 6) (field w 0 6))

/-- Opcode 0x10: and. -/
def decodeOp10 (w : Word) : Except DecodeError Instr :=
  .ok (.and (hdrOf w) (field w 12 6) (field w 6 6) (field w 0 6))

/-- Opcode 0x11: or. -/
def decodeOp11 (w : Word) : Except DecodeError Instr :=
  .ok (.or (hdrOf w) (field w 12 6) (field w 6 6) (field w 0 6))

/-- Opcode 0x12: xor. -/
def decodeOp12 (w : Word) : Except DecodeError Instr :=
  .ok (.xor (hdrOf w) (field w 12 6) (field w 6 6) (field w 0 6))

/-- Opcode 0x13: andn. -/
def decodeOp13 (w : Word) : Except DecodeError Instr :=
  .ok (.andn (hdrOf w) (field w 12 6) (field w 6 6) (field w 0 6))

/-- Opcode 0x14: shl. -/
def decodeOp14 (w : Word) : Except DecodeError Instr :=
  .ok (.shl (hdrOf w) (field w 12 6) (field w 6 6) (field w 0 6))

/-- Opcode 0x15: shr. -/
def decodeOp15 (w : Word) : Except DecodeError Instr :=
  .ok (.shr (hdrOf w) (field w 12 6) (field w 6 6) (field w 0 6))

/-- Opcode 0x16: sar. -/
def decodeOp16 (w : Word) : Except DecodeError Instr :=
  .ok (.sar (hdrOf w) (field w 12 6) (field w 6 6) (field w 0 6))

/-- Opcode 0x17: rot. -/
def decodeOp17 (w : Word) : Except DecodeError Instr :=
  .ok (.rot (hdrOf w) (field w 12 6) (field w 6 6) (field w 0 6))

/-- Opcode 0x18: shli. -/
def decodeOp18 (w : Word) : Except DecodeError Instr :=
  .ok (.shli (hdrOf w) (field w 12 6) (field w 6 6) (field w 0 6))

/-- Opcode 0x19: shri. -/
def decodeOp19 (w : Word) : Except DecodeError Instr :=
  .ok (.shri (hdrOf w) (field w 12 6) (field w 6 6) (field w 0 6))

/-- Opcode 0x1A: sari. -/
def decodeOp1A (w : Word) : Except DecodeError Instr :=
  .ok (.sari (hdrOf w) (field w 12 6) (field w 6 6) (field w 0 6))

/-- Opcode 0x1B: bits. -/
def decodeOp1B (w : Word) : Except DecodeError Instr :=
  if field w 0 6 = 0#6 then .ok (.bitsClz (hdrOf w) (field w 12 6) (field w 6 6))
  else if field w 0 6 = 1#6 then .ok (.bitsPopc (hdrOf w) (field w 12 6) (field w 6 6))
  else if field w 0 6 = 2#6 then .ok (.bitsBrev (hdrOf w) (field w 12 6) (field w 6 6))
  else if field w 0 6 = 3#6 then .ok (.bitsFfs (hdrOf w) (field w 12 6) (field w 6 6))
  else if field w 0 6 = 4#6 then .ok (.bitsByterev (hdrOf w) (field w 12 6) (field w 6 6))
  else .error .undefinedForm

/-- Opcode 0x1C: bfx. -/
def decodeOp1C (w l0 : Word) : Except DecodeError Instr :=
  .ok (.bfx (hdrOf w) (field w 12 6) (field w 6 6) (field w 0 6) l0)

/-- Opcode 0x1D: bfi. -/
def decodeOp1D (w l0 : Word) : Except DecodeError Instr :=
  .ok (.bfi (hdrOf w) (field w 12 6) (field w 6 6) (field w 0 6) l0)

/-- Opcode 0x1E: dot4. -/
def decodeOp1E (w : Word) : Except DecodeError Instr :=
  .ok (.dot4 (hdrOf w) (field w 12 6) (field w 6 6) (field w 0 6))

/-- Opcode 0x20: fn. -/
def decodeOp20 (w : Word) : Except DecodeError Instr :=
  if field w 0 5 = 0#5 then .ok (.fnRcp (hdrOf w) (field w 12 6) (field w 6 6) (field w 5 1))
  else if field w 0 5 = 1#5 then .ok (.fnRsq (hdrOf w) (field w 12 6) (field w 6 6) (field w 5 1))
  else if field w 0 5 = 2#5 then .ok (.fnSqrt (hdrOf w) (field w 12 6) (field w 6 6) (field w 5 1))
  else if field w 0 5 = 3#5 then .ok (.fnExp2 (hdrOf w) (field w 12 6) (field w 6 6) (field w 5 1))
  else if field w 0 5 = 4#5 then .ok (.fnLog2 (hdrOf w) (field w 12 6) (field w 6 6) (field w 5 1))
  else if field w 0 5 = 5#5 then .ok (.fnTanh (hdrOf w) (field w 12 6) (field w 6 6) (field w 5 1))
  else if field w 0 5 = 6#5 then .ok (.fnSigm (hdrOf w) (field w 12 6) (field w 6 6) (field w 5 1))
  else .error .undefinedForm

/-- Opcode 0x21: fdiv. -/
def decodeOp21 (w : Word) : Except DecodeError Instr :=
  .ok (.fdiv (hdrOf w) (field w 12 6) (field w 6 6) (field w 0 6))

/-- Opcode 0x22: fscale. -/
def decodeOp22 (w : Word) : Except DecodeError Instr :=
  .ok (.fscale (hdrOf w) (field w 12 6) (field w 6 6) (field w 0 6))

/-- Opcode 0x23: fcls. -/
def decodeOp23 (w : Word) : Except DecodeError Instr :=
  .ok (.fcls (hdrOf w) (field w 12 6) (field w 6 6) (field w 0 6))

/-- Opcode 0x24: cvt. -/
def decodeOp24 (w : Word) : Except DecodeError Instr :=
  .ok (.cvt (hdrOf w) (field w 12 6) (field w 6 6) (field w 4 2) (field w 0 4))

/-- Opcode 0x25: tag. -/
def decodeOp25 (w : Word) : Except DecodeError Instr :=
  if field w 4 2 = 0#2 then .ok (.tag (hdrOf w) (field w 12 6) (field w 6 6) (field w 0 4))
  else .error .undefinedForm

/-- Opcode 0x26: qblk. -/
def decodeOp26 (w : Word) : Except DecodeError Instr :=
  if field w 4 2 = 0#2 then .ok (.qblk (hdrOf w) (field w 12 6) (field w 6 6) (field w 0 4))
  else .error .undefinedForm

/-- Opcode 0x27: unpb. -/
def decodeOp27 (w : Word) : Except DecodeError Instr :=
  if field w 5 1 = 0#1 then .ok (.unpb (hdrOf w) (field w 12 6) (field w 6 6) (field w 0 5))
  else .error .undefinedForm

/-- Opcode 0x28: frnd. -/
def decodeOp28 (w : Word) : Except DecodeError Instr :=
  if field w 2 4 = 0#4 then .ok (.frnd (hdrOf w) (field w 12 6) (field w 6 6) (field w 0 2))
  else .error .undefinedForm

/-- Opcode 0x30: shfli. -/
def decodeOp30 (w : Word) : Except DecodeError Instr :=
  .ok (.shfli (hdrOf w) (field w 12 6) (field w 6 6) (field w 0 6))

/-- Opcode 0x31: shflx. -/
def decodeOp31 (w : Word) : Except DecodeError Instr :=
  if field w 5 1 = 0#1 then .ok (.shflx (hdrOf w) (field w 12 6) (field w 6 6) (field w 0 5))
  else .error .undefinedForm

/-- Opcode 0x32: shflu. -/
def decodeOp32 (w : Word) : Except DecodeError Instr :=
  if field w 5 1 = 0#1 then .ok (.shflu (hdrOf w) (field w 12 6) (field w 6 6) (field w 0 5))
  else .error .undefinedForm

/-- Opcode 0x33: shfld. -/
def decodeOp33 (w : Word) : Except DecodeError Instr :=
  if field w 5 1 = 0#1 then .ok (.shfld (hdrOf w) (field w 12 6) (field w 6 6) (field w 0 5))
  else .error .undefinedForm

/-- Opcode 0x34: ballot. -/
def decodeOp34 (w : Word) : Except DecodeError Instr :=
  if field w 16 2 = 0#2 ∧ field w 9 3 = 0#3 ∧ field w 0 6 = 0#6 then .ok (.ballot (hdrOf w) (field w 12 4) (field w 6 3))
  else .error .undefinedForm

/-- Opcode 0x35: vote. -/
def decodeOp35 (w : Word) : Except DecodeError Instr :=
  if field w 9 6 = 0#6 ∧ field w 0 6 = 0#6 then .ok (.voteAny (hdrOf w) (field w 15 3) (field w 6 3))
  else if field w 9 6 = 0#6 ∧ field w 0 6 = 1#6 then .ok (.voteAll (hdrOf w) (field w 15 3) (field w 6 3))
  else if field w 12 3 = 0#3 ∧ field w 0 6 = 2#6 then .ok (.voteUni (hdrOf w) (field w 15 3) (field w 6 6))
  else .error .undefinedForm

/-- Opcode 0x36: match. -/
def decodeOp36 (w : Word) : Except DecodeError Instr :=
  if field w 0 6 = 0#6 then .ok (.matchEq (hdrOf w) (field w 12 6) (field w 6 6))
  else .error .undefinedForm

/-- Opcode 0x37: red. -/
def decodeOp37 (w : Word) : Except DecodeError Instr :=
  if field w 0 6 = 0#6 then .ok (.redSum (hdrOf w) (field w 12 6) (field w 6 6))
  else if field w 0 6 = 1#6 then .ok (.redEsum (hdrOf w) (field w 12 6) (field w 6 6))
  else if field w 0 6 = 2#6 then .ok (.redMin (hdrOf w) (field w 12 6) (field w 6 6))
  else if field w 0 6 = 3#6 then .ok (.redMax (hdrOf w) (field w 12 6) (field w 6 6))
  else if field w 0 6 = 4#6 then .ok (.redAnd (hdrOf w) (field w 12 6) (field w 6 6))
  else if field w 0 6 = 5#6 then .ok (.redOr (hdrOf w) (field w 12 6) (field w 6 6))
  else if field w 0 6 = 6#6 then .ok (.redXor (hdrOf w) (field w 12 6) (field w 6 6))
  else .error .undefinedForm

/-- Opcode 0x38: scan. -/
def decodeOp38 (w : Word) : Except DecodeError Instr :=
  if field w 4 2 = 0#2 ∧ field w 0 3 = 0#3 then .ok (.scanSum (hdrOf w) (field w 12 6) (field w 6 6) (field w 3 1))
  else if field w 4 2 = 0#2 ∧ field w 0 3 = 1#3 then .ok (.scanMin (hdrOf w) (field w 12 6) (field w 6 6) (field w 3 1))
  else if field w 4 2 = 0#2 ∧ field w 0 3 = 2#3 then .ok (.scanMax (hdrOf w) (field w 12 6) (field w 6 6) (field w 3 1))
  else .error .undefinedForm

/-- Opcode 0x39: bcast. -/
def decodeOp39 (w : Word) : Except DecodeError Instr :=
  .ok (.bcast (hdrOf w) (field w 12 6) (field w 6 6) (field w 0 6))

/-- Opcode 0x3A: qop. -/
def decodeOp3A (w : Word) : Except DecodeError Instr :=
  if field w 16 5 = 0#5 ∧ field w 10 2 = 0#2 ∧ field w 4 2 = 0#2 then .ok (.qopAnd (hd0Of w) (field w 12 4) (field w 6 4) (field w 0 4))
  else if field w 16 5 = 0#5 ∧ field w 10 2 = 0#2 ∧ field w 4 2 = 1#2 then .ok (.qopOr (hd0Of w) (field w 12 4) (field w 6 4) (field w 0 4))
  else if field w 16 5 = 0#5 ∧ field w 10 2 = 0#2 ∧ field w 4 2 = 2#2 then .ok (.qopXor (hd0Of w) (field w 12 4) (field w 6 4) (field w 0 4))
  else if field w 16 5 = 0#5 ∧ field w 10 2 = 0#2 ∧ field w 4 2 = 3#2 then .ok (.qopAndn (hd0Of w) (field w 12 4) (field w 6 4) (field w 0 4))
  else if field w 16 5 = 0#5 ∧ field w 10 2 = 1#2 ∧ field w 4 2 = 0#2 then .ok (.qopOrn (hd0Of w) (field w 12 4) (field w 6 4) (field w 0 4))
  else if field w 16 5 = 0#5 ∧ field w 10 2 = 1#2 ∧ field w 4 2 = 1#2 then .ok (.qopXnor (hd0Of w) (field w 12 4) (field w 6 4) (field w 0 4))
  else if field w 16 5 = 0#5 ∧ field w 10 2 = 1#2 ∧ field w 0 6 = 32#6 then .ok (.qopMov (hd0Of w) (field w 12 4) (field w 6 4))
  else if field w 16 5 = 0#5 ∧ field w 10 2 = 1#2 ∧ field w 0 6 = 48#6 then .ok (.qopNot (hd0Of w) (field w 12 4) (field w 6 4))
  else if field w 16 5 = 0#5 ∧ field w 10 2 = 2#2 ∧ field w 4 2 = 0#2 then .ok (.qopLsb (hd0Of w) (field w 12 4) (field w 6 4) (field w 0 4))
  else if field w 16 5 = 0#5 ∧ field w 10 2 = 2#2 ∧ field w 4 2 = 1#2 then .ok (.qopClrlsb (hd0Of w) (field w 12 4) (field w 6 4) (field w 0 4))
  else .error .undefinedForm

/-- Opcode 0x3B: qi. -/
def decodeOp3B (w : Word) : Except DecodeError Instr :=
  if field w 16 5 = 0#5 then .ok (.qi (hd0Of w) (field w 12 4) (field w 0 12))
  else .error .undefinedForm

/-- Opcode 0x3C: qv. -/
def decodeOp3C (w : Word) : Except DecodeError Instr :=
  if field w 18 3 = 0#3 ∧ field w 10 2 = 0#2 ∧ field w 0 6 = 0#6 then .ok (.qvToVector (hd0Of w) (field w 12 6) (field w 6 4))
  else if field w 16 5 = 0#5 ∧ field w 0 6 = 1#6 then .ok (.qvToMask (hd0Of w) (field w 12 4) (field w 6 6))
  else .error .undefinedForm

/-- Opcode 0x3D: pq. -/
def decodeOp3D (w : Word) : Except DecodeError Instr :=
  if field w 10 5 = 0#5 ∧ field w 0 6 = 0#6 then .ok (.pqToPredicate (hdrOf w) (field w 15 3) (field w 6 4))
  else if field w 16 2 = 0#2 ∧ field w 9 3 = 0#3 ∧ field w 0 6 = 1#6 then .ok (.pqToMask (hdrOf w) (field w 12 4) (field w 6 3))
  else .error .undefinedForm

/-- Opcode 0x3E: compose. -/
def decodeOp3E (w : Word) : Except DecodeError Instr :=
  .ok (.compose (hdrOf w) (field w 12 6) (field w 6 6) (field w 0 6))

/-- Opcode 0x40: bra. -/
def decodeOp40 (w : Word) : Except DecodeError Instr :=
  .ok (.bra (hdrOf w) (field w 0 18))

/-- Opcode 0x41: join. -/
def decodeOp41 (w : Word) : Except DecodeError Instr :=
  if field w 0 21 = 0#21 then .ok (.join (hd0Of w))
  else .error .undefinedForm

/-- Opcode 0x42: brx. -/
def decodeOp42 (w : Word) : Except DecodeError Instr :=
  if field w 12 6 = 0#6 ∧ field w 0 6 = 0#6 then .ok (.brx (hdrOf w) (field w 6 6))
  else .error .undefinedForm

/-- Opcode 0x43: call. -/
def decodeOp43 (w : Word) : Except DecodeError Instr :=
  .ok (.call (hdrOf w) (field w 15 3) (field w 0 15))

/-- Opcode 0x44: callx. -/
def decodeOp44 (w : Word) : Except DecodeError Instr :=
  if field w 12 3 = 0#3 ∧ field w 0 6 = 0#6 then .ok (.callx (hdrOf w) (field w 15 3) (field w 6 6))
  else .error .undefinedForm

/-- Opcode 0x45: ret. -/
def decodeOp45 (w : Word) : Except DecodeError Instr :=
  if field w 0 21 = 0#21 then .ok (.ret (hd0Of w))
  else .error .undefinedForm

/-- Opcode 0x46: callv. -/
def decodeOp46 (w l0 : Word) : Except DecodeError Instr :=
  .ok (.callv (hdrOf w) (field w 15 3) (field w 12 3) (field w 6 6) (field w 0 6) (field l0 29 3) (field l0 0 29))

/-- Opcode 0x47: vqual. -/
def decodeOp47 (w : Word) : Except DecodeError Instr :=
  if field w 12 9 = 0#9 ∧ field w 0 6 = 0#6 then .ok (.vqual (hd0Of w) (field w 6 6))
  else .error .undefinedForm

/-- Opcode 0x48: regang. -/
def decodeOp48 (w : Word) : Except DecodeError Instr :=
  if field w 0 21 = 0#21 then .ok (.regang (hd0Of w))
  else .error .undefinedForm

/-- Opcode 0x49: exit. -/
def decodeOp49 (w : Word) : Except DecodeError Instr :=
  if field w 0 18 = 0#18 then .ok (.exit (hdrOf w))
  else .error .undefinedForm

/-- Opcode 0x4A: trap. -/
def decodeOp4A (w : Word) : Except DecodeError Instr :=
  if field w 12 6 = 0#6 then .ok (.trap (hdrOf w) (field w 0 12))
  else .error .undefinedForm

/-- Opcode 0x4B: rft. -/
def decodeOp4B (w : Word) : Except DecodeError Instr :=
  if field w 0 21 = 0#21 then .ok (.rft (hd0Of w))
  else .error .undefinedForm

/-- Opcode 0x4C: region. -/
def decodeOp4C (w : Word) : Except DecodeError Instr :=
  if field w 12 9 = 0#9 then .ok (.region (hd0Of w) (field w 0 12))
  else .error .undefinedForm

/-- Opcode 0x4D: hint. -/
def decodeOp4D (w l0 l1 : Word) : Except DecodeError Instr :=
  if field w 18 3 = 0#3 ∧ field w 12 6 = 0#6 ∧ field w 0 6 = 0#6 then .ok (.hint (hd0Of w) (field w 6 6) l0 l1)
  else .error .undefinedForm

/-- Opcode 0x4E: rolesw. -/
def decodeOp4E (w : Word) : Except DecodeError Instr :=
  if field w 2 19 = 0#19 then .ok (.rolesw (hd0Of w) (field w 0 2))
  else .error .undefinedForm

/-- Opcode 0x4F: stage. -/
def decodeOp4F (w : Word) : Except DecodeError Instr :=
  if field w 0 21 = 0#21 then .ok (.stage (hd0Of w))
  else .error .undefinedForm

/-- Opcode 0x50: sleep. -/
def decodeOp50 (w : Word) : Except DecodeError Instr :=
  if field w 12 9 = 0#9 ∧ field w 0 6 = 0#6 then .ok (.sleep (hd0Of w) (field w 6 6))
  else if field w 18 3 = 0#3 ∧ field w 0 6 = 1#6 then .ok (.sleepC (hd0Of w) (field w 12 6) (field w 6 6))
  else .error .undefinedForm

/-- Opcode 0x51: wait. -/
def decodeOp51 (w : Word) : Except DecodeError Instr :=
  if field w 18 3 = 0#3 ∧ field w 0 6 = 0#6 then .ok (.wait (hd0Of w) (field w 12 6) (field w 6 6))
  else if field w 12 9 = 0#9 ∧ field w 0 6 = 1#6 then .ok (.waitCnt (hd0Of w) (field w 6 6))
  else .error .undefinedForm

/-- Opcode 0x52: macro. -/
def decodeOp52 (w l0 : Word) : Except DecodeError Instr :=
  if field w 18 3 = 0#3 ∧ field l0 0 20 = 0#20 then .ok (.macroOp (hd0Of w) (field w 12 6) (field w 6 6) (field w 0 6) (field l0 26 6) (field l0 20 6))
  else .error .undefinedForm

/-- Opcode 0x53: csrr. -/
def decodeOp53 (w : Word) : Except DecodeError Instr :=
  .ok (.csrr (hdrOf w) (field w 12 6) (field w 0 12))

/-- Opcode 0x54: csrw. -/
def decodeOp54 (w : Word) : Except DecodeError Instr :=
  if field w 18 3 = 0#3 then .ok (.csrw (hd0Of w) (field w 12 6) (field w 0 12))
  else .error .undefinedForm

/-- Opcode 0x55: stepend. -/
def decodeOp55 (w : Word) : Except DecodeError Instr :=
  if field w 0 21 = 0#21 then .ok (.stepend (hd0Of w))
  else .error .undefinedForm

/-- Opcode 0x56: qpush. -/
def decodeOp56 (w : Word) : Except DecodeError Instr :=
  if field w 12 6 = 0#6 then .ok (.qpush (hdrOf w) (field w 6 6) (field w 3 3) (field w 0 3))
  else .error .undefinedForm

/-- Opcode 0x57: qpop. -/
def decodeOp57 (w : Word) : Except DecodeError Instr :=
  if field w 6 6 = 0#6 then .ok (.qpop (hdrOf w) (field w 12 6) (field w 3 3) (field w 0 3))
  else .error .undefinedForm

/-- Opcode 0x58: segw. -/
def decodeOp58 (w : Word) : Except DecodeError Instr :=
  if field w 12 9 = 0#9 ∧ field w 3 3 = 0#3 then .ok (.segwBase (hd0Of w) (field w 6 6) (field w 0 3))
  else if field w 12 9 = 0#9 ∧ field w 3 3 = 1#3 then .ok (.segwLimit (hd0Of w) (field w 6 6) (field w 0 3))
  else .error .undefinedForm

/-- Opcode 0x59: segr. -/
def decodeOp59 (w : Word) : Except DecodeError Instr :=
  if field w 3 9 = 0#9 then .ok (.segrBase (hdrOf w) (field w 12 6) (field w 0 3))
  else if field w 3 9 = 1#9 then .ok (.segrLimit (hdrOf w) (field w 12 6) (field w 0 3))
  else .error .undefinedForm

/-- Opcode 0x5A: tlbi. -/
def decodeOp5A (w : Word) : Except DecodeError Instr :=
  if field w 12 9 = 0#9 ∧ field w 0 6 = 0#6 then .ok (.tlbi (hd0Of w) (field w 6 6))
  else if field w 12 9 = 0#9 ∧ field w 0 6 = 1#6 then .ok (.tlbiAsid (hd0Of w) (field w 6 6))
  else if field w 0 21 = 2#21 then .ok (.tlbiAll (hd0Of w))
  else .error .undefinedForm

/-- Opcode 0x5B: mcsld. -/
def decodeOp5B (w : Word) : Except DecodeError Instr :=
  if field w 12 9 = 0#9 then .ok (.mcsld (hd0Of w) (field w 6 6) (field w 0 6))
  else .error .undefinedForm

/-- Opcode 0x5C: dbrk. -/
def decodeOp5C (w : Word) : Except DecodeError Instr :=
  if field w 12 9 = 0#9 then .ok (.dbrk (hd0Of w) (field w 0 12))
  else .error .undefinedForm

/-- Opcode 0x5D: pause. -/
def decodeOp5D (w : Word) : Except DecodeError Instr :=
  if field w 12 9 = 0#9 then .ok (.pause (hd0Of w) (field w 0 12))
  else .error .undefinedForm

/-- Opcode 0x60: ldb. -/
def decodeOp60 (w : Word) : Except DecodeError Instr :=
  .ok (.ldb (hdrOf w) (field w 12 6) (field w 6 6) (field w 3 3) (field w 0 3))

/-- Opcode 0x61: ldh. -/
def decodeOp61 (w : Word) : Except DecodeError Instr :=
  .ok (.ldh (hdrOf w) (field w 12 6) (field w 6 6) (field w 3 3) (field w 0 3))

/-- Opcode 0x62: ldw. -/
def decodeOp62 (w : Word) : Except DecodeError Instr :=
  .ok (.ldw (hdrOf w) (field w 12 6) (field w 6 6) (field w 3 3) (field w 0 3))

/-- Opcode 0x63: ldd. -/
def decodeOp63 (w : Word) : Except DecodeError Instr :=
  .ok (.ldd (hdrOf w) (field w 12 6) (field w 6 6) (field w 3 3) (field w 0 3))

/-- Opcode 0x64: ldc. -/
def decodeOp64 (w : Word) : Except DecodeError Instr :=
  if field w 3 3 = 5#3 then .ok (.ldc (hdrOf w) (field w 12 6) (field w 6 6) (field w 0 3))
  else .error .undefinedForm

/-- Opcode 0x65: ldt. -/
def decodeOp65 (w : Word) : Except DecodeError Instr :=
  .ok (.ldt (hdrOf w) (field w 12 6) (field w 6 6) (field w 3 3) (field w 0 3))

/-- Opcode 0x66: stb. -/
def decodeOp66 (w : Word) : Except DecodeError Instr :=
  if field w 0 3 = 0#3 then .ok (.stb (hdrOf w) (field w 12 6) (field w 6 6) (field w 3 3))
  else .error .undefinedForm

/-- Opcode 0x67: sth. -/
def decodeOp67 (w : Word) : Except DecodeError Instr :=
  if field w 0 3 = 0#3 then .ok (.sth (hdrOf w) (field w 12 6) (field w 6 6) (field w 3 3))
  else .error .undefinedForm

/-- Opcode 0x68: stw. -/
def decodeOp68 (w : Word) : Except DecodeError Instr :=
  if field w 0 3 = 0#3 then .ok (.stw (hdrOf w) (field w 12 6) (field w 6 6) (field w 3 3))
  else .error .undefinedForm

/-- Opcode 0x69: std. -/
def decodeOp69 (w : Word) : Except DecodeError Instr :=
  if field w 0 3 = 0#3 then .ok (.std (hdrOf w) (field w 12 6) (field w 6 6) (field w 3 3))
  else .error .undefinedForm

/-- Opcode 0x6A: atom. -/
def decodeOp6A (w : Word) : Except DecodeError Instr :=
  if field w 0 3 = 0#3 then .ok (.atomAdd (hdrOf w) (field w 12 6) (field w 6 6) (field w 3 3))
  else if field w 0 3 = 1#3 then .ok (.atomMin (hdrOf w) (field w 12 6) (field w 6 6) (field w 3 3))
  else if field w 0 3 = 2#3 then .ok (.atomMax (hdrOf w) (field w 12 6) (field w 6 6) (field w 3 3))
  else if field w 0 3 = 3#3 then .ok (.atomAnd (hdrOf w) (field w 12 6) (field w 6 6) (field w 3 3))
  else if field w 0 3 = 4#3 then .ok (.atomOr (hdrOf w) (field w 12 6) (field w 6 6) (field w 3 3))
  else if field w 0 3 = 5#3 then .ok (.atomXor (hdrOf w) (field w 12 6) (field w 6 6) (field w 3 3))
  else if field w 0 3 = 6#3 then .ok (.atomExch (hdrOf w) (field w 12 6) (field w 6 6) (field w 3 3))
  else if field w 0 3 = 7#3 then .ok (.atomAddwrap (hdrOf w) (field w 12 6) (field w 6 6) (field w 3 3))
  else .error .undefinedForm

/-- Opcode 0x6B: cas. -/
def decodeOp6B (w : Word) : Except DecodeError Instr :=
  if field w 0 3 = 0#3 then .ok (.cas (hdrOf w) (field w 12 6) (field w 6 6) (field w 3 3))
  else .error .undefinedForm

/-- Opcode 0x6C: asum. -/
def decodeOp6C (w : Word) : Except DecodeError Instr :=
  if field w 0 3 = 0#3 then .ok (.asum (hdrOf w) (field w 12 6) (field w 6 6) (field w 3 3))
  else .error .undefinedForm

/-- Opcode 0x6D: srd. -/
def decodeOp6D (w : Word) : Except DecodeError Instr :=
  if field w 0 3 = 0#3 then .ok (.srd (hdrOf w) (field w 12 6) (field w 6 6) (field w 3 3))
  else .error .undefinedForm

/-- Opcode 0x6E: fence. -/
def decodeOp6E (w : Word) : Except DecodeError Instr :=
  if field w 0 21 = 0#21 then .ok (.fenceAcq (hd0Of w))
  else if field w 0 21 = 1#21 then .ok (.fenceRel (hd0Of w))
  else if field w 0 21 = 2#21 then .ok (.fenceAcqrel (hd0Of w))
  else if field w 8 13 = 0#13 ∧ field w 0 6 = 3#6 then .ok (.fencePath (hd0Of w) (field w 6 2))
  else if field w 0 21 = 4#21 then .ok (.fenceEng (hd0Of w))
  else .error .undefinedForm

/-- Opcode 0x70: kick. -/
def decodeOp70 (w : Word) : Except DecodeError Instr :=
  if field w 18 3 = 0#3 then .ok (.kick (hd0Of w) (field w 12 6) (field w 6 6) (field w 0 6))
  else .error .undefinedForm

/-- Opcode 0x71: binit. -/
def decodeOp71 (w : Word) : Except DecodeError Instr :=
  if field w 18 3 = 0#3 ∧ field w 0 6 = 0#6 then .ok (.binit (hd0Of w) (field w 12 6) (field w 6 6))
  else .error .undefinedForm

/-- Opcode 0x72: barr. -/
def decodeOp72 (w : Word) : Except DecodeError Instr :=
  if field w 18 3 = 0#3 then .ok (.barr (hd0Of w) (field w 12 6) (field w 6 6) (field w 0 6))
  else .error .undefinedForm

/-- Opcode 0x73: btest. -/
def decodeOp73 (w : Word) : Except DecodeError Instr :=
  if field w 18 3 = 0#3 then .ok (.btest (hd0Of w) (field w 12 6) (field w 6 6) (field w 0 6))
  else .error .undefinedForm

/-- Opcode 0x74: trst. -/
def decodeOp74 (w : Word) : Except DecodeError Instr :=
  if field w 12 9 = 0#9 ∧ field w 0 6 = 0#6 then .ok (.trst (hd0Of w) (field w 6 6))
  else .error .undefinedForm

/-- Opcode 0x75: legal. -/
def decodeOp75 (w : Word) : Except DecodeError Instr :=
  .ok (.legal (hdrOf w) (field w 12 6) (field w 6 6) (field w 0 6))

/-- Opcode 0x76: dist. -/
def decodeOp76 (w : Word) : Except DecodeError Instr :=
  .ok (.dist (hdrOf w) (field w 12 6) (field w 6 6) (field w 0 6))

/-- Opcode 0x77: topk. -/
def decodeOp77 (w : Word) : Except DecodeError Instr :=
  .ok (.topk (hdrOf w) (field w 12 6) (field w 6 6) (field w 0 6))

/-- Opcode 0x78: rng. -/
def decodeOp78 (w : Word) : Except DecodeError Instr :=
  .ok (.rng (hdrOf w) (field w 12 6) (field w 6 6) (field w 4 2) (field w 0 4))

/-- Opcode 0x79: sload. -/
def decodeOp79 (w : Word) : Except DecodeError Instr :=
  if field w 12 9 = 0#9 then .ok (.sload (hd0Of w) (field w 6 6) (field w 0 6))
  else .error .undefinedForm

/-- Opcode 0x7A: nsend. -/
def decodeOp7A (w : Word) : Except DecodeError Instr :=
  if field w 12 9 = 0#9 then .ok (.nsend (hd0Of w) (field w 6 6) (field w 0 6))
  else .error .undefinedForm

/-- Opcode 0x7B: mfrd. -/
def decodeOp7B (w : Word) : Except DecodeError Instr :=
  .ok (.mfrd (hdrOf w) (field w 12 6) (field w 6 6) (field w 0 6))

/-- Opcode 0x7C: mfwr. -/
def decodeOp7C (w : Word) : Except DecodeError Instr :=
  .ok (.mfwr (hdrOf w) (field w 12 6) (field w 6 6) (field w 0 6))

/-- Opcode 0x7D: mfop. -/
def decodeOp7D (w : Word) : Except DecodeError Instr :=
  if field w 0 6 = 0#6 then .ok (.mfopAppend (hdrOf w) (field w 12 6) (field w 6 6))
  else if field w 0 6 = 1#6 then .ok (.mfopRollback (hdrOf w) (field w 12 6) (field w 6 6))
  else if field w 0 6 = 2#6 then .ok (.mfopFinish (hdrOf w) (field w 12 6) (field w 6 6))
  else if field w 0 6 = 3#6 then .ok (.mfopFault (hdrOf w) (field w 12 6) (field w 6 6))
  else .error .undefinedForm

/-- The literals a primary opcode owns (Table 2-6). -/
def literals (w : Word) : Nat :=
  match (field w 21 7).toNat with
  | 0x09 | 0x0A | 0x1C | 0x1D | 0x46 | 0x52 => 1
  | 0x4D => 2
  | _ => 0

/-- The instruction a word and the two words after it hold. -/
def decode (w l0 l1 : Word) : Except DecodeError Instr :=
  match (field w 21 7).toNat with
  | 0x00 => decodeOp00 w
  | 0x01 => decodeOp01 w
  | 0x02 => decodeOp02 w
  | 0x03 => decodeOp03 w
  | 0x04 => decodeOp04 w
  | 0x05 => decodeOp05 w
  | 0x06 => decodeOp06 w
  | 0x07 => decodeOp07 w
  | 0x08 => decodeOp08 w
  | 0x09 => decodeOp09 w l0
  | 0x0A => decodeOp0A w l0
  | 0x0B => decodeOp0B w
  | 0x0C => decodeOp0C w
  | 0x0D => decodeOp0D w
  | 0x0E => decodeOp0E w
  | 0x0F => decodeOp0F w
  | 0x10 => decodeOp10 w
  | 0x11 => decodeOp11 w
  | 0x12 => decodeOp12 w
  | 0x13 => decodeOp13 w
  | 0x14 => decodeOp14 w
  | 0x15 => decodeOp15 w
  | 0x16 => decodeOp16 w
  | 0x17 => decodeOp17 w
  | 0x18 => decodeOp18 w
  | 0x19 => decodeOp19 w
  | 0x1A => decodeOp1A w
  | 0x1B => decodeOp1B w
  | 0x1C => decodeOp1C w l0
  | 0x1D => decodeOp1D w l0
  | 0x1E => decodeOp1E w
  | 0x20 => decodeOp20 w
  | 0x21 => decodeOp21 w
  | 0x22 => decodeOp22 w
  | 0x23 => decodeOp23 w
  | 0x24 => decodeOp24 w
  | 0x25 => decodeOp25 w
  | 0x26 => decodeOp26 w
  | 0x27 => decodeOp27 w
  | 0x28 => decodeOp28 w
  | 0x30 => decodeOp30 w
  | 0x31 => decodeOp31 w
  | 0x32 => decodeOp32 w
  | 0x33 => decodeOp33 w
  | 0x34 => decodeOp34 w
  | 0x35 => decodeOp35 w
  | 0x36 => decodeOp36 w
  | 0x37 => decodeOp37 w
  | 0x38 => decodeOp38 w
  | 0x39 => decodeOp39 w
  | 0x3A => decodeOp3A w
  | 0x3B => decodeOp3B w
  | 0x3C => decodeOp3C w
  | 0x3D => decodeOp3D w
  | 0x3E => decodeOp3E w
  | 0x40 => decodeOp40 w
  | 0x41 => decodeOp41 w
  | 0x42 => decodeOp42 w
  | 0x43 => decodeOp43 w
  | 0x44 => decodeOp44 w
  | 0x45 => decodeOp45 w
  | 0x46 => decodeOp46 w l0
  | 0x47 => decodeOp47 w
  | 0x48 => decodeOp48 w
  | 0x49 => decodeOp49 w
  | 0x4A => decodeOp4A w
  | 0x4B => decodeOp4B w
  | 0x4C => decodeOp4C w
  | 0x4D => decodeOp4D w l0 l1
  | 0x4E => decodeOp4E w
  | 0x4F => decodeOp4F w
  | 0x50 => decodeOp50 w
  | 0x51 => decodeOp51 w
  | 0x52 => decodeOp52 w l0
  | 0x53 => decodeOp53 w
  | 0x54 => decodeOp54 w
  | 0x55 => decodeOp55 w
  | 0x56 => decodeOp56 w
  | 0x57 => decodeOp57 w
  | 0x58 => decodeOp58 w
  | 0x59 => decodeOp59 w
  | 0x5A => decodeOp5A w
  | 0x5B => decodeOp5B w
  | 0x5C => decodeOp5C w
  | 0x5D => decodeOp5D w
  | 0x60 => decodeOp60 w
  | 0x61 => decodeOp61 w
  | 0x62 => decodeOp62 w
  | 0x63 => decodeOp63 w
  | 0x64 => decodeOp64 w
  | 0x65 => decodeOp65 w
  | 0x66 => decodeOp66 w
  | 0x67 => decodeOp67 w
  | 0x68 => decodeOp68 w
  | 0x69 => decodeOp69 w
  | 0x6A => decodeOp6A w
  | 0x6B => decodeOp6B w
  | 0x6C => decodeOp6C w
  | 0x6D => decodeOp6D w
  | 0x6E => decodeOp6E w
  | 0x70 => decodeOp70 w
  | 0x71 => decodeOp71 w
  | 0x72 => decodeOp72 w
  | 0x73 => decodeOp73 w
  | 0x74 => decodeOp74 w
  | 0x75 => decodeOp75 w
  | 0x76 => decodeOp76 w
  | 0x77 => decodeOp77 w
  | 0x78 => decodeOp78 w
  | 0x79 => decodeOp79 w
  | 0x7A => decodeOp7A w
  | 0x7B => decodeOp7B w
  | 0x7C => decodeOp7C w
  | 0x7D => decodeOp7D w
  | _ => .error .reservedOpcode

/-- Four bytes, the first the least significant (R4). -/
def wordOfBytes (a b c d : Byte) : Word := d ++ c ++ b ++ a

/-- The instruction at the head of a list of bytes, and the bytes after it and its literals. -/
def decodeBytes : List Byte → Except DecodeError (Instr × List Byte)
  | a :: b :: c :: d :: r =>
    let w := wordOfBytes a b c d
    match literals w, r with
    | 0, r => (decode w 0 0).map (·, r)
    | 1, a1 :: b1 :: c1 :: d1 :: r => (decode w (wordOfBytes a1 b1 c1 d1) 0).map (·, r)
    | 2, a1 :: b1 :: c1 :: d1 :: a2 :: b2 :: c2 :: d2 :: r =>
      (decode w (wordOfBytes a1 b1 c1 d1) (wordOfBytes a2 b2 c2 d2)).map (·, r)
    | _, _ => .error .truncated
  | _ => .error .truncated

/-- The four bytes of a word, the least significant first (R4). -/
def bytesOfWord (w : Word) : List Byte := [field w 0 8, field w 8 8, field w 16 8, field w 24 8]

/-- The bytes of an instruction whose bits are numbered as the opcode table numbers them: its word, then its literals. -/
def tableBytes (w : Nat) : List Byte :=
  bytesOfWord (BitVec.ofNat 32 w) ++ bytesOfWord (BitVec.ofNat 32 (w / 2 ^ 32)) ++ bytesOfWord (BitVec.ofNat 32 (w / 2 ^ 64))

/-- The instruction the decoder reads from an instruction of `nbits` bits `w`; the table gives the rows of literal owners no
bits, so their literals read zero. -/
def decodeTableWord (nbits w : Nat) : Option Instr :=
  match decodeBytes (tableBytes (w % 2 ^ nbits)) with
  | .ok (i, _) => some i
  | .error _ => none

/-- Bits 31:21 of a word: C, S and OP. -/
def top (c : Bool) (s : BitVec 3) (op : BitVec 7) : BitVec 11 := BitVec.ofBool c ++ s ++ op

/-- The words of an instruction, its literals after it; the events of the table have none. -/
def encode : Instr → List Word
  | .nop h => [top h.chain h.stall 0x00#7 ++ 0#21]
  | .add h d a b => [top h.chain h.stall 0x01#7 ++ h.guard ++ d ++ a ++ b]
  | .sub h d a b => [top h.chain h.stall 0x02#7 ++ h.guard ++ d ++ a ++ b]
  | .mul h d a b => [top h.chain h.stall 0x03#7 ++ h.guard ++ d ++ a ++ b]
  | .mulh h d a b => [top h.chain h.stall 0x04#7 ++ h.guard ++ d ++ a ++ b]
  | .fma h d a b => [top h.chain h.stall 0x05#7 ++ h.guard ++ d ++ a ++ b]
  | .min h d a b => [top h.chain h.stall 0x06#7 ++ h.guard ++ d ++ a ++ b]
  | .max h d a b => [top h.chain h.stall 0x07#7 ++ h.guard ++ d ++ a ++ b]
  | .unopAbs h d a => [top h.chain h.stall 0x08#7 ++ h.guard ++ d ++ a ++ 0#6]
  | .unopNeg h d a => [top h.chain h.stall 0x08#7 ++ h.guard ++ d ++ a ++ 1#6]
  | .unopNabs h d a => [top h.chain h.stall 0x08#7 ++ h.guard ++ d ++ a ++ 2#6]
  | .unopSat h d a => [top h.chain h.stall 0x08#7 ++ h.guard ++ d ++ a ++ 3#6]
  | .unopNot h d a => [top h.chain h.stall 0x08#7 ++ h.guard ++ d ++ a ++ 4#6]
  | .addl h d a lit => [top h.chain h.stall 0x09#7 ++ h.guard ++ d ++ a ++ 0#6, lit]
  | .movl h d t lit => [top h.chain h.stall 0x0A#7 ++ h.guard ++ d ++ 0#8 ++ t, lit]
  | .movi h d i => [top h.chain h.stall 0x0B#7 ++ h.guard ++ d ++ i]
  | .mov h d a => [top h.chain h.stall 0x0C#7 ++ h.guard ++ d ++ a ++ 0#6]
  | .sel h d a b => [top h.chain h.stall 0x0D#7 ++ h.guard ++ d ++ a ++ b]
  | .cmpEq h p a b => [top h.chain h.stall 0x0E#7 ++ h.guard ++ p ++ 0#3 ++ a ++ b]
  | .cmpNe h p a b => [top h.chain h.stall 0x0E#7 ++ h.guard ++ p ++ 1#3 ++ a ++ b]
  | .cmpLt h p a b => [top h.chain h.stall 0x0E#7 ++ h.guard ++ p ++ 2#3 ++ a ++ b]
  | .cmpLe h p a b => [top h.chain h.stall 0x0E#7 ++ h.guard ++ p ++ 3#3 ++ a ++ b]
  | .cmpGt h p a b => [top h.chain h.stall 0x0E#7 ++ h.guard ++ p ++ 4#3 ++ a ++ b]
  | .cmpGe h p a b => [top h.chain h.stall 0x0E#7 ++ h.guard ++ p ++ 5#3 ++ a ++ b]
  | .cmpUnord h p a b => [top h.chain h.stall 0x0E#7 ++ h.guard ++ p ++ 6#3 ++ a ++ b]
  | .cmpOrd h p a b => [top h.chain h.stall 0x0E#7 ++ h.guard ++ p ++ 7#3 ++ a ++ b]
  | .add64 h d a b => [top h.chain h.stall 0x0F#7 ++ h.guard ++ d ++ a ++ b]
  | .and h d a b => [top h.chain h.stall 0x10#7 ++ h.guard ++ d ++ a ++ b]
  | .or h d a b => [top h.chain h.stall 0x11#7 ++ h.guard ++ d ++ a ++ b]
  | .xor h d a b => [top h.chain h.stall 0x12#7 ++ h.guard ++ d ++ a ++ b]
  | .andn h d a b => [top h.chain h.stall 0x13#7 ++ h.guard ++ d ++ a ++ b]
  | .shl h d a b => [top h.chain h.stall 0x14#7 ++ h.guard ++ d ++ a ++ b]
  | .shr h d a b => [top h.chain h.stall 0x15#7 ++ h.guard ++ d ++ a ++ b]
  | .sar h d a b => [top h.chain h.stall 0x16#7 ++ h.guard ++ d ++ a ++ b]
  | .rot h d a b => [top h.chain h.stall 0x17#7 ++ h.guard ++ d ++ a ++ b]
  | .shli h d a i => [top h.chain h.stall 0x18#7 ++ h.guard ++ d ++ a ++ i]
  | .shri h d a i => [top h.chain h.stall 0x19#7 ++ h.guard ++ d ++ a ++ i]
  | .sari h d a i => [top h.chain h.stall 0x1A#7 ++ h.guard ++ d ++ a ++ i]
  | .bitsClz h d a => [top h.chain h.stall 0x1B#7 ++ h.guard ++ d ++ a ++ 0#6]
  | .bitsPopc h d a => [top h.chain h.stall 0x1B#7 ++ h.guard ++ d ++ a ++ 1#6]
  | .bitsBrev h d a => [top h.chain h.stall 0x1B#7 ++ h.guard ++ d ++ a ++ 2#6]
  | .bitsFfs h d a => [top h.chain h.stall 0x1B#7 ++ h.guard ++ d ++ a ++ 3#6]
  | .bitsByterev h d a => [top h.chain h.stall 0x1B#7 ++ h.guard ++ d ++ a ++ 4#6]
  | .bfx h d a pos lit => [top h.chain h.stall 0x1C#7 ++ h.guard ++ d ++ a ++ pos, lit]
  | .bfi h d a pos lit => [top h.chain h.stall 0x1D#7 ++ h.guard ++ d ++ a ++ pos, lit]
  | .dot4 h d a b => [top h.chain h.stall 0x1E#7 ++ h.guard ++ d ++ a ++ b]
  | .fnRcp h d a x => [top h.chain h.stall 0x20#7 ++ h.guard ++ d ++ a ++ x ++ 0#5]
  | .fnRsq h d a x => [top h.chain h.stall 0x20#7 ++ h.guard ++ d ++ a ++ x ++ 1#5]
  | .fnSqrt h d a x => [top h.chain h.stall 0x20#7 ++ h.guard ++ d ++ a ++ x ++ 2#5]
  | .fnExp2 h d a x => [top h.chain h.stall 0x20#7 ++ h.guard ++ d ++ a ++ x ++ 3#5]
  | .fnLog2 h d a x => [top h.chain h.stall 0x20#7 ++ h.guard ++ d ++ a ++ x ++ 4#5]
  | .fnTanh h d a x => [top h.chain h.stall 0x20#7 ++ h.guard ++ d ++ a ++ x ++ 5#5]
  | .fnSigm h d a x => [top h.chain h.stall 0x20#7 ++ h.guard ++ d ++ a ++ x ++ 6#5]
  | .fdiv h d a b => [top h.chain h.stall 0x21#7 ++ h.guard ++ d ++ a ++ b]
  | .fscale h d a b => [top h.chain h.stall 0x22#7 ++ h.guard ++ d ++ a ++ b]
  | .fcls h d a m => [top h.chain h.stall 0x23#7 ++ h.guard ++ d ++ a ++ m]
  | .cvt h d a r t => [top h.chain h.stall 0x24#7 ++ h.guard ++ d ++ a ++ r ++ t]
  | .tag h d a t => [top h.chain h.stall 0x25#7 ++ h.guard ++ d ++ a ++ 0#2 ++ t]
  | .qblk h d a k => [top h.chain h.stall 0x26#7 ++ h.guard ++ d ++ a ++ 0#2 ++ k]
  | .unpb h d a k => [top h.chain h.stall 0x27#7 ++ h.guard ++ d ++ a ++ 0#1 ++ k]
  | .frnd h d a r => [top h.chain h.stall 0x28#7 ++ h.guard ++ d ++ a ++ 0#4 ++ r]
  | .shfli h d a b => [top h.chain h.stall 0x30#7 ++ h.guard ++ d ++ a ++ b]
  | .shflx h d a i => [top h.chain h.stall 0x31#7 ++ h.guard ++ d ++ a ++ 0#1 ++ i]
  | .shflu h d a i => [top h.chain h.stall 0x32#7 ++ h.guard ++ d ++ a ++ 0#1 ++ i]
  | .shfld h d a i => [top h.chain h.stall 0x33#7 ++ h.guard ++ d ++ a ++ 0#1 ++ i]
  | .ballot h d k => [top h.chain h.stall 0x34#7 ++ h.guard ++ 0#2 ++ d ++ 0#3 ++ k ++ 0#6]
  | .voteAny h p k => [top h.chain h.stall 0x35#7 ++ h.guard ++ p ++ 0#6 ++ k ++ 0#6]
  | .voteAll h p k => [top h.chain h.stall 0x35#7 ++ h.guard ++ p ++ 0#6 ++ k ++ 1#6]
  | .voteUni h p a => [top h.chain h.stall 0x35#7 ++ h.guard ++ p ++ 0#3 ++ a ++ 2#6]
  | .matchEq h d a => [top h.chain h.stall 0x36#7 ++ h.guard ++ d ++ a ++ 0#6]
  | .redSum h d a => [top h.chain h.stall 0x37#7 ++ h.guard ++ d ++ a ++ 0#6]
  | .redEsum h d a => [top h.chain h.stall 0x37#7 ++ h.guard ++ d ++ a ++ 1#6]
  | .redMin h d a => [top h.chain h.stall 0x37#7 ++ h.guard ++ d ++ a ++ 2#6]
  | .redMax h d a => [top h.chain h.stall 0x37#7 ++ h.guard ++ d ++ a ++ 3#6]
  | .redAnd h d a => [top h.chain h.stall 0x37#7 ++ h.guard ++ d ++ a ++ 4#6]
  | .redOr h d a => [top h.chain h.stall 0x37#7 ++ h.guard ++ d ++ a ++ 5#6]
  | .redXor h d a => [top h.chain h.stall 0x37#7 ++ h.guard ++ d ++ a ++ 6#6]
  | .scanSum h d a e => [top h.chain h.stall 0x38#7 ++ h.guard ++ d ++ a ++ 0#2 ++ e ++ 0#3]
  | .scanMin h d a e => [top h.chain h.stall 0x38#7 ++ h.guard ++ d ++ a ++ 0#2 ++ e ++ 1#3]
  | .scanMax h d a e => [top h.chain h.stall 0x38#7 ++ h.guard ++ d ++ a ++ 0#2 ++ e ++ 2#3]
  | .bcast h d a b => [top h.chain h.stall 0x39#7 ++ h.guard ++ d ++ a ++ b]
  | .qopAnd h d a b => [top h.chain h.stall 0x3A#7 ++ 0#5 ++ d ++ 0#2 ++ a ++ 0#2 ++ b]
  | .qopOr h d a b => [top h.chain h.stall 0x3A#7 ++ 0#5 ++ d ++ 0#2 ++ a ++ 1#2 ++ b]
  | .qopXor h d a b => [top h.chain h.stall 0x3A#7 ++ 0#5 ++ d ++ 0#2 ++ a ++ 2#2 ++ b]
  | .qopAndn h d a b => [top h.chain h.stall 0x3A#7 ++ 0#5 ++ d ++ 0#2 ++ a ++ 3#2 ++ b]
  | .qopOrn h d a b => [top h.chain h.stall 0x3A#7 ++ 0#5 ++ d ++ 1#2 ++ a ++ 0#2 ++ b]
  | .qopXnor h d a b => [top h.chain h.stall 0x3A#7 ++ 0#5 ++ d ++ 1#2 ++ a ++ 1#2 ++ b]
  | .qopMov h d a => [top h.chain h.stall 0x3A#7 ++ 0#5 ++ d ++ 1#2 ++ a ++ 32#6]
  | .qopNot h d a => [top h.chain h.stall 0x3A#7 ++ 0#5 ++ d ++ 1#2 ++ a ++ 48#6]
  | .qopLsb h d a b => [top h.chain h.stall 0x3A#7 ++ 0#5 ++ d ++ 2#2 ++ a ++ 0#2 ++ b]
  | .qopClrlsb h d a b => [top h.chain h.stall 0x3A#7 ++ 0#5 ++ d ++ 2#2 ++ a ++ 1#2 ++ b]
  | .qi h d i => [top h.chain h.stall 0x3B#7 ++ 0#5 ++ d ++ i]
  | .qvToVector h d a => [top h.chain h.stall 0x3C#7 ++ 0#3 ++ d ++ 0#2 ++ a ++ 0#6]
  | .qvToMask h d a => [top h.chain h.stall 0x3C#7 ++ 0#5 ++ d ++ a ++ 1#6]
  | .pqToPredicate h p a => [top h.chain h.stall 0x3D#7 ++ h.guard ++ p ++ 0#5 ++ a ++ 0#6]
  | .pqToMask h d k => [top h.chain h.stall 0x3D#7 ++ h.guard ++ 0#2 ++ d ++ 0#3 ++ k ++ 1#6]
  | .compose h d a b => [top h.chain h.stall 0x3E#7 ++ h.guard ++ d ++ a ++ b]
  | .bra h o => [top h.chain h.stall 0x40#7 ++ h.guard ++ o]
  | .join h => [top h.chain h.stall 0x41#7 ++ 0#21]
  | .brx h a => [top h.chain h.stall 0x42#7 ++ h.guard ++ 0#6 ++ a ++ 0#6]
  | .call h l o => [top h.chain h.stall 0x43#7 ++ h.guard ++ l ++ o]
  | .callx h l a => [top h.chain h.stall 0x44#7 ++ h.guard ++ l ++ 0#3 ++ a ++ 0#6]
  | .ret h => [top h.chain h.stall 0x45#7 ++ 0#21]
  | .callv h l o va vb sg off => [top h.chain h.stall 0x46#7 ++ h.guard ++ l ++ o ++ va ++ vb, sg ++ off]
  | .vqual h a => [top h.chain h.stall 0x47#7 ++ 0#9 ++ a ++ 0#6]
  | .regang h => [top h.chain h.stall 0x48#7 ++ 0#21]
  | .exit h => [top h.chain h.stall 0x49#7 ++ h.guard ++ 0#18]
  | .trap h i => [top h.chain h.stall 0x4A#7 ++ h.guard ++ 0#6 ++ i]
  | .rft h => [top h.chain h.stall 0x4B#7 ++ 0#21]
  | .region h i => [top h.chain h.stall 0x4C#7 ++ 0#9 ++ i]
  | .hint h a lo hi => [top h.chain h.stall 0x4D#7 ++ 0#3 ++ 0#6 ++ a ++ 0#6, lo, hi]
  | .rolesw h n => [top h.chain h.stall 0x4E#7 ++ 0#19 ++ n]
  | .stage h => [top h.chain h.stall 0x4F#7 ++ 0#21]
  | .sleep h a => [top h.chain h.stall 0x50#7 ++ 0#9 ++ a ++ 0#6]
  | .sleepC h b a => [top h.chain h.stall 0x50#7 ++ 0#3 ++ b ++ a ++ 1#6]
  | .wait h p a => [top h.chain h.stall 0x51#7 ++ 0#3 ++ p ++ a ++ 0#6]
  | .waitCnt h a => [top h.chain h.stall 0x51#7 ++ 0#9 ++ a ++ 1#6]
  | .macroOp h p va vb vc vd => [top h.chain h.stall 0x52#7 ++ 0#3 ++ p ++ va ++ vb, vc ++ vd ++ 0#20]
  | .csrr h d i => [top h.chain h.stall 0x53#7 ++ h.guard ++ d ++ i]
  | .csrw h d i => [top h.chain h.stall 0x54#7 ++ 0#3 ++ d ++ i]
  | .stepend h => [top h.chain h.stall 0x55#7 ++ 0#21]
  | .qpush h a p n => [top h.chain h.stall 0x56#7 ++ h.guard ++ 0#6 ++ a ++ p ++ n]
  | .qpop h d p n => [top h.chain h.stall 0x57#7 ++ h.guard ++ d ++ 0#6 ++ p ++ n]
  | .segwBase h a e => [top h.chain h.stall 0x58#7 ++ 0#9 ++ a ++ 0#3 ++ e]
  | .segwLimit h a e => [top h.chain h.stall 0x58#7 ++ 0#9 ++ a ++ 1#3 ++ e]
  | .segrBase h d e => [top h.chain h.stall 0x59#7 ++ h.guard ++ d ++ 0#9 ++ e]
  | .segrLimit h d e => [top h.chain h.stall 0x59#7 ++ h.guard ++ d ++ 1#9 ++ e]
  | .tlbi h a => [top h.chain h.stall 0x5A#7 ++ 0#9 ++ a ++ 0#6]
  | .tlbiAsid h a => [top h.chain h.stall 0x5A#7 ++ 0#9 ++ a ++ 1#6]
  | .tlbiAll h => [top h.chain h.stall 0x5A#7 ++ 2#21]
  | .mcsld h a p => [top h.chain h.stall 0x5B#7 ++ 0#9 ++ a ++ p]
  | .dbrk h i => [top h.chain h.stall 0x5C#7 ++ 0#9 ++ i]
  | .pause h i => [top h.chain h.stall 0x5D#7 ++ 0#9 ++ i]
  | .ldb h d a e t => [top h.chain h.stall 0x60#7 ++ h.guard ++ d ++ a ++ e ++ t]
  | .ldh h d a e t => [top h.chain h.stall 0x61#7 ++ h.guard ++ d ++ a ++ e ++ t]
  | .ldw h d a e t => [top h.chain h.stall 0x62#7 ++ h.guard ++ d ++ a ++ e ++ t]
  | .ldd h d a e t => [top h.chain h.stall 0x63#7 ++ h.guard ++ d ++ a ++ e ++ t]
  | .ldc h d a t => [top h.chain h.stall 0x64#7 ++ h.guard ++ d ++ a ++ 5#3 ++ t]
  | .ldt h d a e t => [top h.chain h.stall 0x65#7 ++ h.guard ++ d ++ a ++ e ++ t]
  | .stb h d a e => [top h.chain h.stall 0x66#7 ++ h.guard ++ d ++ a ++ e ++ 0#3]
  | .sth h d a e => [top h.chain h.stall 0x67#7 ++ h.guard ++ d ++ a ++ e ++ 0#3]
  | .stw h d a e => [top h.chain h.stall 0x68#7 ++ h.guard ++ d ++ a ++ e ++ 0#3]
  | .std h d a e => [top h.chain h.stall 0x69#7 ++ h.guard ++ d ++ a ++ e ++ 0#3]
  | .atomAdd h d a e => [top h.chain h.stall 0x6A#7 ++ h.guard ++ d ++ a ++ e ++ 0#3]
  | .atomMin h d a e => [top h.chain h.stall 0x6A#7 ++ h.guard ++ d ++ a ++ e ++ 1#3]
  | .atomMax h d a e => [top h.chain h.stall 0x6A#7 ++ h.guard ++ d ++ a ++ e ++ 2#3]
  | .atomAnd h d a e => [top h.chain h.stall 0x6A#7 ++ h.guard ++ d ++ a ++ e ++ 3#3]
  | .atomOr h d a e => [top h.chain h.stall 0x6A#7 ++ h.guard ++ d ++ a ++ e ++ 4#3]
  | .atomXor h d a e => [top h.chain h.stall 0x6A#7 ++ h.guard ++ d ++ a ++ e ++ 5#3]
  | .atomExch h d a e => [top h.chain h.stall 0x6A#7 ++ h.guard ++ d ++ a ++ e ++ 6#3]
  | .atomAddwrap h d a e => [top h.chain h.stall 0x6A#7 ++ h.guard ++ d ++ a ++ e ++ 7#3]
  | .cas h d a e => [top h.chain h.stall 0x6B#7 ++ h.guard ++ d ++ a ++ e ++ 0#3]
  | .asum h d a e => [top h.chain h.stall 0x6C#7 ++ h.guard ++ d ++ a ++ e ++ 0#3]
  | .srd h d a e => [top h.chain h.stall 0x6D#7 ++ h.guard ++ d ++ a ++ e ++ 0#3]
  | .fenceAcq h => [top h.chain h.stall 0x6E#7 ++ 0#21]
  | .fenceRel h => [top h.chain h.stall 0x6E#7 ++ 1#21]
  | .fenceAcqrel h => [top h.chain h.stall 0x6E#7 ++ 2#21]
  | .fencePath h m => [top h.chain h.stall 0x6E#7 ++ 0#13 ++ m ++ 3#6]
  | .fenceEng h => [top h.chain h.stall 0x6E#7 ++ 4#21]
  | .kick h d a b => [top h.chain h.stall 0x70#7 ++ 0#3 ++ d ++ a ++ b]
  | .binit h d a => [top h.chain h.stall 0x71#7 ++ 0#3 ++ d ++ a ++ 0#6]
  | .barr h d a b => [top h.chain h.stall 0x72#7 ++ 0#3 ++ d ++ a ++ b]
  | .btest h d a f => [top h.chain h.stall 0x73#7 ++ 0#3 ++ d ++ a ++ f]
  | .trst h a => [top h.chain h.stall 0x74#7 ++ 0#9 ++ a ++ 0#6]
  | .legal h d a b => [top h.chain h.stall 0x75#7 ++ h.guard ++ d ++ a ++ b]
  | .dist h d a b => [top h.chain h.stall 0x76#7 ++ h.guard ++ d ++ a ++ b]
  | .topk h d a b => [top h.chain h.stall 0x77#7 ++ h.guard ++ d ++ a ++ b]
  | .rng h d a b p => [top h.chain h.stall 0x78#7 ++ h.guard ++ d ++ a ++ b ++ p]
  | .sload h a n => [top h.chain h.stall 0x79#7 ++ 0#9 ++ a ++ n]
  | .nsend h a n => [top h.chain h.stall 0x7A#7 ++ 0#9 ++ a ++ n]
  | .mfrd h d a i => [top h.chain h.stall 0x7B#7 ++ h.guard ++ d ++ a ++ i]
  | .mfwr h d a i => [top h.chain h.stall 0x7C#7 ++ h.guard ++ d ++ a ++ i]
  | .mfopAppend h d a => [top h.chain h.stall 0x7D#7 ++ h.guard ++ d ++ a ++ 0#6]
  | .mfopRollback h d a => [top h.chain h.stall 0x7D#7 ++ h.guard ++ d ++ a ++ 1#6]
  | .mfopFinish h d a => [top h.chain h.stall 0x7D#7 ++ h.guard ++ d ++ a ++ 2#6]
  | .mfopFault h d a => [top h.chain h.stall 0x7D#7 ++ h.guard ++ d ++ a ++ 3#6]
  | .trapEntry _ => []
  | .breakpointStop _ _ => []
  | .regangRelease _ => []
  | .retRendezvous _ _ => []
  | .sleepWake _ _ => []
  | .waitRelease _ _ => []
  | .pauseEnd _ _ => []
  | .engineQueueRoom _ _ => []
  | .fenceEngJoin _ _ => []
  | .stageItemTaken _ => []
  | .poundClose _ => []
  | .roleSwitchBacking _ => []
  | .moveRegister _ _ => []
  | .moveAtomic _ _ => []
  | .moveReleaseComplete _ _ => []
  | .moveWriteBack _ _ => []
  | .moveFill _ _ _ => []
  | .moveDrop _ _ _ => []
  | .engineAccess _ _ => []
  | .landing _ _ => []
  | .followOnFire _ => []
  | .matrixOpen _ => []
  | .matrixAccumulate _ => []
  | .matrixClose _ => []
  | .trestleThread _ => []
  | .nvmeCompletion _ _ _ _ => []
  | .quayTimeout _ => []
  | .messageAcknowledged _ => []
  | .messageUndeliverable _ => []
  | .messageArrival _ _ _ _ => []
  | .barrierDeadlock _ _ => []
  | .towSpill _ _ => []
  | .towRefill _ _ => []
  | .compaction _ _ => []
  | .launchDequeue => []
  | .gangPlacement _ => []
  | .gangStart _ => []
  | .launchEnd _ => []
  | .sluiceDoorbell _ _ => []
  | .sluiceLaunch _ => []
  | .sluiceWait _ => []
  | .sluiceSignal _ => []
  | .sluiceArm _ => []
  | .sluiceDisarm _ => []
  | .semaphoreRetest _ => []
  | .sluiceErrorClear _ => []
  | .rotationInterrupt => []
  | .lockEnable _ _ => []
  | .lockDisable _ => []
  | .subtailWrite _ _ => []
  | .stepFinished _ => []
  | .lockRetire _ => []
  | .lockReserve _ => []
  | .lockAdmit _ => []
  | .lockPublish _ => []
  | .lockPush _ => []
  | .invalidatePage _ _ => []
  | .invalidateAsid _ => []
  | .invalidateAll => []
  | .invalidationComplete => []
  | .replayParkId _ _ _ => []
  | .replayAsid _ _ _ => []
  | .replayDie _ _ => []
  | .overflowClear _ => []
  | .peerRequest _ _ _ _ _ => []
  | .hostAccess _ _ _ _ => []
  | .preempt _ => []
  | .preemptDeadline => []
  | .saveComplete => []
  | .contextRestore _ => []
  | .controlStoreReplace _ => []
  | .watchdogExpiry _ => []
  | .powerRecompute _ _ => []
  | .powercapWrite _ => []
  | .pcSample _ => []
  | .triggerLine _ => []
  | .hostStopRequest _ => []
  | .hostResume _ => []
  | .scrub _ _ _ _ _ => []
  | .retirementRequest _ => []
  | .securityVersionRaise _ => []
  | .moduleReset _ _ => []
  | .getVersion => []
  | .getCapabilities => []
  | .negotiateAlgorithms _ _ => []
  | .getCertificate _ _ _ => []
  | .challenge _ => []
  | .getMeasurements _ => []
  | .linkTraining _ _ => []
  | .portLinkChange _ _ _ => []
  | .registerWrite _ _ _ => []
  | .sluiceMap _ _ => []

/-- A field that names a pair is even (R49). -/
def even (r : BitVec 6) : Bool := r.toNat % 2 == 0

/-- A field that names four registers is a multiple of 4 (R150, R191). -/
def quad (r : BitVec 6) : Bool := r.toNat % 4 == 0

/-- The FMT field of a block code (Tables 4-11 and 4-13). -/
def field2 (k : BitVec 4) : BitVec 2 := k.extractLsb' 0 2

/-- Slide codes 1 to 6 (R64, R137). -/
def slideCode (l : BitVec 3) : Bool := l != 0#3 && l != 7#3

/-- Segments of loads, stores and atomics: g0–g3, b, and f with an even a (R59, Table 2-9). -/
def memSeg (e : BitVec 3) (a : BitVec 6) : Bool := decide (e.toNat ≤ 4) || (e == 7#3 && even a)

/-- Targets of `cvt`: NUM (R109, Table 4-1). -/
def numTagCode (t : BitVec 4) : Bool := decide (1 ≤ t.toNat) && decide (t.toNat ≤ 10)

/-- Position and width of `bfx` and `bfi` (R100). -/
def bitField (pos : BitVec 6) (lit : Word) : Bool :=
  decide (lit.toNat < 64) && decide (1 ≤ lit.toNat) && decide (lit.toNat ≤ 32) && decide (pos.toNat < 32) &&
    decide (pos.toNat + lit.toNat ≤ 32)

/-- IDs that `csrr` may read (R53, Table 2-8). -/
def csrReadable (id : Nat) : Bool :=
  decide (id ≤ 0x008) || (decide (0x010 ≤ id) && decide (id ≤ 0x018)) || (decide (0x020 ≤ id) && decide (id ≤ 0x024)) ||
    id == 0x030 || id == 0x031 || (decide (0x040 ≤ id) && decide (id ≤ 0x047)) || id == 0x050 ||
    (decide (0x060 ≤ id) && decide (id ≤ 0x07F))

/-- IDs that `csrw` may write; the trap registers in a handler only (R53, R155). -/
def csrWritable (id : Nat) : Bool :=
  (decide (0x014 ≤ id) && decide (id ≤ 0x018)) || (decide (0x020 ≤ id) && decide (id ≤ 0x022)) ||
    id == 0x030 || id == 0x031 || (decide (0x040 ≤ id) && decide (id ≤ 0x047)) || id == 0x050

/-- Defined manifest field ids (R196). -/
def manifestField (i : BitVec 6) : Bool :=
  decide (i.toNat ≤ 18) || (decide (32 ≤ i.toNat) && decide (i.toNat ≤ 47))

end Sys2Proof
end

