-- ==== Sys2Proof/WellFormed.lean ====
section
/-! DEFINITION. Which instructions are legal: the static checks of R49, R50, R53, R59, R64 and R65 that a word's fixed
fields do not already make. A word that fails one raises the illegal-instruction trap (R66). For an event, the bounds
that the spec gives its agent's numbers. -/

namespace Sys2Proof

/-- Legal instructions. -/
def Instr.wf : Instr → Bool
  | .nop _ => true
  | .add _ _ _ _ => true
  | .sub _ _ _ _ => true
  | .mul _ _ _ _ => true
  | .mulh _ _ _ _ => true
  | .fma _ _ _ _ => true
  | .min _ _ _ _ => true
  | .max _ _ _ _ => true
  | .unopAbs _ _ _ => true
  | .unopNeg _ _ _ => true
  | .unopNabs _ _ _ => true
  | .unopSat _ _ _ => true
  | .unopNot _ _ _ => true
  | .addl _ _ _ _ => true
  | .movl _ _ t _ => t != 15#4
  | .movi _ _ _ => true
  | .mov _ _ _ => true
  | .sel h _ _ _ => h.guard != 0#3
  | .cmpEq _ _ _ _ => true
  | .cmpNe _ _ _ _ => true
  | .cmpLt _ _ _ _ => true
  | .cmpLe _ _ _ _ => true
  | .cmpGt _ _ _ _ => true
  | .cmpGe _ _ _ _ => true
  | .cmpUnord _ _ _ _ => true
  | .cmpOrd _ _ _ _ => true
  | .add64 _ d a b => even d && even a && even b
  | .and _ _ _ _ => true
  | .or _ _ _ _ => true
  | .xor _ _ _ _ => true
  | .andn _ _ _ _ => true
  | .shl _ _ _ _ => true
  | .shr _ _ _ _ => true
  | .sar _ _ _ _ => true
  | .rot _ _ _ _ => true
  | .shli _ _ _ i => decide (i.toNat < 32)
  | .shri _ _ _ i => decide (i.toNat < 32)
  | .sari _ _ _ i => decide (i.toNat < 32)
  | .bitsClz _ _ _ => true
  | .bitsPopc _ _ _ => true
  | .bitsBrev _ _ _ => true
  | .bitsFfs _ _ _ => true
  | .bitsByterev _ _ _ => true
  | .bfx _ _ _ pos lit => bitField pos lit
  | .bfi _ _ _ pos lit => bitField pos lit
  | .dot4 _ _ _ _ => true
  | .fnRcp _ _ _ _ => true
  | .fnRsq _ _ _ _ => true
  | .fnSqrt _ _ _ _ => true
  | .fnExp2 _ _ _ _ => true
  | .fnLog2 _ _ _ _ => true
  | .fnTanh _ _ _ _ => true
  | .fnSigm _ _ _ _ => true
  | .fdiv _ _ _ _ => true
  | .fscale _ _ _ _ => true
  | .fcls _ _ _ _ => true
  | .cvt _ _ _ _ t => numTagCode t
  | .tag _ _ _ t => t != 15#4
  | .qblk _ d _ k => even d && field2 k != 3#2
  | .unpb _ _ a k => even a && field2 (k.extractLsb' 0 4) != 3#2 && k.extractLsb' 3 2 != 3#2
  | .frnd _ _ _ _ => true
  | .shfli _ _ _ _ => true
  | .shflx _ _ _ _ => true
  | .shflu _ _ _ _ => true
  | .shfld _ _ _ _ => true
  | .ballot _ _ _ => true
  | .voteAny _ _ _ => true
  | .voteAll _ _ _ => true
  | .voteUni _ _ _ => true
  | .matchEq _ _ _ => true
  | .redSum _ _ _ => true
  | .redEsum _ d _ => even d
  | .redMin _ _ _ => true
  | .redMax _ _ _ => true
  | .redAnd _ _ _ => true
  | .redOr _ _ _ => true
  | .redXor _ _ _ => true
  | .scanSum _ _ _ _ => true
  | .scanMin _ _ _ _ => true
  | .scanMax _ _ _ _ => true
  | .bcast _ _ _ _ => true
  | .qopAnd _ _ _ _ => true
  | .qopOr _ _ _ _ => true
  | .qopXor _ _ _ _ => true
  | .qopAndn _ _ _ _ => true
  | .qopOrn _ _ _ _ => true
  | .qopXnor _ _ _ _ => true
  | .qopMov _ _ _ => true
  | .qopNot _ _ _ => true
  | .qopLsb _ _ _ _ => true
  | .qopClrlsb _ _ _ _ => true
  | .qi _ _ _ => true
  | .qvToVector _ _ _ => true
  | .qvToMask _ _ _ => true
  | .pqToPredicate _ _ _ => true
  | .pqToMask _ _ _ => true
  | .compose _ _ _ _ => true
  | .bra _ _ => true
  | .join _ => true
  | .brx _ _ => true
  | .call _ l _ => slideCode l
  | .callx _ l _ => slideCode l
  | .ret _ => true
  | .callv _ l o _ _ sg _ => slideCode l && o != 7#3 && decide (sg.toNat ≤ 3)
  | .vqual _ _ => true
  | .regang _ => true
  | .exit _ => true
  | .trap _ _ => true
  | .rft _ => true
  | .region _ _ => true
  | .hint _ _ _ _ => true
  | .rolesw _ _ => true
  | .stage _ => true
  | .sleep _ a => even a
  | .sleepC _ _ a => even a
  | .wait _ _ _ => true
  | .waitCnt _ _ => true
  | .macroOp _ _ _ _ _ _ => true
  | .csrr _ _ i => csrReadable i.toNat
  | .csrw _ _ i => csrWritable i.toNat
  | .stepend _ => true
  | .qpush _ a _ _ => quad a
  | .qpop _ d _ _ => quad d
  | .segwBase _ a e => even a && decide (e.toNat ≤ 5)
  | .segwLimit _ a e => even a && decide (e.toNat ≤ 5)
  | .segrBase _ d e => even d && decide (e.toNat ≤ 5)
  | .segrLimit _ d e => even d && decide (e.toNat ≤ 5)
  | .tlbi _ a => even a
  | .tlbiAsid _ _ => true
  | .tlbiAll _ => true
  | .mcsld _ a _ => even a
  | .dbrk _ _ => true
  | .pause _ _ => true
  | .ldb _ _ a e t => memSeg e a && decide (t.toNat ≤ 2)
  | .ldh _ _ a e t => memSeg e a && decide (t.toNat ≤ 2)
  | .ldw _ _ a e _ => memSeg e a
  | .ldd _ d a e _ => even d && memSeg e a
  | .ldc _ _ _ _ => true
  | .ldt _ _ a e _ => memSeg e a && e != 4#3
  | .stb _ _ a e => memSeg e a
  | .sth _ _ a e => memSeg e a
  | .stw _ _ a e => memSeg e a
  | .std _ d a e => even d && memSeg e a
  | .atomAdd _ _ a e => memSeg e a
  | .atomMin _ _ a e => memSeg e a
  | .atomMax _ _ a e => memSeg e a
  | .atomAnd _ _ a e => memSeg e a
  | .atomOr _ _ a e => memSeg e a
  | .atomXor _ _ a e => memSeg e a
  | .atomExch _ _ a e => memSeg e a
  | .atomAddwrap _ _ a e => memSeg e a
  | .cas _ d a e => even d && memSeg e a
  | .asum _ _ a e => memSeg e a
  | .srd _ _ a e => memSeg e a
  | .fenceAcq _ => true
  | .fenceRel _ => true
  | .fenceAcqrel _ => true
  | .fencePath _ _ => true
  | .fenceEng _ => true
  | .kick _ d _ _ => even d
  | .binit _ _ _ => true
  | .barr _ _ _ _ => true
  | .btest _ _ _ f => decide (f.toNat ≤ 4)
  | .trst _ _ => true
  | .legal _ _ _ _ => true
  | .dist _ _ a _ => quad a
  | .topk _ d _ _ => even d
  | .rng _ _ _ _ _ => true
  | .sload _ _ _ => true
  | .nsend _ _ _ => true
  | .mfrd _ _ _ i => manifestField i
  | .mfwr _ _ _ i => manifestField i
  | .mfopAppend _ _ _ => true
  | .mfopRollback _ _ _ => true
  | .mfopFinish _ _ _ => true
  | .mfopFault _ _ _ => true
  | .trapEntry _ => true
  | .breakpointStop _ slice => decide (slice < 8)
  | .regangRelease _ => true
  | .retRendezvous _ _ => true
  | .sleepWake _ slice => decide (slice < 8)
  | .waitRelease _ slice => decide (slice < 8)
  | .pauseEnd _ slice => decide (slice < 8)
  | .engineQueueRoom _ slice => decide (slice < 8)
  | .fenceEngJoin _ slice => decide (slice < 8)
  | .stageItemTaken _ => true
  | .poundClose _ => true
  | .roleSwitchBacking _ => true
  | .moveRegister _ slice => decide (slice < 8)
  | .moveAtomic _ slice => decide (slice < 8)
  | .moveReleaseComplete _ slice => decide (slice < 8)
  | .moveWriteBack die _ => decide (die < 4)
  | .moveFill _ asid _ => decide (asid < 65536)
  | .moveDrop _ _ _ => true
  | .engineAccess _ _ => true
  | .landing _ _ => true
  | .followOnFire _ => true
  | .matrixOpen _ => true
  | .matrixAccumulate _ => true
  | .matrixClose _ => true
  | .trestleThread _ => true
  | .nvmeCompletion _ _ _ _ => true
  | .quayTimeout _ => true
  | .messageAcknowledged _ => true
  | .messageUndeliverable _ => true
  | .messageArrival asid _ _ _ => decide (asid < 65536)
  | .barrierDeadlock _ barrier => decide (barrier < 2048)
  | .towSpill _ slice => decide (slice < 8)
  | .towRefill _ slice => decide (slice < 8)
  | .compaction _ quarter => decide (quarter < 4)
  | .launchDequeue => true
  | .gangPlacement _ => true
  | .gangStart _ => true
  | .launchEnd _ => true
  | .sluiceDoorbell q _ => decide (q < 64)
  | .sluiceLaunch q => decide (q < 64)
  | .sluiceWait q => decide (q < 64)
  | .sluiceSignal q => decide (q < 64)
  | .sluiceArm q => decide (q < 64)
  | .sluiceDisarm q => decide (q < 64)
  | .semaphoreRetest q => decide (q < 64)
  | .sluiceErrorClear q => decide (q < 64)
  | .rotationInterrupt => true
  | .lockEnable reach _ => decide (reach < 8)
  | .lockDisable reach => decide (reach < 8)
  | .subtailWrite reach _ => decide (reach < 8)
  | .stepFinished reach => decide (reach < 8)
  | .lockRetire reach => decide (reach < 8)
  | .lockReserve reach => decide (reach < 8)
  | .lockAdmit reach => decide (reach < 8)
  | .lockPublish reach => decide (reach < 8)
  | .lockPush reach => decide (reach < 8)
  | .invalidatePage _ asid => decide (asid < 65536)
  | .invalidateAsid asid => decide (asid < 65536)
  | .invalidateAll => true
  | .invalidationComplete => true
  | .replayParkId die _ _ => decide (die < 4)
  | .replayAsid die asid _ => decide (die < 4) && decide (asid < 65536)
  | .replayDie die _ => decide (die < 4)
  | .overflowClear die => decide (die < 4)
  | .peerRequest _ asid _ _ _ => decide (asid < 65536)
  | .hostAccess _ _ _ _ => true
  | .preempt asid => decide (asid < 65536)
  | .preemptDeadline => true
  | .saveComplete => true
  | .contextRestore asid => decide (asid < 65536)
  | .controlStoreReplace _ => true
  | .watchdogExpiry asid => decide (asid < 65536)
  | .powerRecompute _ _ => true
  | .powercapWrite _ => true
  | .pcSample _ => true
  | .triggerLine line => decide (line < 8)
  | .hostStopRequest _ => true
  | .hostResume _ => true
  | .scrub die struct severity _ _ => decide (die < 4) && decide (1 ≤ struct) && decide (struct ≤ 8) && decide (severity ≤ 7)
  | .retirementRequest _ => true
  | .securityVersionRaise _ => true
  | .moduleReset _ _ => true
  | .getVersion => true
  | .getCapabilities => true
  | .negotiateAlgorithms _ _ => true
  | .getCertificate _ _ _ => true
  | .challenge _ => true
  | .getMeasurements index => decide (1 ≤ index) && decide (index ≤ 7)
  | .linkTraining _ _ => true
  | .portLinkChange port _ _ => decide (port < 8)
  | .registerWrite _ _ _ => true
  | .sluiceMap q _ => decide (q < 64)

end Sys2Proof
end

