-- ==== Sys2Proof/Machine/Operands.lean ====
section
/-! DEFINITION. What each word is besides its effect (Tables 2-3, 2-6, 14-3): its header, pipe, privilege, the registers
it reads and writes, its latency, its charge. Events have none of these. -/

namespace Sys2Proof.Machine

/-- Pipes (Table 2-6). -/
inductive Pipe where
  | none | v | x | m | k | e
  deriving DecidableEq, Repr

/-- Which lanes of a source register a word reads: the active ones, the lowest active one, every lane of the issuing
set, lane 0 of each slice with an active lane, none but by the word's own rule, the lanes of the active mask whose guard
is 1, those whose guard is 0 (R79, R43, R123, R181, R193). -/
inductive Reads where
  | active | lowest | issuing | first | none | on | off
  deriving DecidableEq, Repr

/-- A source register: the field value, its operand number in Table 10-2, the lanes read. -/
structure Src where
  reg : Nat
  opnd : Nat
  lanes : Reads
  deriving DecidableEq, Repr

/-- Tag sets of Table 4-1 and of single rules. -/
def isInt (t : Tag) : Bool := match t with | .i32 | .u32 | .i16x2 | .i8x4 | .u8x4 => true | _ => false
def isSint (t : Tag) : Bool := match t with | .i32 | .i16x2 | .i8x4 => true | _ => false
def isFlt (t : Tag) : Bool := match t with | .f32 | .f16x2 | .bf16x2 => true | _ => false
def isF8 (t : Tag) : Bool := match t with | .e4m3x4 | .e5m2x4 => true | _ => false
def isBits (t : Tag) : Bool := match t with | .raw | .i32 | .u32 => true | _ => false
def isNum (t : Tag) : Bool := isInt t || isFlt t || isF8 t
def isIntFlt (t : Tag) : Bool := isInt t || isFlt t
def isIntFltRaw (t : Tag) : Bool := isInt t || isFlt t || decide (t = .raw)
def isSintFlt (t : Tag) : Bool := isSint t || isFlt t
def isBitsInt (t : Tag) : Bool := isBits t || isInt t
def isFltF8 (t : Tag) : Bool := isFlt t || isF8 t
def isAny (_ : Tag) : Bool := true
def isA64 (t : Tag) : Bool := decide (t = .a64)
def isA64Raw (t : Tag) : Bool := decide (t = .a64) || decide (t = .raw)
def isI32 (t : Tag) : Bool := decide (t = .i32)
def isU32 (t : Tag) : Bool := decide (t = .u32)
def isF32 (t : Tag) : Bool := decide (t = .f32)
def isIU (t : Tag) : Bool := decide (t = .i32) || decide (t = .u32)
def isU32Raw (t : Tag) : Bool := decide (t = .u32) || decide (t = .raw)
def isBlk (t : Tag) : Bool := decide (t = .blk)
def isScl (t : Tag) : Bool := decide (t = .scl)
def isIdx (t : Tag) : Bool := decide (t = .idx)
def isAsum (t : Tag) : Bool := isFlt t || decide (t = .i32)

/-- Elements of a lane word (R7, R82). -/
def nelem (t : Tag) : Nat :=
  match t with
  | .f16x2 | .bf16x2 | .i16x2 => 2
  | .i8x4 | .u8x4 | .e4m3x4 | .e5m2x4 | .idx => 4
  | _ => 1

/-- Registers of the group a `cvt` reads or writes besides its single one (R110, Table 4-10). -/
def cvtRegs (t : BitVec 4) (src : Tag) : Nat :=
  let es := nelem src
  let et := nelem (Tag.ofCode t.toNat)
  if et = es then 1 else if es < et then et / es else es / et

def cvtNarrows (t : BitVec 4) (src : Tag) : Bool := decide (nelem src < nelem (Tag.ofCode t.toNat))
def cvtWidens (t : BitVec 4) (src : Tag) : Bool := decide (nelem (Tag.ofCode t.toNat) < nelem src)

/-- The registers a `cvt` writes, and reads. -/
def cvtDsts (d : BitVec 6) (t : BitVec 4) (src : Tag) : List Dst :=
  (List.range (if cvtWidens t src then cvtRegs t src else 1)).map fun k => .v (d.toNat + k)
def cvtSrcs (a : BitVec 6) (t : BitVec 4) (src : Tag) : List Src :=
  (List.range (if cvtNarrows t src then cvtRegs t src else 1)).map fun k => ⟨a.toNat + k, if k = 0 then 0 else 3, .active⟩

def vPair (d : BitVec 6) : List Dst := [.v d.toNat, .v (d.toNat + 1)]
def vQuad (d : BitVec 6) : List Dst := (List.range 4).map fun k => .v (d.toNat + k)

/-- A predicate destination; p0 is never one (R40). -/
def pd (p : BitVec 3) : List Dst := if p = 0 then [] else [.p p.toNat]

/-- The address registers of a MEM word (Table 2-9). -/
def addrSrcs (e : BitVec 3) (a : BitVec 6) : List Src :=
  if e = 7#3 then [⟨a.toNat, 0, .active⟩, ⟨a.toNat + 1, 3, .active⟩] else [⟨a.toNat, 0, .active⟩]

/-- The tag-dependent latency of a V-pipe word (Table 2-3, R80). DESIGN CHOICE (log 65): the table names integer, RAW and logic
tags and floating tags; the tags of no such class (E4M3X4, E5M2X4, BLK, IDX, SCL, A64) take the shorter latency. -/
def vLat (t : Tag) : Nat := if isFlt t then 4 else 2

end Sys2Proof.Machine

namespace Sys2Proof

open Sys2Proof.Machine

/-- C, S and G of a word. -/
def Instr.hdr : Instr → Hdr
  | .nop h => ⟨h.chain, h.stall, 0⟩
  | .add h _ _ _ => h
  | .sub h _ _ _ => h
  | .mul h _ _ _ => h
  | .mulh h _ _ _ => h
  | .fma h _ _ _ => h
  | .min h _ _ _ => h
  | .max h _ _ _ => h
  | .unopAbs h _ _ => h
  | .unopNeg h _ _ => h
  | .unopNabs h _ _ => h
  | .unopSat h _ _ => h
  | .unopNot h _ _ => h
  | .addl h _ _ _ => h
  | .movl h _ _ _ => h
  | .movi h _ _ => h
  | .mov h _ _ => h
  | .sel h _ _ _ => h
  | .cmpEq h _ _ _ => h
  | .cmpNe h _ _ _ => h
  | .cmpLt h _ _ _ => h
  | .cmpLe h _ _ _ => h
  | .cmpGt h _ _ _ => h
  | .cmpGe h _ _ _ => h
  | .cmpUnord h _ _ _ => h
  | .cmpOrd h _ _ _ => h
  | .add64 h _ _ _ => h
  | .and h _ _ _ => h
  | .or h _ _ _ => h
  | .xor h _ _ _ => h
  | .andn h _ _ _ => h
  | .shl h _ _ _ => h
  | .shr h _ _ _ => h
  | .sar h _ _ _ => h
  | .rot h _ _ _ => h
  | .shli h _ _ _ => h
  | .shri h _ _ _ => h
  | .sari h _ _ _ => h
  | .bitsClz h _ _ => h
  | .bitsPopc h _ _ => h
  | .bitsBrev h _ _ => h
  | .bitsFfs h _ _ => h
  | .bitsByterev h _ _ => h
  | .bfx h _ _ _ _ => h
  | .bfi h _ _ _ _ => h
  | .dot4 h _ _ _ => h
  | .fnRcp h _ _ _ => h
  | .fnRsq h _ _ _ => h
  | .fnSqrt h _ _ _ => h
  | .fnExp2 h _ _ _ => h
  | .fnLog2 h _ _ _ => h
  | .fnTanh h _ _ _ => h
  | .fnSigm h _ _ _ => h
  | .fdiv h _ _ _ => h
  | .fscale h _ _ _ => h
  | .fcls h _ _ _ => h
  | .cvt h _ _ _ _ => h
  | .tag h _ _ _ => h
  | .qblk h _ _ _ => h
  | .unpb h _ _ _ => h
  | .frnd h _ _ _ => h
  | .shfli h _ _ _ => h
  | .shflx h _ _ _ => h
  | .shflu h _ _ _ => h
  | .shfld h _ _ _ => h
  | .ballot h _ _ => h
  | .voteAny h _ _ => h
  | .voteAll h _ _ => h
  | .voteUni h _ _ => h
  | .matchEq h _ _ => h
  | .redSum h _ _ => h
  | .redEsum h _ _ => h
  | .redMin h _ _ => h
  | .redMax h _ _ => h
  | .redAnd h _ _ => h
  | .redOr h _ _ => h
  | .redXor h _ _ => h
  | .scanSum h _ _ _ => h
  | .scanMin h _ _ _ => h
  | .scanMax h _ _ _ => h
  | .bcast h _ _ _ => h
  | .qopAnd h _ _ _ => ⟨h.chain, h.stall, 0⟩
  | .qopOr h _ _ _ => ⟨h.chain, h.stall, 0⟩
  | .qopXor h _ _ _ => ⟨h.chain, h.stall, 0⟩
  | .qopAndn h _ _ _ => ⟨h.chain, h.stall, 0⟩
  | .qopOrn h _ _ _ => ⟨h.chain, h.stall, 0⟩
  | .qopXnor h _ _ _ => ⟨h.chain, h.stall, 0⟩
  | .qopMov h _ _ => ⟨h.chain, h.stall, 0⟩
  | .qopNot h _ _ => ⟨h.chain, h.stall, 0⟩
  | .qopLsb h _ _ _ => ⟨h.chain, h.stall, 0⟩
  | .qopClrlsb h _ _ _ => ⟨h.chain, h.stall, 0⟩
  | .qi h _ _ => ⟨h.chain, h.stall, 0⟩
  | .qvToVector h _ _ => ⟨h.chain, h.stall, 0⟩
  | .qvToMask h _ _ => ⟨h.chain, h.stall, 0⟩
  | .pqToPredicate h _ _ => h
  | .pqToMask h _ _ => h
  | .compose h _ _ _ => h
  | .bra h _ => h
  | .join h => ⟨h.chain, h.stall, 0⟩
  | .brx h _ => h
  | .call h _ _ => h
  | .callx h _ _ => h
  | .ret h => ⟨h.chain, h.stall, 0⟩
  | .callv h _ _ _ _ _ _ => h
  | .vqual h _ => ⟨h.chain, h.stall, 0⟩
  | .regang h => ⟨h.chain, h.stall, 0⟩
  | .exit h => h
  | .trap h _ => h
  | .rft h => ⟨h.chain, h.stall, 0⟩
  | .region h _ => ⟨h.chain, h.stall, 0⟩
  | .hint h _ _ _ => ⟨h.chain, h.stall, 0⟩
  | .rolesw h _ => ⟨h.chain, h.stall, 0⟩
  | .stage h => ⟨h.chain, h.stall, 0⟩
  | .sleep h _ => ⟨h.chain, h.stall, 0⟩
  | .sleepC h _ _ => ⟨h.chain, h.stall, 0⟩
  | .wait h _ _ => ⟨h.chain, h.stall, 0⟩
  | .waitCnt h _ => ⟨h.chain, h.stall, 0⟩
  | .macroOp h _ _ _ _ _ => ⟨h.chain, h.stall, 0⟩
  | .csrr h _ _ => h
  | .csrw h _ _ => ⟨h.chain, h.stall, 0⟩
  | .stepend h => ⟨h.chain, h.stall, 0⟩
  | .qpush h _ _ _ => h
  | .qpop h _ _ _ => h
  | .segwBase h _ _ => ⟨h.chain, h.stall, 0⟩
  | .segwLimit h _ _ => ⟨h.chain, h.stall, 0⟩
  | .segrBase h _ _ => h
  | .segrLimit h _ _ => h
  | .tlbi h _ => ⟨h.chain, h.stall, 0⟩
  | .tlbiAsid h _ => ⟨h.chain, h.stall, 0⟩
  | .tlbiAll h => ⟨h.chain, h.stall, 0⟩
  | .mcsld h _ _ => ⟨h.chain, h.stall, 0⟩
  | .dbrk h _ => ⟨h.chain, h.stall, 0⟩
  | .pause h _ => ⟨h.chain, h.stall, 0⟩
  | .ldb h _ _ _ _ => h
  | .ldh h _ _ _ _ => h
  | .ldw h _ _ _ _ => h
  | .ldd h _ _ _ _ => h
  | .ldc h _ _ _ => h
  | .ldt h _ _ _ _ => h
  | .stb h _ _ _ => h
  | .sth h _ _ _ => h
  | .stw h _ _ _ => h
  | .std h _ _ _ => h
  | .atomAdd h _ _ _ => h
  | .atomMin h _ _ _ => h
  | .atomMax h _ _ _ => h
  | .atomAnd h _ _ _ => h
  | .atomOr h _ _ _ => h
  | .atomXor h _ _ _ => h
  | .atomExch h _ _ _ => h
  | .atomAddwrap h _ _ _ => h
  | .cas h _ _ _ => h
  | .asum h _ _ _ => h
  | .srd h _ _ _ => h
  | .fenceAcq h => ⟨h.chain, h.stall, 0⟩
  | .fenceRel h => ⟨h.chain, h.stall, 0⟩
  | .fenceAcqrel h => ⟨h.chain, h.stall, 0⟩
  | .fencePath h _ => ⟨h.chain, h.stall, 0⟩
  | .fenceEng h => ⟨h.chain, h.stall, 0⟩
  | .kick h _ _ _ => ⟨h.chain, h.stall, 0⟩
  | .binit h _ _ => ⟨h.chain, h.stall, 0⟩
  | .barr h _ _ _ => ⟨h.chain, h.stall, 0⟩
  | .btest h _ _ _ => ⟨h.chain, h.stall, 0⟩
  | .trst h _ => ⟨h.chain, h.stall, 0⟩
  | .legal h _ _ _ => h
  | .dist h _ _ _ => h
  | .topk h _ _ _ => h
  | .rng h _ _ _ _ => h
  | .sload h _ _ => ⟨h.chain, h.stall, 0⟩
  | .nsend h _ _ => ⟨h.chain, h.stall, 0⟩
  | .mfrd h _ _ _ => h
  | .mfwr h _ _ _ => h
  | .mfopAppend h _ _ => h
  | .mfopRollback h _ _ => h
  | .mfopFinish h _ _ => h
  | .mfopFault h _ _ => h
  | .trapEntry _ => ⟨false, 0, 0⟩
  | .breakpointStop _ _ => ⟨false, 0, 0⟩
  | .regangRelease _ => ⟨false, 0, 0⟩
  | .retRendezvous _ _ => ⟨false, 0, 0⟩
  | .sleepWake _ _ => ⟨false, 0, 0⟩
  | .waitRelease _ _ => ⟨false, 0, 0⟩
  | .pauseEnd _ _ => ⟨false, 0, 0⟩
  | .engineQueueRoom _ _ => ⟨false, 0, 0⟩
  | .fenceEngJoin _ _ => ⟨false, 0, 0⟩
  | .stageItemTaken _ => ⟨false, 0, 0⟩
  | .poundClose _ => ⟨false, 0, 0⟩
  | .roleSwitchBacking _ => ⟨false, 0, 0⟩
  | .moveRegister _ _ => ⟨false, 0, 0⟩
  | .moveAtomic _ _ => ⟨false, 0, 0⟩
  | .moveReleaseComplete _ _ => ⟨false, 0, 0⟩
  | .moveWriteBack _ _ => ⟨false, 0, 0⟩
  | .moveFill _ _ _ => ⟨false, 0, 0⟩
  | .moveDrop _ _ _ => ⟨false, 0, 0⟩
  | .engineAccess _ _ => ⟨false, 0, 0⟩
  | .landing _ _ => ⟨false, 0, 0⟩
  | .followOnFire _ => ⟨false, 0, 0⟩
  | .matrixOpen _ => ⟨false, 0, 0⟩
  | .matrixAccumulate _ => ⟨false, 0, 0⟩
  | .matrixClose _ => ⟨false, 0, 0⟩
  | .trestleThread _ => ⟨false, 0, 0⟩
  | .nvmeCompletion _ _ _ _ => ⟨false, 0, 0⟩
  | .quayTimeout _ => ⟨false, 0, 0⟩
  | .messageAcknowledged _ => ⟨false, 0, 0⟩
  | .messageUndeliverable _ => ⟨false, 0, 0⟩
  | .messageArrival _ _ _ _ => ⟨false, 0, 0⟩
  | .barrierDeadlock _ _ => ⟨false, 0, 0⟩
  | .towSpill _ _ => ⟨false, 0, 0⟩
  | .towRefill _ _ => ⟨false, 0, 0⟩
  | .compaction _ _ => ⟨false, 0, 0⟩
  | .launchDequeue => ⟨false, 0, 0⟩
  | .gangPlacement _ => ⟨false, 0, 0⟩
  | .gangStart _ => ⟨false, 0, 0⟩
  | .launchEnd _ => ⟨false, 0, 0⟩
  | .sluiceDoorbell _ _ => ⟨false, 0, 0⟩
  | .sluiceLaunch _ => ⟨false, 0, 0⟩
  | .sluiceWait _ => ⟨false, 0, 0⟩
  | .sluiceSignal _ => ⟨false, 0, 0⟩
  | .sluiceArm _ => ⟨false, 0, 0⟩
  | .sluiceDisarm _ => ⟨false, 0, 0⟩
  | .semaphoreRetest _ => ⟨false, 0, 0⟩
  | .sluiceErrorClear _ => ⟨false, 0, 0⟩
  | .rotationInterrupt => ⟨false, 0, 0⟩
  | .lockEnable _ _ => ⟨false, 0, 0⟩
  | .lockDisable _ => ⟨false, 0, 0⟩
  | .subtailWrite _ _ => ⟨false, 0, 0⟩
  | .stepFinished _ => ⟨false, 0, 0⟩
  | .lockRetire _ => ⟨false, 0, 0⟩
  | .lockReserve _ => ⟨false, 0, 0⟩
  | .lockAdmit _ => ⟨false, 0, 0⟩
  | .lockPublish _ => ⟨false, 0, 0⟩
  | .lockPush _ => ⟨false, 0, 0⟩
  | .invalidatePage _ _ => ⟨false, 0, 0⟩
  | .invalidateAsid _ => ⟨false, 0, 0⟩
  | .invalidateAll => ⟨false, 0, 0⟩
  | .invalidationComplete => ⟨false, 0, 0⟩
  | .replayParkId _ _ _ => ⟨false, 0, 0⟩
  | .replayAsid _ _ _ => ⟨false, 0, 0⟩
  | .replayDie _ _ => ⟨false, 0, 0⟩
  | .overflowClear _ => ⟨false, 0, 0⟩
  | .peerRequest _ _ _ _ _ => ⟨false, 0, 0⟩
  | .hostAccess _ _ _ _ => ⟨false, 0, 0⟩
  | .preempt _ => ⟨false, 0, 0⟩
  | .preemptDeadline => ⟨false, 0, 0⟩
  | .saveComplete => ⟨false, 0, 0⟩
  | .contextRestore _ => ⟨false, 0, 0⟩
  | .controlStoreReplace _ => ⟨false, 0, 0⟩
  | .watchdogExpiry _ => ⟨false, 0, 0⟩
  | .powerRecompute _ _ => ⟨false, 0, 0⟩
  | .powercapWrite _ => ⟨false, 0, 0⟩
  | .pcSample _ => ⟨false, 0, 0⟩
  | .triggerLine _ => ⟨false, 0, 0⟩
  | .hostStopRequest _ => ⟨false, 0, 0⟩
  | .hostResume _ => ⟨false, 0, 0⟩
  | .scrub _ _ _ _ _ => ⟨false, 0, 0⟩
  | .retirementRequest _ => ⟨false, 0, 0⟩
  | .securityVersionRaise _ => ⟨false, 0, 0⟩
  | .moduleReset _ _ => ⟨false, 0, 0⟩
  | .getVersion => ⟨false, 0, 0⟩
  | .getCapabilities => ⟨false, 0, 0⟩
  | .negotiateAlgorithms _ _ => ⟨false, 0, 0⟩
  | .getCertificate _ _ _ => ⟨false, 0, 0⟩
  | .challenge _ => ⟨false, 0, 0⟩
  | .getMeasurements _ => ⟨false, 0, 0⟩
  | .linkTraining _ _ => ⟨false, 0, 0⟩
  | .portLinkChange _ _ _ => ⟨false, 0, 0⟩
  | .registerWrite _ _ _ => ⟨false, 0, 0⟩
  | .sluiceMap _ _ => ⟨false, 0, 0⟩

/-- The pipe of a word (Table 2-6). -/
def Instr.pipe : Instr → Pipe
  | .nop _ => .none
  | .add _ _ _ _ => .v
  | .sub _ _ _ _ => .v
  | .mul _ _ _ _ => .v
  | .mulh _ _ _ _ => .v
  | .fma _ _ _ _ => .v
  | .min _ _ _ _ => .v
  | .max _ _ _ _ => .v
  | .unopAbs _ _ _ => .v
  | .unopNeg _ _ _ => .v
  | .unopNabs _ _ _ => .v
  | .unopSat _ _ _ => .v
  | .unopNot _ _ _ => .v
  | .addl _ _ _ _ => .v
  | .movl _ _ _ _ => .v
  | .movi _ _ _ => .v
  | .mov _ _ _ => .v
  | .sel _ _ _ _ => .v
  | .cmpEq _ _ _ _ => .v
  | .cmpNe _ _ _ _ => .v
  | .cmpLt _ _ _ _ => .v
  | .cmpLe _ _ _ _ => .v
  | .cmpGt _ _ _ _ => .v
  | .cmpGe _ _ _ _ => .v
  | .cmpUnord _ _ _ _ => .v
  | .cmpOrd _ _ _ _ => .v
  | .add64 _ _ _ _ => .v
  | .and _ _ _ _ => .v
  | .or _ _ _ _ => .v
  | .xor _ _ _ _ => .v
  | .andn _ _ _ _ => .v
  | .shl _ _ _ _ => .v
  | .shr _ _ _ _ => .v
  | .sar _ _ _ _ => .v
  | .rot _ _ _ _ => .v
  | .shli _ _ _ _ => .v
  | .shri _ _ _ _ => .v
  | .sari _ _ _ _ => .v
  | .bitsClz _ _ _ => .v
  | .bitsPopc _ _ _ => .v
  | .bitsBrev _ _ _ => .v
  | .bitsFfs _ _ _ => .v
  | .bitsByterev _ _ _ => .v
  | .bfx _ _ _ _ _ => .v
  | .bfi _ _ _ _ _ => .v
  | .dot4 _ _ _ _ => .v
  | .fnRcp _ _ _ _ => .x
  | .fnRsq _ _ _ _ => .x
  | .fnSqrt _ _ _ _ => .x
  | .fnExp2 _ _ _ _ => .x
  | .fnLog2 _ _ _ _ => .x
  | .fnTanh _ _ _ _ => .x
  | .fnSigm _ _ _ _ => .x
  | .fdiv _ _ _ _ => .x
  | .fscale _ _ _ _ => .x
  | .fcls _ _ _ _ => .x
  | .cvt _ _ _ _ _ => .x
  | .tag _ _ _ _ => .x
  | .qblk _ _ _ _ => .x
  | .unpb _ _ _ _ => .x
  | .frnd _ _ _ _ => .x
  | .shfli _ _ _ _ => .v
  | .shflx _ _ _ _ => .v
  | .shflu _ _ _ _ => .v
  | .shfld _ _ _ _ => .v
  | .ballot _ _ _ => .k
  | .voteAny _ _ _ => .k
  | .voteAll _ _ _ => .k
  | .voteUni _ _ _ => .k
  | .matchEq _ _ _ => .v
  | .redSum _ _ _ => .v
  | .redEsum _ _ _ => .v
  | .redMin _ _ _ => .v
  | .redMax _ _ _ => .v
  | .redAnd _ _ _ => .v
  | .redOr _ _ _ => .v
  | .redXor _ _ _ => .v
  | .scanSum _ _ _ _ => .v
  | .scanMin _ _ _ _ => .v
  | .scanMax _ _ _ _ => .v
  | .bcast _ _ _ _ => .v
  | .qopAnd _ _ _ _ => .k
  | .qopOr _ _ _ _ => .k
  | .qopXor _ _ _ _ => .k
  | .qopAndn _ _ _ _ => .k
  | .qopOrn _ _ _ _ => .k
  | .qopXnor _ _ _ _ => .k
  | .qopMov _ _ _ => .k
  | .qopNot _ _ _ => .k
  | .qopLsb _ _ _ _ => .k
  | .qopClrlsb _ _ _ _ => .k
  | .qi _ _ _ => .k
  | .qvToVector _ _ _ => .k
  | .qvToMask _ _ _ => .k
  | .pqToPredicate _ _ _ => .k
  | .pqToMask _ _ _ => .k
  | .compose _ _ _ _ => .v
  | .bra _ _ => .k
  | .join _ => .k
  | .brx _ _ => .k
  | .call _ _ _ => .k
  | .callx _ _ _ => .k
  | .ret _ => .k
  | .callv _ _ _ _ _ _ _ => .k
  | .vqual _ _ => .k
  | .regang _ => .k
  | .exit _ => .k
  | .trap _ _ => .k
  | .rft _ => .k
  | .region _ _ => .k
  | .hint _ _ _ _ => .k
  | .rolesw _ _ => .k
  | .stage _ => .k
  | .sleep _ _ => .k
  | .sleepC _ _ _ => .k
  | .wait _ _ _ => .k
  | .waitCnt _ _ => .k
  | .macroOp _ _ _ _ _ _ => .k
  | .csrr _ _ _ => .k
  | .csrw _ _ _ => .k
  | .stepend _ => .k
  | .qpush _ _ _ _ => .k
  | .qpop _ _ _ _ => .k
  | .segwBase _ _ _ => .k
  | .segwLimit _ _ _ => .k
  | .segrBase _ _ _ => .k
  | .segrLimit _ _ _ => .k
  | .tlbi _ _ => .k
  | .tlbiAsid _ _ => .k
  | .tlbiAll _ => .k
  | .mcsld _ _ _ => .k
  | .dbrk _ _ => .k
  | .pause _ _ => .k
  | .ldb _ _ _ _ _ => .m
  | .ldh _ _ _ _ _ => .m
  | .ldw _ _ _ _ _ => .m
  | .ldd _ _ _ _ _ => .m
  | .ldc _ _ _ _ => .m
  | .ldt _ _ _ _ _ => .m
  | .stb _ _ _ _ => .m
  | .sth _ _ _ _ => .m
  | .stw _ _ _ _ => .m
  | .std _ _ _ _ => .m
  | .atomAdd _ _ _ _ => .m
  | .atomMin _ _ _ _ => .m
  | .atomMax _ _ _ _ => .m
  | .atomAnd _ _ _ _ => .m
  | .atomOr _ _ _ _ => .m
  | .atomXor _ _ _ _ => .m
  | .atomExch _ _ _ _ => .m
  | .atomAddwrap _ _ _ _ => .m
  | .cas _ _ _ _ => .m
  | .asum _ _ _ _ => .m
  | .srd _ _ _ _ => .m
  | .fenceAcq _ => .m
  | .fenceRel _ => .m
  | .fenceAcqrel _ => .m
  | .fencePath _ _ => .m
  | .fenceEng _ => .m
  | .kick _ _ _ _ => .e
  | .binit _ _ _ => .e
  | .barr _ _ _ _ => .e
  | .btest _ _ _ _ => .e
  | .trst _ _ => .e
  | .legal _ _ _ _ => .e
  | .dist _ _ _ _ => .e
  | .topk _ _ _ _ => .e
  | .rng _ _ _ _ _ => .e
  | .sload _ _ _ => .e
  | .nsend _ _ _ => .e
  | .mfrd _ _ _ _ => .e
  | .mfwr _ _ _ _ => .e
  | .mfopAppend _ _ _ => .e
  | .mfopRollback _ _ _ => .e
  | .mfopFinish _ _ _ => .e
  | .mfopFault _ _ _ => .e
  | .trapEntry _ => .none
  | .breakpointStop _ _ => .none
  | .regangRelease _ => .none
  | .retRendezvous _ _ => .none
  | .sleepWake _ _ => .none
  | .waitRelease _ _ => .none
  | .pauseEnd _ _ => .none
  | .engineQueueRoom _ _ => .none
  | .fenceEngJoin _ _ => .none
  | .stageItemTaken _ => .none
  | .poundClose _ => .none
  | .roleSwitchBacking _ => .none
  | .moveRegister _ _ => .none
  | .moveAtomic _ _ => .none
  | .moveReleaseComplete _ _ => .none
  | .moveWriteBack _ _ => .none
  | .moveFill _ _ _ => .none
  | .moveDrop _ _ _ => .none
  | .engineAccess _ _ => .none
  | .landing _ _ => .none
  | .followOnFire _ => .none
  | .matrixOpen _ => .none
  | .matrixAccumulate _ => .none
  | .matrixClose _ => .none
  | .trestleThread _ => .none
  | .nvmeCompletion _ _ _ _ => .none
  | .quayTimeout _ => .none
  | .messageAcknowledged _ => .none
  | .messageUndeliverable _ => .none
  | .messageArrival _ _ _ _ => .none
  | .barrierDeadlock _ _ => .none
  | .towSpill _ _ => .none
  | .towRefill _ _ => .none
  | .compaction _ _ => .none
  | .launchDequeue => .none
  | .gangPlacement _ => .none
  | .gangStart _ => .none
  | .launchEnd _ => .none
  | .sluiceDoorbell _ _ => .none
  | .sluiceLaunch _ => .none
  | .sluiceWait _ => .none
  | .sluiceSignal _ => .none
  | .sluiceArm _ => .none
  | .sluiceDisarm _ => .none
  | .semaphoreRetest _ => .none
  | .sluiceErrorClear _ => .none
  | .rotationInterrupt => .none
  | .lockEnable _ _ => .none
  | .lockDisable _ => .none
  | .subtailWrite _ _ => .none
  | .stepFinished _ => .none
  | .lockRetire _ => .none
  | .lockReserve _ => .none
  | .lockAdmit _ => .none
  | .lockPublish _ => .none
  | .lockPush _ => .none
  | .invalidatePage _ _ => .none
  | .invalidateAsid _ => .none
  | .invalidateAll => .none
  | .invalidationComplete => .none
  | .replayParkId _ _ _ => .none
  | .replayAsid _ _ _ => .none
  | .replayDie _ _ => .none
  | .overflowClear _ => .none
  | .peerRequest _ _ _ _ _ => .none
  | .hostAccess _ _ _ _ => .none
  | .preempt _ => .none
  | .preemptDeadline => .none
  | .saveComplete => .none
  | .contextRestore _ => .none
  | .controlStoreReplace _ => .none
  | .watchdogExpiry _ => .none
  | .powerRecompute _ _ => .none
  | .powercapWrite _ => .none
  | .pcSample _ => .none
  | .triggerLine _ => .none
  | .hostStopRequest _ => .none
  | .hostResume _ => .none
  | .scrub _ _ _ _ _ => .none
  | .retirementRequest _ => .none
  | .securityVersionRaise _ => .none
  | .moduleReset _ _ => .none
  | .getVersion => .none
  | .getCapabilities => .none
  | .negotiateAlgorithms _ _ => .none
  | .getCertificate _ _ _ => .none
  | .challenge _ => .none
  | .getMeasurements _ => .none
  | .linkTraining _ _ => .none
  | .portLinkChange _ _ _ => .none
  | .registerWrite _ _ _ => .none
  | .sluiceMap _ _ => .none

/-- Whether a word is privileged (column P of Table 2-6). -/
def Instr.priv : Instr → Bool
  | .nop _ => false
  | .add _ _ _ _ => false
  | .sub _ _ _ _ => false
  | .mul _ _ _ _ => false
  | .mulh _ _ _ _ => false
  | .fma _ _ _ _ => false
  | .min _ _ _ _ => false
  | .max _ _ _ _ => false
  | .unopAbs _ _ _ => false
  | .unopNeg _ _ _ => false
  | .unopNabs _ _ _ => false
  | .unopSat _ _ _ => false
  | .unopNot _ _ _ => false
  | .addl _ _ _ _ => false
  | .movl _ _ _ _ => false
  | .movi _ _ _ => false
  | .mov _ _ _ => false
  | .sel _ _ _ _ => false
  | .cmpEq _ _ _ _ => false
  | .cmpNe _ _ _ _ => false
  | .cmpLt _ _ _ _ => false
  | .cmpLe _ _ _ _ => false
  | .cmpGt _ _ _ _ => false
  | .cmpGe _ _ _ _ => false
  | .cmpUnord _ _ _ _ => false
  | .cmpOrd _ _ _ _ => false
  | .add64 _ _ _ _ => false
  | .and _ _ _ _ => false
  | .or _ _ _ _ => false
  | .xor _ _ _ _ => false
  | .andn _ _ _ _ => false
  | .shl _ _ _ _ => false
  | .shr _ _ _ _ => false
  | .sar _ _ _ _ => false
  | .rot _ _ _ _ => false
  | .shli _ _ _ _ => false
  | .shri _ _ _ _ => false
  | .sari _ _ _ _ => false
  | .bitsClz _ _ _ => false
  | .bitsPopc _ _ _ => false
  | .bitsBrev _ _ _ => false
  | .bitsFfs _ _ _ => false
  | .bitsByterev _ _ _ => false
  | .bfx _ _ _ _ _ => false
  | .bfi _ _ _ _ _ => false
  | .dot4 _ _ _ _ => false
  | .fnRcp _ _ _ _ => false
  | .fnRsq _ _ _ _ => false
  | .fnSqrt _ _ _ _ => false
  | .fnExp2 _ _ _ _ => false
  | .fnLog2 _ _ _ _ => false
  | .fnTanh _ _ _ _ => false
  | .fnSigm _ _ _ _ => false
  | .fdiv _ _ _ _ => false
  | .fscale _ _ _ _ => false
  | .fcls _ _ _ _ => false
  | .cvt _ _ _ _ _ => false
  | .tag _ _ _ _ => false
  | .qblk _ _ _ _ => false
  | .unpb _ _ _ _ => false
  | .frnd _ _ _ _ => false
  | .shfli _ _ _ _ => false
  | .shflx _ _ _ _ => false
  | .shflu _ _ _ _ => false
  | .shfld _ _ _ _ => false
  | .ballot _ _ _ => false
  | .voteAny _ _ _ => false
  | .voteAll _ _ _ => false
  | .voteUni _ _ _ => false
  | .matchEq _ _ _ => false
  | .redSum _ _ _ => false
  | .redEsum _ _ _ => false
  | .redMin _ _ _ => false
  | .redMax _ _ _ => false
  | .redAnd _ _ _ => false
  | .redOr _ _ _ => false
  | .redXor _ _ _ => false
  | .scanSum _ _ _ _ => false
  | .scanMin _ _ _ _ => false
  | .scanMax _ _ _ _ => false
  | .bcast _ _ _ _ => false
  | .qopAnd _ _ _ _ => false
  | .qopOr _ _ _ _ => false
  | .qopXor _ _ _ _ => false
  | .qopAndn _ _ _ _ => false
  | .qopOrn _ _ _ _ => false
  | .qopXnor _ _ _ _ => false
  | .qopMov _ _ _ => false
  | .qopNot _ _ _ => false
  | .qopLsb _ _ _ _ => false
  | .qopClrlsb _ _ _ _ => false
  | .qi _ _ _ => false
  | .qvToVector _ _ _ => false
  | .qvToMask _ _ _ => false
  | .pqToPredicate _ _ _ => false
  | .pqToMask _ _ _ => false
  | .compose _ _ _ _ => false
  | .bra _ _ => false
  | .join _ => false
  | .brx _ _ => false
  | .call _ _ _ => false
  | .callx _ _ _ => false
  | .ret _ => false
  | .callv _ _ _ _ _ _ _ => false
  | .vqual _ _ => false
  | .regang _ => false
  | .exit _ => false
  | .trap _ _ => false
  | .rft _ => true
  | .region _ _ => false
  | .hint _ _ _ _ => false
  | .rolesw _ _ => false
  | .stage _ => false
  | .sleep _ _ => false
  | .sleepC _ _ _ => false
  | .wait _ _ _ => false
  | .waitCnt _ _ => false
  | .macroOp _ _ _ _ _ _ => false
  | .csrr _ _ _ => false
  | .csrw _ _ _ => false
  | .stepend _ => false
  | .qpush _ _ _ _ => false
  | .qpop _ _ _ _ => false
  | .segwBase _ _ _ => true
  | .segwLimit _ _ _ => true
  | .segrBase _ _ _ => false
  | .segrLimit _ _ _ => false
  | .tlbi _ _ => true
  | .tlbiAsid _ _ => true
  | .tlbiAll _ => true
  | .mcsld _ _ _ => true
  | .dbrk _ _ => false
  | .pause _ _ => false
  | .ldb _ _ _ _ _ => false
  | .ldh _ _ _ _ _ => false
  | .ldw _ _ _ _ _ => false
  | .ldd _ _ _ _ _ => false
  | .ldc _ _ _ _ => false
  | .ldt _ _ _ _ _ => false
  | .stb _ _ _ _ => false
  | .sth _ _ _ _ => false
  | .stw _ _ _ _ => false
  | .std _ _ _ _ => false
  | .atomAdd _ _ _ _ => false
  | .atomMin _ _ _ _ => false
  | .atomMax _ _ _ _ => false
  | .atomAnd _ _ _ _ => false
  | .atomOr _ _ _ _ => false
  | .atomXor _ _ _ _ => false
  | .atomExch _ _ _ _ => false
  | .atomAddwrap _ _ _ _ => false
  | .cas _ _ _ _ => false
  | .asum _ _ _ _ => false
  | .srd _ _ _ _ => false
  | .fenceAcq _ => false
  | .fenceRel _ => false
  | .fenceAcqrel _ => false
  | .fencePath _ _ => false
  | .fenceEng _ => false
  | .kick _ _ _ _ => false
  | .binit _ _ _ => false
  | .barr _ _ _ _ => false
  | .btest _ _ _ _ => false
  | .trst _ _ => false
  | .legal _ _ _ _ => false
  | .dist _ _ _ _ => false
  | .topk _ _ _ _ => false
  | .rng _ _ _ _ _ => false
  | .sload _ _ _ => false
  | .nsend _ _ _ => false
  | .mfrd _ _ _ _ => false
  | .mfwr _ _ _ _ => false
  | .mfopAppend _ _ _ => false
  | .mfopRollback _ _ _ => false
  | .mfopFinish _ _ _ => false
  | .mfopFault _ _ _ => false
  | .trapEntry _ => false
  | .breakpointStop _ _ => false
  | .regangRelease _ => false
  | .retRendezvous _ _ => false
  | .sleepWake _ _ => false
  | .waitRelease _ _ => false
  | .pauseEnd _ _ => false
  | .engineQueueRoom _ _ => false
  | .fenceEngJoin _ _ => false
  | .stageItemTaken _ => false
  | .poundClose _ => false
  | .roleSwitchBacking _ => false
  | .moveRegister _ _ => false
  | .moveAtomic _ _ => false
  | .moveReleaseComplete _ _ => false
  | .moveWriteBack _ _ => false
  | .moveFill _ _ _ => false
  | .moveDrop _ _ _ => false
  | .engineAccess _ _ => false
  | .landing _ _ => false
  | .followOnFire _ => false
  | .matrixOpen _ => false
  | .matrixAccumulate _ => false
  | .matrixClose _ => false
  | .trestleThread _ => false
  | .nvmeCompletion _ _ _ _ => false
  | .quayTimeout _ => false
  | .messageAcknowledged _ => false
  | .messageUndeliverable _ => false
  | .messageArrival _ _ _ _ => false
  | .barrierDeadlock _ _ => false
  | .towSpill _ _ => false
  | .towRefill _ _ => false
  | .compaction _ _ => false
  | .launchDequeue => false
  | .gangPlacement _ => false
  | .gangStart _ => false
  | .launchEnd _ => false
  | .sluiceDoorbell _ _ => false
  | .sluiceLaunch _ => false
  | .sluiceWait _ => false
  | .sluiceSignal _ => false
  | .sluiceArm _ => false
  | .sluiceDisarm _ => false
  | .semaphoreRetest _ => false
  | .sluiceErrorClear _ => false
  | .rotationInterrupt => false
  | .lockEnable _ _ => false
  | .lockDisable _ => false
  | .subtailWrite _ _ => false
  | .stepFinished _ => false
  | .lockRetire _ => false
  | .lockReserve _ => false
  | .lockAdmit _ => false
  | .lockPublish _ => false
  | .lockPush _ => false
  | .invalidatePage _ _ => false
  | .invalidateAsid _ => false
  | .invalidateAll => false
  | .invalidationComplete => false
  | .replayParkId _ _ _ => false
  | .replayAsid _ _ _ => false
  | .replayDie _ _ => false
  | .overflowClear _ => false
  | .peerRequest _ _ _ _ _ => false
  | .hostAccess _ _ _ _ => false
  | .preempt _ => false
  | .preemptDeadline => false
  | .saveComplete => false
  | .contextRestore _ => false
  | .controlStoreReplace _ => false
  | .watchdogExpiry _ => false
  | .powerRecompute _ _ => false
  | .powercapWrite _ => false
  | .pcSample _ => false
  | .triggerLine _ => false
  | .hostStopRequest _ => false
  | .hostResume _ => false
  | .scrub _ _ _ _ _ => false
  | .retirementRequest _ => false
  | .securityVersionRaise _ => false
  | .moduleReset _ _ => false
  | .getVersion => false
  | .getCapabilities => false
  | .negotiateAlgorithms _ _ => false
  | .getCertificate _ _ _ => false
  | .challenge _ => false
  | .getMeasurements _ => false
  | .linkTraining _ _ => false
  | .portLinkChange _ _ _ => false
  | .registerWrite _ _ _ => false
  | .sluiceMap _ _ => false

/-- Whether a word sets its slices' next word itself. -/
def Instr.steers : Instr → Bool
  | .nop _ => false
  | .add _ _ _ _ => false
  | .sub _ _ _ _ => false
  | .mul _ _ _ _ => false
  | .mulh _ _ _ _ => false
  | .fma _ _ _ _ => false
  | .min _ _ _ _ => false
  | .max _ _ _ _ => false
  | .unopAbs _ _ _ => false
  | .unopNeg _ _ _ => false
  | .unopNabs _ _ _ => false
  | .unopSat _ _ _ => false
  | .unopNot _ _ _ => false
  | .addl _ _ _ _ => false
  | .movl _ _ _ _ => false
  | .movi _ _ _ => false
  | .mov _ _ _ => false
  | .sel _ _ _ _ => false
  | .cmpEq _ _ _ _ => false
  | .cmpNe _ _ _ _ => false
  | .cmpLt _ _ _ _ => false
  | .cmpLe _ _ _ _ => false
  | .cmpGt _ _ _ _ => false
  | .cmpGe _ _ _ _ => false
  | .cmpUnord _ _ _ _ => false
  | .cmpOrd _ _ _ _ => false
  | .add64 _ _ _ _ => false
  | .and _ _ _ _ => false
  | .or _ _ _ _ => false
  | .xor _ _ _ _ => false
  | .andn _ _ _ _ => false
  | .shl _ _ _ _ => false
  | .shr _ _ _ _ => false
  | .sar _ _ _ _ => false
  | .rot _ _ _ _ => false
  | .shli _ _ _ _ => false
  | .shri _ _ _ _ => false
  | .sari _ _ _ _ => false
  | .bitsClz _ _ _ => false
  | .bitsPopc _ _ _ => false
  | .bitsBrev _ _ _ => false
  | .bitsFfs _ _ _ => false
  | .bitsByterev _ _ _ => false
  | .bfx _ _ _ _ _ => false
  | .bfi _ _ _ _ _ => false
  | .dot4 _ _ _ _ => false
  | .fnRcp _ _ _ _ => false
  | .fnRsq _ _ _ _ => false
  | .fnSqrt _ _ _ _ => false
  | .fnExp2 _ _ _ _ => false
  | .fnLog2 _ _ _ _ => false
  | .fnTanh _ _ _ _ => false
  | .fnSigm _ _ _ _ => false
  | .fdiv _ _ _ _ => false
  | .fscale _ _ _ _ => false
  | .fcls _ _ _ _ => false
  | .cvt _ _ _ _ _ => false
  | .tag _ _ _ _ => false
  | .qblk _ _ _ _ => false
  | .unpb _ _ _ _ => false
  | .frnd _ _ _ _ => false
  | .shfli _ _ _ _ => false
  | .shflx _ _ _ _ => false
  | .shflu _ _ _ _ => false
  | .shfld _ _ _ _ => false
  | .ballot _ _ _ => false
  | .voteAny _ _ _ => false
  | .voteAll _ _ _ => false
  | .voteUni _ _ _ => false
  | .matchEq _ _ _ => false
  | .redSum _ _ _ => false
  | .redEsum _ _ _ => false
  | .redMin _ _ _ => false
  | .redMax _ _ _ => false
  | .redAnd _ _ _ => false
  | .redOr _ _ _ => false
  | .redXor _ _ _ => false
  | .scanSum _ _ _ _ => false
  | .scanMin _ _ _ _ => false
  | .scanMax _ _ _ _ => false
  | .bcast _ _ _ _ => false
  | .qopAnd _ _ _ _ => false
  | .qopOr _ _ _ _ => false
  | .qopXor _ _ _ _ => false
  | .qopAndn _ _ _ _ => false
  | .qopOrn _ _ _ _ => false
  | .qopXnor _ _ _ _ => false
  | .qopMov _ _ _ => false
  | .qopNot _ _ _ => false
  | .qopLsb _ _ _ _ => false
  | .qopClrlsb _ _ _ _ => false
  | .qi _ _ _ => false
  | .qvToVector _ _ _ => false
  | .qvToMask _ _ _ => false
  | .pqToPredicate _ _ _ => false
  | .pqToMask _ _ _ => false
  | .compose _ _ _ _ => false
  | .bra _ _ => true
  | .join _ => true
  | .brx _ _ => true
  | .call _ _ _ => true
  | .callx _ _ _ => true
  | .ret _ => true
  | .callv _ _ _ _ _ _ _ => true
  | .vqual _ _ => false
  | .regang _ => false
  | .exit _ => true
  | .trap _ _ => false
  | .rft _ => true
  | .region _ _ => false
  | .hint _ _ _ _ => false
  | .rolesw _ _ => false
  | .stage _ => false
  | .sleep _ _ => false
  | .sleepC _ _ _ => false
  | .wait _ _ _ => false
  | .waitCnt _ _ => false
  | .macroOp _ _ _ _ _ _ => false
  | .csrr _ _ _ => false
  | .csrw _ _ _ => false
  | .stepend _ => true
  | .qpush _ _ _ _ => false
  | .qpop _ _ _ _ => false
  | .segwBase _ _ _ => false
  | .segwLimit _ _ _ => false
  | .segrBase _ _ _ => false
  | .segrLimit _ _ _ => false
  | .tlbi _ _ => false
  | .tlbiAsid _ _ => false
  | .tlbiAll _ => false
  | .mcsld _ _ _ => false
  | .dbrk _ _ => false
  | .pause _ _ => false
  | .ldb _ _ _ _ _ => false
  | .ldh _ _ _ _ _ => false
  | .ldw _ _ _ _ _ => false
  | .ldd _ _ _ _ _ => false
  | .ldc _ _ _ _ => false
  | .ldt _ _ _ _ _ => false
  | .stb _ _ _ _ => false
  | .sth _ _ _ _ => false
  | .stw _ _ _ _ => false
  | .std _ _ _ _ => false
  | .atomAdd _ _ _ _ => false
  | .atomMin _ _ _ _ => false
  | .atomMax _ _ _ _ => false
  | .atomAnd _ _ _ _ => false
  | .atomOr _ _ _ _ => false
  | .atomXor _ _ _ _ => false
  | .atomExch _ _ _ _ => false
  | .atomAddwrap _ _ _ _ => false
  | .cas _ _ _ _ => false
  | .asum _ _ _ _ => false
  | .srd _ _ _ _ => false
  | .fenceAcq _ => false
  | .fenceRel _ => false
  | .fenceAcqrel _ => false
  | .fencePath _ _ => false
  | .fenceEng _ => false
  | .kick _ _ _ _ => false
  | .binit _ _ _ => false
  | .barr _ _ _ _ => false
  | .btest _ _ _ _ => false
  | .trst _ _ => false
  | .legal _ _ _ _ => false
  | .dist _ _ _ _ => false
  | .topk _ _ _ _ => false
  | .rng _ _ _ _ _ => false
  | .sload _ _ _ => false
  | .nsend _ _ _ => false
  | .mfrd _ _ _ _ => false
  | .mfwr _ _ _ _ => false
  | .mfopAppend _ _ _ => false
  | .mfopRollback _ _ _ => false
  | .mfopFinish _ _ _ => false
  | .mfopFault _ _ _ => false
  | .trapEntry _ => false
  | .breakpointStop _ _ => false
  | .regangRelease _ => false
  | .retRendezvous _ _ => false
  | .sleepWake _ _ => false
  | .waitRelease _ _ => false
  | .pauseEnd _ _ => false
  | .engineQueueRoom _ _ => false
  | .fenceEngJoin _ _ => false
  | .stageItemTaken _ => false
  | .poundClose _ => false
  | .roleSwitchBacking _ => false
  | .moveRegister _ _ => false
  | .moveAtomic _ _ => false
  | .moveReleaseComplete _ _ => false
  | .moveWriteBack _ _ => false
  | .moveFill _ _ _ => false
  | .moveDrop _ _ _ => false
  | .engineAccess _ _ => false
  | .landing _ _ => false
  | .followOnFire _ => false
  | .matrixOpen _ => false
  | .matrixAccumulate _ => false
  | .matrixClose _ => false
  | .trestleThread _ => false
  | .nvmeCompletion _ _ _ _ => false
  | .quayTimeout _ => false
  | .messageAcknowledged _ => false
  | .messageUndeliverable _ => false
  | .messageArrival _ _ _ _ => false
  | .barrierDeadlock _ _ => false
  | .towSpill _ _ => false
  | .towRefill _ _ => false
  | .compaction _ _ => false
  | .launchDequeue => false
  | .gangPlacement _ => false
  | .gangStart _ => false
  | .launchEnd _ => false
  | .sluiceDoorbell _ _ => false
  | .sluiceLaunch _ => false
  | .sluiceWait _ => false
  | .sluiceSignal _ => false
  | .sluiceArm _ => false
  | .sluiceDisarm _ => false
  | .semaphoreRetest _ => false
  | .sluiceErrorClear _ => false
  | .rotationInterrupt => false
  | .lockEnable _ _ => false
  | .lockDisable _ => false
  | .subtailWrite _ _ => false
  | .stepFinished _ => false
  | .lockRetire _ => false
  | .lockReserve _ => false
  | .lockAdmit _ => false
  | .lockPublish _ => false
  | .lockPush _ => false
  | .invalidatePage _ _ => false
  | .invalidateAsid _ => false
  | .invalidateAll => false
  | .invalidationComplete => false
  | .replayParkId _ _ _ => false
  | .replayAsid _ _ _ => false
  | .replayDie _ _ => false
  | .overflowClear _ => false
  | .peerRequest _ _ _ _ _ => false
  | .hostAccess _ _ _ _ => false
  | .preempt _ => false
  | .preemptDeadline => false
  | .saveComplete => false
  | .contextRestore _ => false
  | .controlStoreReplace _ => false
  | .watchdogExpiry _ => false
  | .powerRecompute _ _ => false
  | .powercapWrite _ => false
  | .pcSample _ => false
  | .triggerLine _ => false
  | .hostStopRequest _ => false
  | .hostResume _ => false
  | .scrub _ _ _ _ _ => false
  | .retirementRequest _ => false
  | .securityVersionRaise _ => false
  | .moduleReset _ _ => false
  | .getVersion => false
  | .getCapabilities => false
  | .negotiateAlgorithms _ _ => false
  | .getCertificate _ _ _ => false
  | .challenge _ => false
  | .getMeasurements _ => false
  | .linkTraining _ _ => false
  | .portLinkChange _ _ _ => false
  | .registerWrite _ _ _ => false
  | .sluiceMap _ _ => false

/-- The literals a word owns (Table 2-6). -/
def Instr.lits : Instr → Nat
  | .nop _ => 0
  | .add _ _ _ _ => 0
  | .sub _ _ _ _ => 0
  | .mul _ _ _ _ => 0
  | .mulh _ _ _ _ => 0
  | .fma _ _ _ _ => 0
  | .min _ _ _ _ => 0
  | .max _ _ _ _ => 0
  | .unopAbs _ _ _ => 0
  | .unopNeg _ _ _ => 0
  | .unopNabs _ _ _ => 0
  | .unopSat _ _ _ => 0
  | .unopNot _ _ _ => 0
  | .addl _ _ _ _ => 1
  | .movl _ _ _ _ => 1
  | .movi _ _ _ => 0
  | .mov _ _ _ => 0
  | .sel _ _ _ _ => 0
  | .cmpEq _ _ _ _ => 0
  | .cmpNe _ _ _ _ => 0
  | .cmpLt _ _ _ _ => 0
  | .cmpLe _ _ _ _ => 0
  | .cmpGt _ _ _ _ => 0
  | .cmpGe _ _ _ _ => 0
  | .cmpUnord _ _ _ _ => 0
  | .cmpOrd _ _ _ _ => 0
  | .add64 _ _ _ _ => 0
  | .and _ _ _ _ => 0
  | .or _ _ _ _ => 0
  | .xor _ _ _ _ => 0
  | .andn _ _ _ _ => 0
  | .shl _ _ _ _ => 0
  | .shr _ _ _ _ => 0
  | .sar _ _ _ _ => 0
  | .rot _ _ _ _ => 0
  | .shli _ _ _ _ => 0
  | .shri _ _ _ _ => 0
  | .sari _ _ _ _ => 0
  | .bitsClz _ _ _ => 0
  | .bitsPopc _ _ _ => 0
  | .bitsBrev _ _ _ => 0
  | .bitsFfs _ _ _ => 0
  | .bitsByterev _ _ _ => 0
  | .bfx _ _ _ _ _ => 1
  | .bfi _ _ _ _ _ => 1
  | .dot4 _ _ _ _ => 0
  | .fnRcp _ _ _ _ => 0
  | .fnRsq _ _ _ _ => 0
  | .fnSqrt _ _ _ _ => 0
  | .fnExp2 _ _ _ _ => 0
  | .fnLog2 _ _ _ _ => 0
  | .fnTanh _ _ _ _ => 0
  | .fnSigm _ _ _ _ => 0
  | .fdiv _ _ _ _ => 0
  | .fscale _ _ _ _ => 0
  | .fcls _ _ _ _ => 0
  | .cvt _ _ _ _ _ => 0
  | .tag _ _ _ _ => 0
  | .qblk _ _ _ _ => 0
  | .unpb _ _ _ _ => 0
  | .frnd _ _ _ _ => 0
  | .shfli _ _ _ _ => 0
  | .shflx _ _ _ _ => 0
  | .shflu _ _ _ _ => 0
  | .shfld _ _ _ _ => 0
  | .ballot _ _ _ => 0
  | .voteAny _ _ _ => 0
  | .voteAll _ _ _ => 0
  | .voteUni _ _ _ => 0
  | .matchEq _ _ _ => 0
  | .redSum _ _ _ => 0
  | .redEsum _ _ _ => 0
  | .redMin _ _ _ => 0
  | .redMax _ _ _ => 0
  | .redAnd _ _ _ => 0
  | .redOr _ _ _ => 0
  | .redXor _ _ _ => 0
  | .scanSum _ _ _ _ => 0
  | .scanMin _ _ _ _ => 0
  | .scanMax _ _ _ _ => 0
  | .bcast _ _ _ _ => 0
  | .qopAnd _ _ _ _ => 0
  | .qopOr _ _ _ _ => 0
  | .qopXor _ _ _ _ => 0
  | .qopAndn _ _ _ _ => 0
  | .qopOrn _ _ _ _ => 0
  | .qopXnor _ _ _ _ => 0
  | .qopMov _ _ _ => 0
  | .qopNot _ _ _ => 0
  | .qopLsb _ _ _ _ => 0
  | .qopClrlsb _ _ _ _ => 0
  | .qi _ _ _ => 0
  | .qvToVector _ _ _ => 0
  | .qvToMask _ _ _ => 0
  | .pqToPredicate _ _ _ => 0
  | .pqToMask _ _ _ => 0
  | .compose _ _ _ _ => 0
  | .bra _ _ => 0
  | .join _ => 0
  | .brx _ _ => 0
  | .call _ _ _ => 0
  | .callx _ _ _ => 0
  | .ret _ => 0
  | .callv _ _ _ _ _ _ _ => 1
  | .vqual _ _ => 0
  | .regang _ => 0
  | .exit _ => 0
  | .trap _ _ => 0
  | .rft _ => 0
  | .region _ _ => 0
  | .hint _ _ _ _ => 2
  | .rolesw _ _ => 0
  | .stage _ => 0
  | .sleep _ _ => 0
  | .sleepC _ _ _ => 0
  | .wait _ _ _ => 0
  | .waitCnt _ _ => 0
  | .macroOp _ _ _ _ _ _ => 1
  | .csrr _ _ _ => 0
  | .csrw _ _ _ => 0
  | .stepend _ => 0
  | .qpush _ _ _ _ => 0
  | .qpop _ _ _ _ => 0
  | .segwBase _ _ _ => 0
  | .segwLimit _ _ _ => 0
  | .segrBase _ _ _ => 0
  | .segrLimit _ _ _ => 0
  | .tlbi _ _ => 0
  | .tlbiAsid _ _ => 0
  | .tlbiAll _ => 0
  | .mcsld _ _ _ => 0
  | .dbrk _ _ => 0
  | .pause _ _ => 0
  | .ldb _ _ _ _ _ => 0
  | .ldh _ _ _ _ _ => 0
  | .ldw _ _ _ _ _ => 0
  | .ldd _ _ _ _ _ => 0
  | .ldc _ _ _ _ => 0
  | .ldt _ _ _ _ _ => 0
  | .stb _ _ _ _ => 0
  | .sth _ _ _ _ => 0
  | .stw _ _ _ _ => 0
  | .std _ _ _ _ => 0
  | .atomAdd _ _ _ _ => 0
  | .atomMin _ _ _ _ => 0
  | .atomMax _ _ _ _ => 0
  | .atomAnd _ _ _ _ => 0
  | .atomOr _ _ _ _ => 0
  | .atomXor _ _ _ _ => 0
  | .atomExch _ _ _ _ => 0
  | .atomAddwrap _ _ _ _ => 0
  | .cas _ _ _ _ => 0
  | .asum _ _ _ _ => 0
  | .srd _ _ _ _ => 0
  | .fenceAcq _ => 0
  | .fenceRel _ => 0
  | .fenceAcqrel _ => 0
  | .fencePath _ _ => 0
  | .fenceEng _ => 0
  | .kick _ _ _ _ => 0
  | .binit _ _ _ => 0
  | .barr _ _ _ _ => 0
  | .btest _ _ _ _ => 0
  | .trst _ _ => 0
  | .legal _ _ _ _ => 0
  | .dist _ _ _ _ => 0
  | .topk _ _ _ _ => 0
  | .rng _ _ _ _ _ => 0
  | .sload _ _ _ => 0
  | .nsend _ _ _ => 0
  | .mfrd _ _ _ _ => 0
  | .mfwr _ _ _ _ => 0
  | .mfopAppend _ _ _ => 0
  | .mfopRollback _ _ _ => 0
  | .mfopFinish _ _ _ => 0
  | .mfopFault _ _ _ => 0
  | .trapEntry _ => 0
  | .breakpointStop _ _ => 0
  | .regangRelease _ => 0
  | .retRendezvous _ _ => 0
  | .sleepWake _ _ => 0
  | .waitRelease _ _ => 0
  | .pauseEnd _ _ => 0
  | .engineQueueRoom _ _ => 0
  | .fenceEngJoin _ _ => 0
  | .stageItemTaken _ => 0
  | .poundClose _ => 0
  | .roleSwitchBacking _ => 0
  | .moveRegister _ _ => 0
  | .moveAtomic _ _ => 0
  | .moveReleaseComplete _ _ => 0
  | .moveWriteBack _ _ => 0
  | .moveFill _ _ _ => 0
  | .moveDrop _ _ _ => 0
  | .engineAccess _ _ => 0
  | .landing _ _ => 0
  | .followOnFire _ => 0
  | .matrixOpen _ => 0
  | .matrixAccumulate _ => 0
  | .matrixClose _ => 0
  | .trestleThread _ => 0
  | .nvmeCompletion _ _ _ _ => 0
  | .quayTimeout _ => 0
  | .messageAcknowledged _ => 0
  | .messageUndeliverable _ => 0
  | .messageArrival _ _ _ _ => 0
  | .barrierDeadlock _ _ => 0
  | .towSpill _ _ => 0
  | .towRefill _ _ => 0
  | .compaction _ _ => 0
  | .launchDequeue => 0
  | .gangPlacement _ => 0
  | .gangStart _ => 0
  | .launchEnd _ => 0
  | .sluiceDoorbell _ _ => 0
  | .sluiceLaunch _ => 0
  | .sluiceWait _ => 0
  | .sluiceSignal _ => 0
  | .sluiceArm _ => 0
  | .sluiceDisarm _ => 0
  | .semaphoreRetest _ => 0
  | .sluiceErrorClear _ => 0
  | .rotationInterrupt => 0
  | .lockEnable _ _ => 0
  | .lockDisable _ => 0
  | .subtailWrite _ _ => 0
  | .stepFinished _ => 0
  | .lockRetire _ => 0
  | .lockReserve _ => 0
  | .lockAdmit _ => 0
  | .lockPublish _ => 0
  | .lockPush _ => 0
  | .invalidatePage _ _ => 0
  | .invalidateAsid _ => 0
  | .invalidateAll => 0
  | .invalidationComplete => 0
  | .replayParkId _ _ _ => 0
  | .replayAsid _ _ _ => 0
  | .replayDie _ _ => 0
  | .overflowClear _ => 0
  | .peerRequest _ _ _ _ _ => 0
  | .hostAccess _ _ _ _ => 0
  | .preempt _ => 0
  | .preemptDeadline => 0
  | .saveComplete => 0
  | .contextRestore _ => 0
  | .controlStoreReplace _ => 0
  | .watchdogExpiry _ => 0
  | .powerRecompute _ _ => 0
  | .powercapWrite _ => 0
  | .pcSample _ => 0
  | .triggerLine _ => 0
  | .hostStopRequest _ => 0
  | .hostResume _ => 0
  | .scrub _ _ _ _ _ => 0
  | .retirementRequest _ => 0
  | .securityVersionRaise _ => 0
  | .moduleReset _ _ => 0
  | .getVersion => 0
  | .getCapabilities => 0
  | .negotiateAlgorithms _ _ => 0
  | .getCertificate _ _ _ => 0
  | .challenge _ => 0
  | .getMeasurements _ => 0
  | .linkTraining _ _ => 0
  | .portLinkChange _ _ _ => 0
  | .registerWrite _ _ _ => 0
  | .sluiceMap _ _ => 0

/-- Destinations of R40, by field value; `tg` gives the tags of the issuing slice. -/
def Instr.dsts (tg : Nat → Tag) : Instr → List Dst
  | .nop _ => []
  | .add _ d _ _ => [.v d.toNat]
  | .sub _ d _ _ => [.v d.toNat]
  | .mul _ d _ _ => [.v d.toNat]
  | .mulh _ d _ _ => [.v d.toNat]
  | .fma _ d _ _ => [.v d.toNat]
  | .min _ d _ _ => [.v d.toNat]
  | .max _ d _ _ => [.v d.toNat]
  | .unopAbs _ d _ => [.v d.toNat]
  | .unopNeg _ d _ => [.v d.toNat]
  | .unopNabs _ d _ => [.v d.toNat]
  | .unopSat _ d _ => [.v d.toNat]
  | .unopNot _ d _ => [.v d.toNat]
  | .addl _ d _ _ => [.v d.toNat]
  | .movl _ d _ _ => [.v d.toNat]
  | .movi _ d _ => [.v d.toNat]
  | .mov _ d _ => [.v d.toNat]
  | .sel _ d _ _ => [.v d.toNat]
  | .cmpEq _ p _ _ => pd p
  | .cmpNe _ p _ _ => pd p
  | .cmpLt _ p _ _ => pd p
  | .cmpLe _ p _ _ => pd p
  | .cmpGt _ p _ _ => pd p
  | .cmpGe _ p _ _ => pd p
  | .cmpUnord _ p _ _ => pd p
  | .cmpOrd _ p _ _ => pd p
  | .add64 _ d _ _ => vPair d
  | .and _ d _ _ => [.v d.toNat]
  | .or _ d _ _ => [.v d.toNat]
  | .xor _ d _ _ => [.v d.toNat]
  | .andn _ d _ _ => [.v d.toNat]
  | .shl _ d _ _ => [.v d.toNat]
  | .shr _ d _ _ => [.v d.toNat]
  | .sar _ d _ _ => [.v d.toNat]
  | .rot _ d _ _ => [.v d.toNat]
  | .shli _ d _ _ => [.v d.toNat]
  | .shri _ d _ _ => [.v d.toNat]
  | .sari _ d _ _ => [.v d.toNat]
  | .bitsClz _ d _ => [.v d.toNat]
  | .bitsPopc _ d _ => [.v d.toNat]
  | .bitsBrev _ d _ => [.v d.toNat]
  | .bitsFfs _ d _ => [.v d.toNat]
  | .bitsByterev _ d _ => [.v d.toNat]
  | .bfx _ d _ _ _ => [.v d.toNat]
  | .bfi _ d _ _ _ => [.v d.toNat]
  | .dot4 _ d _ _ => [.v d.toNat]
  | .fnRcp _ d _ _ => [.v d.toNat]
  | .fnRsq _ d _ _ => [.v d.toNat]
  | .fnSqrt _ d _ _ => [.v d.toNat]
  | .fnExp2 _ d _ _ => [.v d.toNat]
  | .fnLog2 _ d _ _ => [.v d.toNat]
  | .fnTanh _ d _ _ => [.v d.toNat]
  | .fnSigm _ d _ _ => [.v d.toNat]
  | .fdiv _ d _ _ => [.v d.toNat]
  | .fscale _ d _ _ => [.v d.toNat]
  | .fcls _ d _ _ => [.v d.toNat]
  | .cvt _ d a _ t => cvtDsts d t (tg a.toNat)
  | .tag _ d _ _ => [.v d.toNat]
  | .qblk _ d _ _ => vPair d
  | .unpb _ d _ _ => [.v d.toNat]
  | .frnd _ d _ _ => [.v d.toNat]
  | .shfli _ d _ _ => [.v d.toNat]
  | .shflx _ d _ _ => [.v d.toNat]
  | .shflu _ d _ _ => [.v d.toNat]
  | .shfld _ d _ _ => [.v d.toNat]
  | .ballot _ d _ => [.q d.toNat]
  | .voteAny _ p _ => pd p
  | .voteAll _ p _ => pd p
  | .voteUni _ p _ => pd p
  | .matchEq _ d _ => [.v d.toNat]
  | .redSum _ d _ => [.v d.toNat]
  | .redEsum _ d _ => vPair d
  | .redMin _ d _ => [.v d.toNat]
  | .redMax _ d _ => [.v d.toNat]
  | .redAnd _ d _ => [.v d.toNat]
  | .redOr _ d _ => [.v d.toNat]
  | .redXor _ d _ => [.v d.toNat]
  | .scanSum _ d _ _ => [.v d.toNat]
  | .scanMin _ d _ _ => [.v d.toNat]
  | .scanMax _ d _ _ => [.v d.toNat]
  | .bcast _ d _ _ => [.v d.toNat]
  | .qopAnd _ d _ _ => [.q d.toNat]
  | .qopOr _ d _ _ => [.q d.toNat]
  | .qopXor _ d _ _ => [.q d.toNat]
  | .qopAndn _ d _ _ => [.q d.toNat]
  | .qopOrn _ d _ _ => [.q d.toNat]
  | .qopXnor _ d _ _ => [.q d.toNat]
  | .qopMov _ d _ => [.q d.toNat]
  | .qopNot _ d _ => [.q d.toNat]
  | .qopLsb _ d _ _ => [.q d.toNat]
  | .qopClrlsb _ d _ _ => [.q d.toNat]
  | .qi _ d _ => [.q d.toNat]
  | .qvToVector _ d _ => [.v d.toNat]
  | .qvToMask _ d _ => [.q d.toNat]
  | .pqToPredicate _ p _ => pd p
  | .pqToMask _ d _ => [.q d.toNat]
  | .compose _ d _ _ => [.v d.toNat]
  | .bra _ _ => []
  | .join _ => []
  | .brx _ _ => []
  | .call _ _ _ => []
  | .callx _ _ _ => []
  | .ret _ => []
  | .callv _ _ _ _ _ _ _ => [.csr 0x023]
  | .vqual _ _ => []
  | .regang _ => []
  | .exit _ => []
  | .trap _ _ => []
  | .rft _ => []
  | .region _ _ => [.csr 0x046]
  | .hint _ _ _ _ => []
  | .rolesw _ _ => []
  | .stage _ => []
  | .sleep _ _ => []
  | .sleepC _ _ _ => []
  | .wait _ _ _ => []
  | .waitCnt _ _ => []
  | .macroOp _ _ _ _ _ _ => []
  | .csrr _ d _ => [.v d.toNat]
  | .csrw _ _ i => [.csr i.toNat]
  | .stepend _ => []
  | .qpush _ _ p _ => pd p
  | .qpop _ d p _ => vQuad d ++ pd p
  | .segwBase _ _ _ => []
  | .segwLimit _ _ _ => []
  | .segrBase _ d _ => vPair d
  | .segrLimit _ d _ => vPair d
  | .tlbi _ _ => []
  | .tlbiAsid _ _ => []
  | .tlbiAll _ => []
  | .mcsld _ _ _ => []
  | .dbrk _ _ => []
  | .pause _ _ => []
  | .ldb _ d _ _ _ => [.v d.toNat]
  | .ldh _ d _ _ _ => [.v d.toNat]
  | .ldw _ d _ _ _ => [.v d.toNat]
  | .ldd _ d _ _ _ => vPair d
  | .ldc _ d _ _ => [.v d.toNat]
  | .ldt _ d _ _ _ => [.v d.toNat]
  | .stb _ _ _ _ => []
  | .sth _ _ _ _ => []
  | .stw _ _ _ _ => []
  | .std _ _ _ _ => []
  | .atomAdd _ d _ _ => [.v d.toNat]
  | .atomMin _ d _ _ => [.v d.toNat]
  | .atomMax _ d _ _ => [.v d.toNat]
  | .atomAnd _ d _ _ => [.v d.toNat]
  | .atomOr _ d _ _ => [.v d.toNat]
  | .atomXor _ d _ _ => [.v d.toNat]
  | .atomExch _ d _ _ => [.v d.toNat]
  | .atomAddwrap _ d _ _ => [.v d.toNat]
  | .cas _ d _ _ => [.v d.toNat]
  | .asum _ _ _ _ => []
  | .srd _ d _ _ => [.v d.toNat]
  | .fenceAcq _ => []
  | .fenceRel _ => []
  | .fenceAcqrel _ => []
  | .fencePath _ _ => []
  | .fenceEng _ => []
  | .kick _ d _ _ => vPair d
  | .binit _ _ _ => []
  | .barr _ _ _ _ => []
  | .btest _ d _ _ => [.v d.toNat]
  | .trst _ _ => []
  | .legal _ d _ _ => [.v d.toNat]
  | .dist _ d _ _ => [.v d.toNat]
  | .topk _ d _ _ => vPair d
  | .rng _ d _ _ _ => [.v d.toNat]
  | .sload _ _ _ => []
  | .nsend _ _ _ => []
  | .mfrd _ d _ _ => [.v d.toNat]
  | .mfwr _ _ _ _ => []
  | .mfopAppend h d _ => .v d.toNat :: pd h.guard
  | .mfopRollback _ _ _ => []
  | .mfopFinish _ _ _ => []
  | .mfopFault _ _ _ => []
  | .trapEntry _ => []
  | .breakpointStop _ _ => []
  | .regangRelease _ => []
  | .retRendezvous _ _ => []
  | .sleepWake _ _ => []
  | .waitRelease _ _ => []
  | .pauseEnd _ _ => []
  | .engineQueueRoom _ _ => []
  | .fenceEngJoin _ _ => []
  | .stageItemTaken _ => []
  | .poundClose _ => []
  | .roleSwitchBacking _ => []
  | .moveRegister _ _ => []
  | .moveAtomic _ _ => []
  | .moveReleaseComplete _ _ => []
  | .moveWriteBack _ _ => []
  | .moveFill _ _ _ => []
  | .moveDrop _ _ _ => []
  | .engineAccess _ _ => []
  | .landing _ _ => []
  | .followOnFire _ => []
  | .matrixOpen _ => []
  | .matrixAccumulate _ => []
  | .matrixClose _ => []
  | .trestleThread _ => []
  | .nvmeCompletion _ _ _ _ => []
  | .quayTimeout _ => []
  | .messageAcknowledged _ => []
  | .messageUndeliverable _ => []
  | .messageArrival _ _ _ _ => []
  | .barrierDeadlock _ _ => []
  | .towSpill _ _ => []
  | .towRefill _ _ => []
  | .compaction _ _ => []
  | .launchDequeue => []
  | .gangPlacement _ => []
  | .gangStart _ => []
  | .launchEnd _ => []
  | .sluiceDoorbell _ _ => []
  | .sluiceLaunch _ => []
  | .sluiceWait _ => []
  | .sluiceSignal _ => []
  | .sluiceArm _ => []
  | .sluiceDisarm _ => []
  | .semaphoreRetest _ => []
  | .sluiceErrorClear _ => []
  | .rotationInterrupt => []
  | .lockEnable _ _ => []
  | .lockDisable _ => []
  | .subtailWrite _ _ => []
  | .stepFinished _ => []
  | .lockRetire _ => []
  | .lockReserve _ => []
  | .lockAdmit _ => []
  | .lockPublish _ => []
  | .lockPush _ => []
  | .invalidatePage _ _ => []
  | .invalidateAsid _ => []
  | .invalidateAll => []
  | .invalidationComplete => []
  | .replayParkId _ _ _ => []
  | .replayAsid _ _ _ => []
  | .replayDie _ _ => []
  | .overflowClear _ => []
  | .peerRequest _ _ _ _ _ => []
  | .hostAccess _ _ _ _ => []
  | .preempt _ => []
  | .preemptDeadline => []
  | .saveComplete => []
  | .contextRestore _ => []
  | .controlStoreReplace _ => []
  | .watchdogExpiry _ => []
  | .powerRecompute _ _ => []
  | .powercapWrite _ => []
  | .pcSample _ => []
  | .triggerLine _ => []
  | .hostStopRequest _ => []
  | .hostResume _ => []
  | .scrub _ _ _ _ _ => []
  | .retirementRequest _ => []
  | .securityVersionRaise _ => []
  | .moduleReset _ _ => []
  | .getVersion => []
  | .getCapabilities => []
  | .negotiateAlgorithms _ _ => []
  | .getCertificate _ _ _ => []
  | .challenge _ => []
  | .getMeasurements _ => []
  | .linkTraining _ _ => []
  | .portLinkChange _ _ _ => []
  | .registerWrite _ _ _ => []
  | .sluiceMap _ _ => []

/-- Source registers in operand order, for poison and interlocks (R79, R45). -/
def Instr.srcs (tg : Nat → Tag) : Instr → List Src
  | .nop _ => []
  | .add _ _ a b => [⟨a.toNat, 0, .active⟩, ⟨b.toNat, 1, .active⟩]
  | .sub _ _ a b => [⟨a.toNat, 0, .active⟩, ⟨b.toNat, 1, .active⟩]
  | .mul _ _ a b => [⟨a.toNat, 0, .active⟩, ⟨b.toNat, 1, .active⟩]
  | .mulh _ _ a b => [⟨a.toNat, 0, .active⟩, ⟨b.toNat, 1, .active⟩]
  | .fma _ d a b => [⟨a.toNat, 0, .active⟩, ⟨b.toNat, 1, .active⟩, ⟨d.toNat, 2, .active⟩]
  | .min _ _ a b => [⟨a.toNat, 0, .active⟩, ⟨b.toNat, 1, .active⟩]
  | .max _ _ a b => [⟨a.toNat, 0, .active⟩, ⟨b.toNat, 1, .active⟩]
  | .unopAbs _ _ a => [⟨a.toNat, 0, .active⟩]
  | .unopNeg _ _ a => [⟨a.toNat, 0, .active⟩]
  | .unopNabs _ _ a => [⟨a.toNat, 0, .active⟩]
  | .unopSat _ _ a => [⟨a.toNat, 0, .active⟩]
  | .unopNot _ _ a => [⟨a.toNat, 0, .active⟩]
  | .addl _ _ a _ => [⟨a.toNat, 0, .active⟩]
  | .movl _ _ _ _ => []
  | .movi _ _ _ => []
  | .mov _ _ a => [⟨a.toNat, 0, .active⟩]
  | .sel _ _ a b => [⟨a.toNat, 0, .on⟩, ⟨b.toNat, 1, .off⟩]
  | .cmpEq _ _ a b => [⟨a.toNat, 0, .active⟩, ⟨b.toNat, 1, .active⟩]
  | .cmpNe _ _ a b => [⟨a.toNat, 0, .active⟩, ⟨b.toNat, 1, .active⟩]
  | .cmpLt _ _ a b => [⟨a.toNat, 0, .active⟩, ⟨b.toNat, 1, .active⟩]
  | .cmpLe _ _ a b => [⟨a.toNat, 0, .active⟩, ⟨b.toNat, 1, .active⟩]
  | .cmpGt _ _ a b => [⟨a.toNat, 0, .active⟩, ⟨b.toNat, 1, .active⟩]
  | .cmpGe _ _ a b => [⟨a.toNat, 0, .active⟩, ⟨b.toNat, 1, .active⟩]
  | .cmpUnord _ _ a b => [⟨a.toNat, 0, .active⟩, ⟨b.toNat, 1, .active⟩]
  | .cmpOrd _ _ a b => [⟨a.toNat, 0, .active⟩, ⟨b.toNat, 1, .active⟩]
  | .add64 _ _ a b => [⟨a.toNat, 0, .active⟩, ⟨a.toNat + 1, 3, .active⟩, ⟨b.toNat, 1, .active⟩, ⟨b.toNat + 1, 3, .active⟩]
  | .and _ _ a b => [⟨a.toNat, 0, .active⟩, ⟨b.toNat, 1, .active⟩]
  | .or _ _ a b => [⟨a.toNat, 0, .active⟩, ⟨b.toNat, 1, .active⟩]
  | .xor _ _ a b => [⟨a.toNat, 0, .active⟩, ⟨b.toNat, 1, .active⟩]
  | .andn _ _ a b => [⟨a.toNat, 0, .active⟩, ⟨b.toNat, 1, .active⟩]
  | .shl _ _ a b => [⟨a.toNat, 0, .active⟩, ⟨b.toNat, 1, .active⟩]
  | .shr _ _ a b => [⟨a.toNat, 0, .active⟩, ⟨b.toNat, 1, .active⟩]
  | .sar _ _ a b => [⟨a.toNat, 0, .active⟩, ⟨b.toNat, 1, .active⟩]
  | .rot _ _ a b => [⟨a.toNat, 0, .active⟩, ⟨b.toNat, 1, .active⟩]
  | .shli _ _ a _ => [⟨a.toNat, 0, .active⟩]
  | .shri _ _ a _ => [⟨a.toNat, 0, .active⟩]
  | .sari _ _ a _ => [⟨a.toNat, 0, .active⟩]
  | .bitsClz _ _ a => [⟨a.toNat, 0, .active⟩]
  | .bitsPopc _ _ a => [⟨a.toNat, 0, .active⟩]
  | .bitsBrev _ _ a => [⟨a.toNat, 0, .active⟩]
  | .bitsFfs _ _ a => [⟨a.toNat, 0, .active⟩]
  | .bitsByterev _ _ a => [⟨a.toNat, 0, .active⟩]
  | .bfx _ _ a _ _ => [⟨a.toNat, 0, .active⟩]
  | .bfi _ d a _ _ => [⟨a.toNat, 0, .active⟩, ⟨d.toNat, 2, .active⟩]
  | .dot4 _ d a b => [⟨a.toNat, 0, .active⟩, ⟨b.toNat, 1, .active⟩, ⟨d.toNat, 2, .active⟩]
  | .fnRcp _ _ a _ => [⟨a.toNat, 0, .active⟩]
  | .fnRsq _ _ a _ => [⟨a.toNat, 0, .active⟩]
  | .fnSqrt _ _ a _ => [⟨a.toNat, 0, .active⟩]
  | .fnExp2 _ _ a _ => [⟨a.toNat, 0, .active⟩]
  | .fnLog2 _ _ a _ => [⟨a.toNat, 0, .active⟩]
  | .fnTanh _ _ a _ => [⟨a.toNat, 0, .active⟩]
  | .fnSigm _ _ a _ => [⟨a.toNat, 0, .active⟩]
  | .fdiv _ _ a b => [⟨a.toNat, 0, .active⟩, ⟨b.toNat, 1, .active⟩]
  | .fscale _ _ a b => [⟨a.toNat, 0, .active⟩, ⟨b.toNat, 1, .active⟩]
  | .fcls _ _ a _ => [⟨a.toNat, 0, .active⟩]
  | .cvt _ _ a _ t => cvtSrcs a t (tg a.toNat)
  | .tag _ _ a _ => [⟨a.toNat, 0, .active⟩]
  | .qblk _ _ a _ => [⟨a.toNat, 0, .active⟩]
  | .unpb _ _ a _ => [⟨a.toNat, 0, .issuing⟩, ⟨a.toNat + 1, 3, .issuing⟩]
  | .frnd _ _ a _ => [⟨a.toNat, 0, .active⟩]
  | .shfli _ _ a b => [⟨a.toNat, 0, .none⟩, ⟨b.toNat, 1, .active⟩]
  | .shflx _ _ a _ => [⟨a.toNat, 0, .none⟩]
  | .shflu _ _ a _ => [⟨a.toNat, 0, .none⟩]
  | .shfld _ _ a _ => [⟨a.toNat, 0, .none⟩]
  | .ballot _ _ _ => []
  | .voteAny _ _ _ => []
  | .voteAll _ _ _ => []
  | .voteUni _ _ a => [⟨a.toNat, 0, .active⟩]
  | .matchEq _ _ a => [⟨a.toNat, 0, .active⟩]
  | .redSum _ _ a => [⟨a.toNat, 0, .active⟩]
  | .redEsum _ _ a => [⟨a.toNat, 0, .active⟩]
  | .redMin _ _ a => [⟨a.toNat, 0, .active⟩]
  | .redMax _ _ a => [⟨a.toNat, 0, .active⟩]
  | .redAnd _ _ a => [⟨a.toNat, 0, .active⟩]
  | .redOr _ _ a => [⟨a.toNat, 0, .active⟩]
  | .redXor _ _ a => [⟨a.toNat, 0, .active⟩]
  | .scanSum _ _ a _ => [⟨a.toNat, 0, .active⟩]
  | .scanMin _ _ a _ => [⟨a.toNat, 0, .active⟩]
  | .scanMax _ _ a _ => [⟨a.toNat, 0, .active⟩]
  | .bcast _ _ a b => [⟨a.toNat, 0, .none⟩, ⟨b.toNat, 1, .lowest⟩]
  | .qopAnd _ _ _ _ => []
  | .qopOr _ _ _ _ => []
  | .qopXor _ _ _ _ => []
  | .qopAndn _ _ _ _ => []
  | .qopOrn _ _ _ _ => []
  | .qopXnor _ _ _ _ => []
  | .qopMov _ _ _ => []
  | .qopNot _ _ _ => []
  | .qopLsb _ _ _ _ => []
  | .qopClrlsb _ _ _ _ => []
  | .qi _ _ _ => []
  | .qvToVector _ _ _ => []
  | .qvToMask _ _ a => [⟨a.toNat, 0, .lowest⟩]
  | .pqToPredicate _ _ _ => []
  | .pqToMask _ _ _ => []
  | .compose _ _ a b => [⟨a.toNat, 0, .active⟩, ⟨b.toNat, 1, .none⟩]
  | .bra _ _ => []
  | .join _ => []
  | .brx _ a => [⟨a.toNat, 0, .active⟩]
  | .call _ _ _ => []
  | .callx _ _ a => [⟨a.toNat, 0, .active⟩]
  | .ret _ => []
  | .callv _ _ o va vb _ _ => [⟨va.toNat, 0, if o = 6#3 then .lowest else .active⟩, ⟨vb.toNat, 1, if o = 6#3 then .none else .active⟩]
  | .vqual _ a => [⟨a.toNat, 0, .active⟩]
  | .regang _ => []
  | .exit _ => []
  | .trap _ _ => []
  | .rft _ => []
  | .region _ _ => []
  | .hint _ a _ _ => [⟨a.toNat, 0, .lowest⟩]
  | .rolesw _ _ => []
  | .stage _ => []
  | .sleep _ a => [⟨a.toNat, 0, .lowest⟩, ⟨a.toNat + 1, 3, .lowest⟩]
  | .sleepC _ b a => [⟨a.toNat, 0, .lowest⟩, ⟨a.toNat + 1, 3, .lowest⟩, ⟨b.toNat, 2, .lowest⟩]
  | .wait _ p a => [⟨a.toNat, 0, .lowest⟩, ⟨p.toNat, 2, .lowest⟩]
  | .waitCnt _ a => [⟨a.toNat, 0, .lowest⟩]
  | .macroOp _ _ _ _ _ _ => []
  | .csrr _ _ _ => []
  | .csrw _ d _ => [⟨d.toNat, 2, .lowest⟩]
  | .stepend _ => []
  | .qpush _ a _ _ => [⟨a.toNat + 0, 0, .active⟩, ⟨a.toNat + 1, 3, .active⟩, ⟨a.toNat + 2, 3, .active⟩, ⟨a.toNat + 3, 3, .active⟩]
  | .qpop _ _ _ _ => []
  | .segwBase _ a _ => [⟨a.toNat, 0, .lowest⟩, ⟨a.toNat + 1, 3, .lowest⟩]
  | .segwLimit _ a _ => [⟨a.toNat, 0, .lowest⟩, ⟨a.toNat + 1, 3, .lowest⟩]
  | .segrBase _ _ _ => []
  | .segrLimit _ _ _ => []
  | .tlbi _ a => [⟨a.toNat, 0, .lowest⟩, ⟨a.toNat + 1, 3, .lowest⟩]
  | .tlbiAsid _ a => [⟨a.toNat, 0, .lowest⟩]
  | .tlbiAll _ => []
  | .mcsld _ a _ => [⟨a.toNat, 0, .lowest⟩, ⟨a.toNat + 1, 3, .lowest⟩]
  | .dbrk _ _ => []
  | .pause _ _ => []
  | .ldb _ _ a e _ => addrSrcs e a
  | .ldh _ _ a e _ => addrSrcs e a
  | .ldw _ _ a e _ => addrSrcs e a
  | .ldd _ _ a e _ => addrSrcs e a
  | .ldc _ _ a _ => [⟨a.toNat, 0, .active⟩]
  | .ldt _ _ a e _ => addrSrcs e a
  | .stb _ d a e => addrSrcs e a ++ [⟨d.toNat, 2, .active⟩]
  | .sth _ d a e => addrSrcs e a ++ [⟨d.toNat, 2, .active⟩]
  | .stw _ d a e => addrSrcs e a ++ [⟨d.toNat, 2, .active⟩]
  | .std _ d a e => addrSrcs e a ++ [⟨d.toNat, 2, .active⟩, ⟨d.toNat + 1, 3, .active⟩]
  | .atomAdd _ d a e => addrSrcs e a ++ [⟨d.toNat, 2, .active⟩]
  | .atomMin _ d a e => addrSrcs e a ++ [⟨d.toNat, 2, .active⟩]
  | .atomMax _ d a e => addrSrcs e a ++ [⟨d.toNat, 2, .active⟩]
  | .atomAnd _ d a e => addrSrcs e a ++ [⟨d.toNat, 2, .active⟩]
  | .atomOr _ d a e => addrSrcs e a ++ [⟨d.toNat, 2, .active⟩]
  | .atomXor _ d a e => addrSrcs e a ++ [⟨d.toNat, 2, .active⟩]
  | .atomExch _ d a e => addrSrcs e a ++ [⟨d.toNat, 2, .active⟩]
  | .atomAddwrap _ d a e => addrSrcs e a ++ [⟨d.toNat, 2, .active⟩]
  | .cas _ d a e => addrSrcs e a ++ [⟨d.toNat, 2, .active⟩, ⟨d.toNat + 1, 3, .active⟩]
  | .asum _ d a e => addrSrcs e a ++ [⟨d.toNat, 2, .active⟩]
  | .srd _ _ a e => addrSrcs e a
  | .fenceAcq _ => []
  | .fenceRel _ => []
  | .fenceAcqrel _ => []
  | .fencePath _ _ => []
  | .fenceEng _ => []
  | .kick _ _ a b => [⟨a.toNat, 0, .lowest⟩, ⟨b.toNat, 1, .lowest⟩]
  | .binit _ d a => [⟨a.toNat, 0, .lowest⟩, ⟨d.toNat, 2, .lowest⟩]
  | .barr _ d a b => [⟨a.toNat, 0, .lowest⟩, ⟨b.toNat, 1, .lowest⟩, ⟨d.toNat, 2, .lowest⟩]
  | .btest _ _ a _ => [⟨a.toNat, 0, .lowest⟩]
  | .trst _ a => [⟨a.toNat, 0, .lowest⟩]
  | .legal _ _ a b => [⟨a.toNat, 0, .active⟩, ⟨b.toNat, 1, .active⟩]
  | .dist _ _ a b => [⟨a.toNat + 0, 0, .lowest⟩, ⟨a.toNat + 1, 3, .lowest⟩, ⟨a.toNat + 2, 3, .lowest⟩, ⟨a.toNat + 3, 3, .lowest⟩, ⟨b.toNat, 1, .active⟩]
  | .topk _ d a b => [⟨a.toNat, 0, .active⟩, ⟨b.toNat, 1, .active⟩, ⟨d.toNat, 2, .issuing⟩, ⟨d.toNat + 1, 3, .issuing⟩]
  | .rng _ _ a _ _ => [⟨a.toNat, 0, .first⟩]
  | .sload _ a _ => [⟨a.toNat, 0, .lowest⟩]
  | .nsend _ a _ => [⟨a.toNat, 0, .lowest⟩]
  | .mfrd _ _ a _ => [⟨a.toNat, 0, .active⟩]
  | .mfwr _ d a _ => [⟨a.toNat, 0, .active⟩, ⟨d.toNat, 2, .active⟩]
  | .mfopAppend _ _ a => [⟨a.toNat, 0, .active⟩]
  | .mfopRollback _ d a => [⟨a.toNat, 0, .active⟩, ⟨d.toNat, 2, .active⟩]
  | .mfopFinish _ d a => [⟨a.toNat, 0, .active⟩, ⟨d.toNat, 2, .active⟩]
  | .mfopFault _ d a => [⟨a.toNat, 0, .active⟩, ⟨d.toNat, 2, .active⟩]
  | .trapEntry _ => []
  | .breakpointStop _ _ => []
  | .regangRelease _ => []
  | .retRendezvous _ _ => []
  | .sleepWake _ _ => []
  | .waitRelease _ _ => []
  | .pauseEnd _ _ => []
  | .engineQueueRoom _ _ => []
  | .fenceEngJoin _ _ => []
  | .stageItemTaken _ => []
  | .poundClose _ => []
  | .roleSwitchBacking _ => []
  | .moveRegister _ _ => []
  | .moveAtomic _ _ => []
  | .moveReleaseComplete _ _ => []
  | .moveWriteBack _ _ => []
  | .moveFill _ _ _ => []
  | .moveDrop _ _ _ => []
  | .engineAccess _ _ => []
  | .landing _ _ => []
  | .followOnFire _ => []
  | .matrixOpen _ => []
  | .matrixAccumulate _ => []
  | .matrixClose _ => []
  | .trestleThread _ => []
  | .nvmeCompletion _ _ _ _ => []
  | .quayTimeout _ => []
  | .messageAcknowledged _ => []
  | .messageUndeliverable _ => []
  | .messageArrival _ _ _ _ => []
  | .barrierDeadlock _ _ => []
  | .towSpill _ _ => []
  | .towRefill _ _ => []
  | .compaction _ _ => []
  | .launchDequeue => []
  | .gangPlacement _ => []
  | .gangStart _ => []
  | .launchEnd _ => []
  | .sluiceDoorbell _ _ => []
  | .sluiceLaunch _ => []
  | .sluiceWait _ => []
  | .sluiceSignal _ => []
  | .sluiceArm _ => []
  | .sluiceDisarm _ => []
  | .semaphoreRetest _ => []
  | .sluiceErrorClear _ => []
  | .rotationInterrupt => []
  | .lockEnable _ _ => []
  | .lockDisable _ => []
  | .subtailWrite _ _ => []
  | .stepFinished _ => []
  | .lockRetire _ => []
  | .lockReserve _ => []
  | .lockAdmit _ => []
  | .lockPublish _ => []
  | .lockPush _ => []
  | .invalidatePage _ _ => []
  | .invalidateAsid _ => []
  | .invalidateAll => []
  | .invalidationComplete => []
  | .replayParkId _ _ _ => []
  | .replayAsid _ _ _ => []
  | .replayDie _ _ => []
  | .overflowClear _ => []
  | .peerRequest _ _ _ _ _ => []
  | .hostAccess _ _ _ _ => []
  | .preempt _ => []
  | .preemptDeadline => []
  | .saveComplete => []
  | .contextRestore _ => []
  | .controlStoreReplace _ => []
  | .watchdogExpiry _ => []
  | .powerRecompute _ _ => []
  | .powercapWrite _ => []
  | .pcSample _ => []
  | .triggerLine _ => []
  | .hostStopRequest _ => []
  | .hostResume _ => []
  | .scrub _ _ _ _ _ => []
  | .retirementRequest _ => []
  | .securityVersionRaise _ => []
  | .moduleReset _ _ => []
  | .getVersion => []
  | .getCapabilities => []
  | .negotiateAlgorithms _ _ => []
  | .getCertificate _ _ _ => []
  | .challenge _ => []
  | .getMeasurements _ => []
  | .linkTraining _ _ => []
  | .portLinkChange _ _ _ => []
  | .registerWrite _ _ _ => []
  | .sluiceMap _ _ => []

/-- The predicates and mask registers a word reads, its guard among them (R45). -/
def Instr.kreads : Instr → List Dst
  | .nop _ => []
  | .add h _ _ _ => [.p h.guard.toNat]
  | .sub h _ _ _ => [.p h.guard.toNat]
  | .mul h _ _ _ => [.p h.guard.toNat]
  | .mulh h _ _ _ => [.p h.guard.toNat]
  | .fma h _ _ _ => [.p h.guard.toNat]
  | .min h _ _ _ => [.p h.guard.toNat]
  | .max h _ _ _ => [.p h.guard.toNat]
  | .unopAbs h _ _ => [.p h.guard.toNat]
  | .unopNeg h _ _ => [.p h.guard.toNat]
  | .unopNabs h _ _ => [.p h.guard.toNat]
  | .unopSat h _ _ => [.p h.guard.toNat]
  | .unopNot h _ _ => [.p h.guard.toNat]
  | .addl h _ _ _ => [.p h.guard.toNat]
  | .movl h _ _ _ => [.p h.guard.toNat]
  | .movi h _ _ => [.p h.guard.toNat]
  | .mov h _ _ => [.p h.guard.toNat]
  | .sel h _ _ _ => [.p h.guard.toNat]
  | .cmpEq h _ _ _ => [.p h.guard.toNat]
  | .cmpNe h _ _ _ => [.p h.guard.toNat]
  | .cmpLt h _ _ _ => [.p h.guard.toNat]
  | .cmpLe h _ _ _ => [.p h.guard.toNat]
  | .cmpGt h _ _ _ => [.p h.guard.toNat]
  | .cmpGe h _ _ _ => [.p h.guard.toNat]
  | .cmpUnord h _ _ _ => [.p h.guard.toNat]
  | .cmpOrd h _ _ _ => [.p h.guard.toNat]
  | .add64 h _ _ _ => [.p h.guard.toNat]
  | .and h _ _ _ => [.p h.guard.toNat]
  | .or h _ _ _ => [.p h.guard.toNat]
  | .xor h _ _ _ => [.p h.guard.toNat]
  | .andn h _ _ _ => [.p h.guard.toNat]
  | .shl h _ _ _ => [.p h.guard.toNat]
  | .shr h _ _ _ => [.p h.guard.toNat]
  | .sar h _ _ _ => [.p h.guard.toNat]
  | .rot h _ _ _ => [.p h.guard.toNat]
  | .shli h _ _ _ => [.p h.guard.toNat]
  | .shri h _ _ _ => [.p h.guard.toNat]
  | .sari h _ _ _ => [.p h.guard.toNat]
  | .bitsClz h _ _ => [.p h.guard.toNat]
  | .bitsPopc h _ _ => [.p h.guard.toNat]
  | .bitsBrev h _ _ => [.p h.guard.toNat]
  | .bitsFfs h _ _ => [.p h.guard.toNat]
  | .bitsByterev h _ _ => [.p h.guard.toNat]
  | .bfx h _ _ _ _ => [.p h.guard.toNat]
  | .bfi h _ _ _ _ => [.p h.guard.toNat]
  | .dot4 h _ _ _ => [.p h.guard.toNat]
  | .fnRcp h _ _ _ => [.p h.guard.toNat]
  | .fnRsq h _ _ _ => [.p h.guard.toNat]
  | .fnSqrt h _ _ _ => [.p h.guard.toNat]
  | .fnExp2 h _ _ _ => [.p h.guard.toNat]
  | .fnLog2 h _ _ _ => [.p h.guard.toNat]
  | .fnTanh h _ _ _ => [.p h.guard.toNat]
  | .fnSigm h _ _ _ => [.p h.guard.toNat]
  | .fdiv h _ _ _ => [.p h.guard.toNat]
  | .fscale h _ _ _ => [.p h.guard.toNat]
  | .fcls h _ _ _ => [.p h.guard.toNat]
  | .cvt h _ _ _ _ => [.p h.guard.toNat]
  | .tag h _ _ _ => [.p h.guard.toNat]
  | .qblk h _ _ _ => [.p h.guard.toNat]
  | .unpb h _ _ _ => [.p h.guard.toNat]
  | .frnd h _ _ _ => [.p h.guard.toNat]
  | .shfli h _ _ _ => [.p h.guard.toNat]
  | .shflx h _ _ _ => [.p h.guard.toNat]
  | .shflu h _ _ _ => [.p h.guard.toNat]
  | .shfld h _ _ _ => [.p h.guard.toNat]
  | .ballot h _ k => [.p h.guard.toNat, .p k.toNat]
  | .voteAny h _ k => [.p h.guard.toNat, .p k.toNat]
  | .voteAll h _ k => [.p h.guard.toNat, .p k.toNat]
  | .voteUni h _ _ => [.p h.guard.toNat]
  | .matchEq h _ _ => [.p h.guard.toNat]
  | .redSum h _ _ => [.p h.guard.toNat]
  | .redEsum h _ _ => [.p h.guard.toNat]
  | .redMin h _ _ => [.p h.guard.toNat]
  | .redMax h _ _ => [.p h.guard.toNat]
  | .redAnd h _ _ => [.p h.guard.toNat]
  | .redOr h _ _ => [.p h.guard.toNat]
  | .redXor h _ _ => [.p h.guard.toNat]
  | .scanSum h _ _ _ => [.p h.guard.toNat]
  | .scanMin h _ _ _ => [.p h.guard.toNat]
  | .scanMax h _ _ _ => [.p h.guard.toNat]
  | .bcast h _ _ _ => [.p h.guard.toNat]
  | .qopAnd _ _ a b => [.q a.toNat, .q b.toNat]
  | .qopOr _ _ a b => [.q a.toNat, .q b.toNat]
  | .qopXor _ _ a b => [.q a.toNat, .q b.toNat]
  | .qopAndn _ _ a b => [.q a.toNat, .q b.toNat]
  | .qopOrn _ _ a b => [.q a.toNat, .q b.toNat]
  | .qopXnor _ _ a b => [.q a.toNat, .q b.toNat]
  | .qopMov _ _ a => [.q a.toNat]
  | .qopNot _ _ a => [.q a.toNat]
  | .qopLsb _ _ a b => [.q a.toNat, .q b.toNat]
  | .qopClrlsb _ _ a b => [.q a.toNat, .q b.toNat]
  | .qi _ _ _ => []
  | .qvToVector _ _ a => [.q a.toNat]
  | .qvToMask _ _ _ => []
  | .pqToPredicate h _ a => [.p h.guard.toNat, .q a.toNat]
  | .pqToMask h _ k => [.p h.guard.toNat, .p k.toNat]
  | .compose h _ _ _ => [.p h.guard.toNat]
  | .bra h _ => [.p h.guard.toNat]
  | .join _ => []
  | .brx h _ => [.p h.guard.toNat]
  | .call h _ _ => [.p h.guard.toNat]
  | .callx h _ _ => [.p h.guard.toNat]
  | .ret _ => []
  | .callv h _ _ _ _ _ _ => [.p h.guard.toNat]
  | .vqual _ _ => []
  | .regang _ => []
  | .exit h => [.p h.guard.toNat]
  | .trap h _ => [.p h.guard.toNat]
  | .rft _ => []
  | .region _ _ => []
  | .hint _ _ _ _ => []
  | .rolesw _ _ => []
  | .stage _ => []
  | .sleep _ _ => []
  | .sleepC _ _ _ => []
  | .wait _ _ _ => []
  | .waitCnt _ _ => []
  | .macroOp _ _ _ _ _ _ => []
  | .csrr h _ _ => [.p h.guard.toNat]
  | .csrw _ _ _ => []
  | .stepend _ => []
  | .qpush h _ _ _ => [.p h.guard.toNat]
  | .qpop h _ _ _ => [.p h.guard.toNat]
  | .segwBase _ _ _ => []
  | .segwLimit _ _ _ => []
  | .segrBase h _ _ => [.p h.guard.toNat]
  | .segrLimit h _ _ => [.p h.guard.toNat]
  | .tlbi _ _ => []
  | .tlbiAsid _ _ => []
  | .tlbiAll _ => []
  | .mcsld _ _ _ => []
  | .dbrk _ _ => []
  | .pause _ _ => []
  | .ldb h _ _ _ _ => [.p h.guard.toNat]
  | .ldh h _ _ _ _ => [.p h.guard.toNat]
  | .ldw h _ _ _ _ => [.p h.guard.toNat]
  | .ldd h _ _ _ _ => [.p h.guard.toNat]
  | .ldc h _ _ _ => [.p h.guard.toNat]
  | .ldt h _ _ _ _ => [.p h.guard.toNat]
  | .stb h _ _ _ => [.p h.guard.toNat]
  | .sth h _ _ _ => [.p h.guard.toNat]
  | .stw h _ _ _ => [.p h.guard.toNat]
  | .std h _ _ _ => [.p h.guard.toNat]
  | .atomAdd h _ _ _ => [.p h.guard.toNat]
  | .atomMin h _ _ _ => [.p h.guard.toNat]
  | .atomMax h _ _ _ => [.p h.guard.toNat]
  | .atomAnd h _ _ _ => [.p h.guard.toNat]
  | .atomOr h _ _ _ => [.p h.guard.toNat]
  | .atomXor h _ _ _ => [.p h.guard.toNat]
  | .atomExch h _ _ _ => [.p h.guard.toNat]
  | .atomAddwrap h _ _ _ => [.p h.guard.toNat]
  | .cas h _ _ _ => [.p h.guard.toNat]
  | .asum h _ _ _ => [.p h.guard.toNat]
  | .srd h _ _ _ => [.p h.guard.toNat]
  | .fenceAcq _ => []
  | .fenceRel _ => []
  | .fenceAcqrel _ => []
  | .fencePath _ _ => []
  | .fenceEng _ => []
  | .kick _ _ _ _ => []
  | .binit _ _ _ => []
  | .barr _ _ _ _ => []
  | .btest _ _ _ _ => []
  | .trst _ _ => []
  | .legal h _ _ _ => [.p h.guard.toNat]
  | .dist h _ _ _ => [.p h.guard.toNat]
  | .topk h _ _ _ => [.p h.guard.toNat]
  | .rng h _ _ _ _ => [.p h.guard.toNat]
  | .sload _ _ _ => []
  | .nsend _ _ _ => []
  | .mfrd h _ _ _ => [.p h.guard.toNat]
  | .mfwr h _ _ _ => [.p h.guard.toNat]
  | .mfopAppend h _ _ => [.p h.guard.toNat]
  | .mfopRollback h _ _ => [.p h.guard.toNat]
  | .mfopFinish h _ _ => [.p h.guard.toNat]
  | .mfopFault h _ _ => [.p h.guard.toNat]
  | .trapEntry _ => []
  | .breakpointStop _ _ => []
  | .regangRelease _ => []
  | .retRendezvous _ _ => []
  | .sleepWake _ _ => []
  | .waitRelease _ _ => []
  | .pauseEnd _ _ => []
  | .engineQueueRoom _ _ => []
  | .fenceEngJoin _ _ => []
  | .stageItemTaken _ => []
  | .poundClose _ => []
  | .roleSwitchBacking _ => []
  | .moveRegister _ _ => []
  | .moveAtomic _ _ => []
  | .moveReleaseComplete _ _ => []
  | .moveWriteBack _ _ => []
  | .moveFill _ _ _ => []
  | .moveDrop _ _ _ => []
  | .engineAccess _ _ => []
  | .landing _ _ => []
  | .followOnFire _ => []
  | .matrixOpen _ => []
  | .matrixAccumulate _ => []
  | .matrixClose _ => []
  | .trestleThread _ => []
  | .nvmeCompletion _ _ _ _ => []
  | .quayTimeout _ => []
  | .messageAcknowledged _ => []
  | .messageUndeliverable _ => []
  | .messageArrival _ _ _ _ => []
  | .barrierDeadlock _ _ => []
  | .towSpill _ _ => []
  | .towRefill _ _ => []
  | .compaction _ _ => []
  | .launchDequeue => []
  | .gangPlacement _ => []
  | .gangStart _ => []
  | .launchEnd _ => []
  | .sluiceDoorbell _ _ => []
  | .sluiceLaunch _ => []
  | .sluiceWait _ => []
  | .sluiceSignal _ => []
  | .sluiceArm _ => []
  | .sluiceDisarm _ => []
  | .semaphoreRetest _ => []
  | .sluiceErrorClear _ => []
  | .rotationInterrupt => []
  | .lockEnable _ _ => []
  | .lockDisable _ => []
  | .subtailWrite _ _ => []
  | .stepFinished _ => []
  | .lockRetire _ => []
  | .lockReserve _ => []
  | .lockAdmit _ => []
  | .lockPublish _ => []
  | .lockPush _ => []
  | .invalidatePage _ _ => []
  | .invalidateAsid _ => []
  | .invalidateAll => []
  | .invalidationComplete => []
  | .replayParkId _ _ _ => []
  | .replayAsid _ _ _ => []
  | .replayDie _ _ => []
  | .overflowClear _ => []
  | .peerRequest _ _ _ _ _ => []
  | .hostAccess _ _ _ _ => []
  | .preempt _ => []
  | .preemptDeadline => []
  | .saveComplete => []
  | .contextRestore _ => []
  | .controlStoreReplace _ => []
  | .watchdogExpiry _ => []
  | .powerRecompute _ _ => []
  | .powercapWrite _ => []
  | .pcSample _ => []
  | .triggerLine _ => []
  | .hostStopRequest _ => []
  | .hostResume _ => []
  | .scrub _ _ _ _ _ => []
  | .retirementRequest _ => []
  | .securityVersionRaise _ => []
  | .moduleReset _ _ => []
  | .getVersion => []
  | .getCapabilities => []
  | .negotiateAlgorithms _ _ => []
  | .getCertificate _ _ _ => []
  | .challenge _ => []
  | .getMeasurements _ => []
  | .linkTraining _ _ => []
  | .portLinkChange _ _ _ => []
  | .registerWrite _ _ _ => []
  | .sluiceMap _ _ => []

/-- The fixed latency of a word, 0 where the device interlocks (Table 2-3). DESIGN CHOICE (log 65): the registers of `segr` and
`qpop`, whose words no row of the table names, are readable at once. -/
def Instr.lat (tg : Nat → Tag) : Instr → Nat
  | .nop _ => 0
  | .add _ _ a _ => vLat (tg a.toNat)
  | .sub _ _ a _ => vLat (tg a.toNat)
  | .mul _ _ _ _ => 4
  | .mulh _ _ _ _ => 4
  | .fma _ _ a _ => vLat (tg a.toNat)
  | .min _ _ a _ => vLat (tg a.toNat)
  | .max _ _ a _ => vLat (tg a.toNat)
  | .unopAbs _ _ a => vLat (tg a.toNat)
  | .unopNeg _ _ a => vLat (tg a.toNat)
  | .unopNabs _ _ a => vLat (tg a.toNat)
  | .unopSat _ _ a => vLat (tg a.toNat)
  | .unopNot _ _ a => vLat (tg a.toNat)
  | .addl _ _ a _ => vLat (tg a.toNat)
  | .movl _ _ _ _ => 2
  | .movi _ _ _ => 2
  | .mov _ _ _ => 2
  | .sel _ _ a _ => vLat (tg a.toNat)
  | .cmpEq _ _ a _ => vLat (tg a.toNat)
  | .cmpNe _ _ a _ => vLat (tg a.toNat)
  | .cmpLt _ _ a _ => vLat (tg a.toNat)
  | .cmpLe _ _ a _ => vLat (tg a.toNat)
  | .cmpGt _ _ a _ => vLat (tg a.toNat)
  | .cmpGe _ _ a _ => vLat (tg a.toNat)
  | .cmpUnord _ _ a _ => vLat (tg a.toNat)
  | .cmpOrd _ _ a _ => vLat (tg a.toNat)
  | .add64 _ _ _ _ => 4
  | .and _ _ a _ => vLat (tg a.toNat)
  | .or _ _ a _ => vLat (tg a.toNat)
  | .xor _ _ a _ => vLat (tg a.toNat)
  | .andn _ _ a _ => vLat (tg a.toNat)
  | .shl _ _ a _ => vLat (tg a.toNat)
  | .shr _ _ a _ => vLat (tg a.toNat)
  | .sar _ _ a _ => vLat (tg a.toNat)
  | .rot _ _ a _ => vLat (tg a.toNat)
  | .shli _ _ a _ => vLat (tg a.toNat)
  | .shri _ _ a _ => vLat (tg a.toNat)
  | .sari _ _ a _ => vLat (tg a.toNat)
  | .bitsClz _ _ a => vLat (tg a.toNat)
  | .bitsPopc _ _ a => vLat (tg a.toNat)
  | .bitsBrev _ _ a => vLat (tg a.toNat)
  | .bitsFfs _ _ a => vLat (tg a.toNat)
  | .bitsByterev _ _ a => vLat (tg a.toNat)
  | .bfx _ _ a _ _ => vLat (tg a.toNat)
  | .bfi _ _ a _ _ => vLat (tg a.toNat)
  | .dot4 _ _ _ _ => 4
  | .fnRcp _ _ _ _ => 8
  | .fnRsq _ _ _ _ => 8
  | .fnSqrt _ _ _ _ => 8
  | .fnExp2 _ _ _ _ => 8
  | .fnLog2 _ _ _ _ => 8
  | .fnTanh _ _ _ _ => 8
  | .fnSigm _ _ _ _ => 8
  | .fdiv _ _ _ _ => 16
  | .fscale _ _ _ _ => 8
  | .fcls _ _ _ _ => 8
  | .cvt _ _ _ _ _ => 8
  | .tag _ _ _ _ => 8
  | .qblk _ _ _ _ => 8
  | .unpb _ _ _ _ => 8
  | .frnd _ _ _ _ => 8
  | .shfli _ _ _ _ => 4
  | .shflx _ _ _ _ => 4
  | .shflu _ _ _ _ => 4
  | .shfld _ _ _ _ => 4
  | .ballot _ _ _ => 2
  | .voteAny _ _ _ => 2
  | .voteAll _ _ _ => 2
  | .voteUni _ _ _ => 2
  | .matchEq _ _ _ => 4
  | .redSum _ _ _ => 6
  | .redEsum _ _ _ => 6
  | .redMin _ _ _ => 6
  | .redMax _ _ _ => 6
  | .redAnd _ _ _ => 6
  | .redOr _ _ _ => 6
  | .redXor _ _ _ => 6
  | .scanSum _ _ _ _ => 6
  | .scanMin _ _ _ _ => 6
  | .scanMax _ _ _ _ => 6
  | .bcast _ _ _ _ => 4
  | .qopAnd _ _ _ _ => 2
  | .qopOr _ _ _ _ => 2
  | .qopXor _ _ _ _ => 2
  | .qopAndn _ _ _ _ => 2
  | .qopOrn _ _ _ _ => 2
  | .qopXnor _ _ _ _ => 2
  | .qopMov _ _ _ => 2
  | .qopNot _ _ _ => 2
  | .qopLsb _ _ _ _ => 2
  | .qopClrlsb _ _ _ _ => 2
  | .qi _ _ _ => 2
  | .qvToVector _ _ _ => 2
  | .qvToMask _ _ _ => 2
  | .pqToPredicate _ _ _ => 2
  | .pqToMask _ _ _ => 2
  | .compose _ _ _ _ => 8
  | .bra _ _ => 0
  | .join _ => 0
  | .brx _ _ => 0
  | .call _ _ _ => 0
  | .callx _ _ _ => 0
  | .ret _ => 0
  | .callv _ _ _ _ _ _ _ => 0
  | .vqual _ _ => 0
  | .regang _ => 0
  | .exit _ => 0
  | .trap _ _ => 0
  | .rft _ => 0
  | .region _ _ => 0
  | .hint _ _ _ _ => 0
  | .rolesw _ _ => 0
  | .stage _ => 0
  | .sleep _ _ => 0
  | .sleepC _ _ _ => 0
  | .wait _ _ _ => 0
  | .waitCnt _ _ => 0
  | .macroOp _ _ _ _ _ _ => 0
  | .csrr _ _ _ => 2
  | .csrw _ _ _ => 0
  | .stepend _ => 0
  | .qpush _ _ _ _ => 0
  | .qpop _ _ _ _ => 0
  | .segwBase _ _ _ => 0
  | .segwLimit _ _ _ => 0
  | .segrBase _ _ _ => 0
  | .segrLimit _ _ _ => 0
  | .tlbi _ _ => 0
  | .tlbiAsid _ _ => 0
  | .tlbiAll _ => 0
  | .mcsld _ _ _ => 0
  | .dbrk _ _ => 0
  | .pause _ _ => 0
  | .ldb _ _ _ _ _ => 0
  | .ldh _ _ _ _ _ => 0
  | .ldw _ _ _ _ _ => 0
  | .ldd _ _ _ _ _ => 0
  | .ldc _ _ _ _ => 0
  | .ldt _ _ _ _ _ => 0
  | .stb _ _ _ _ => 0
  | .sth _ _ _ _ => 0
  | .stw _ _ _ _ => 0
  | .std _ _ _ _ => 0
  | .atomAdd _ _ _ _ => 0
  | .atomMin _ _ _ _ => 0
  | .atomMax _ _ _ _ => 0
  | .atomAnd _ _ _ _ => 0
  | .atomOr _ _ _ _ => 0
  | .atomXor _ _ _ _ => 0
  | .atomExch _ _ _ _ => 0
  | .atomAddwrap _ _ _ _ => 0
  | .cas _ _ _ _ => 0
  | .asum _ _ _ _ => 0
  | .srd _ _ _ _ => 0
  | .fenceAcq _ => 0
  | .fenceRel _ => 0
  | .fenceAcqrel _ => 0
  | .fencePath _ _ => 0
  | .fenceEng _ => 0
  | .kick _ _ _ _ => 0
  | .binit _ _ _ => 0
  | .barr _ _ _ _ => 0
  | .btest _ _ _ _ => 0
  | .trst _ _ => 0
  | .legal _ _ _ _ => 0
  | .dist _ _ _ _ => 0
  | .topk _ _ _ _ => 0
  | .rng _ _ _ _ _ => 0
  | .sload _ _ _ => 0
  | .nsend _ _ _ => 0
  | .mfrd _ _ _ _ => 0
  | .mfwr _ _ _ _ => 0
  | .mfopAppend _ _ _ => 0
  | .mfopRollback _ _ _ => 0
  | .mfopFinish _ _ _ => 0
  | .mfopFault _ _ _ => 0
  | .trapEntry _ => 0
  | .breakpointStop _ _ => 0
  | .regangRelease _ => 0
  | .retRendezvous _ _ => 0
  | .sleepWake _ _ => 0
  | .waitRelease _ _ => 0
  | .pauseEnd _ _ => 0
  | .engineQueueRoom _ _ => 0
  | .fenceEngJoin _ _ => 0
  | .stageItemTaken _ => 0
  | .poundClose _ => 0
  | .roleSwitchBacking _ => 0
  | .moveRegister _ _ => 0
  | .moveAtomic _ _ => 0
  | .moveReleaseComplete _ _ => 0
  | .moveWriteBack _ _ => 0
  | .moveFill _ _ _ => 0
  | .moveDrop _ _ _ => 0
  | .engineAccess _ _ => 0
  | .landing _ _ => 0
  | .followOnFire _ => 0
  | .matrixOpen _ => 0
  | .matrixAccumulate _ => 0
  | .matrixClose _ => 0
  | .trestleThread _ => 0
  | .nvmeCompletion _ _ _ _ => 0
  | .quayTimeout _ => 0
  | .messageAcknowledged _ => 0
  | .messageUndeliverable _ => 0
  | .messageArrival _ _ _ _ => 0
  | .barrierDeadlock _ _ => 0
  | .towSpill _ _ => 0
  | .towRefill _ _ => 0
  | .compaction _ _ => 0
  | .launchDequeue => 0
  | .gangPlacement _ => 0
  | .gangStart _ => 0
  | .launchEnd _ => 0
  | .sluiceDoorbell _ _ => 0
  | .sluiceLaunch _ => 0
  | .sluiceWait _ => 0
  | .sluiceSignal _ => 0
  | .sluiceArm _ => 0
  | .sluiceDisarm _ => 0
  | .semaphoreRetest _ => 0
  | .sluiceErrorClear _ => 0
  | .rotationInterrupt => 0
  | .lockEnable _ _ => 0
  | .lockDisable _ => 0
  | .subtailWrite _ _ => 0
  | .stepFinished _ => 0
  | .lockRetire _ => 0
  | .lockReserve _ => 0
  | .lockAdmit _ => 0
  | .lockPublish _ => 0
  | .lockPush _ => 0
  | .invalidatePage _ _ => 0
  | .invalidateAsid _ => 0
  | .invalidateAll => 0
  | .invalidationComplete => 0
  | .replayParkId _ _ _ => 0
  | .replayAsid _ _ _ => 0
  | .replayDie _ _ => 0
  | .overflowClear _ => 0
  | .peerRequest _ _ _ _ _ => 0
  | .hostAccess _ _ _ _ => 0
  | .preempt _ => 0
  | .preemptDeadline => 0
  | .saveComplete => 0
  | .contextRestore _ => 0
  | .controlStoreReplace _ => 0
  | .watchdogExpiry _ => 0
  | .powerRecompute _ _ => 0
  | .powercapWrite _ => 0
  | .pcSample _ => 0
  | .triggerLine _ => 0
  | .hostStopRequest _ => 0
  | .hostResume _ => 0
  | .scrub _ _ _ _ _ => 0
  | .retirementRequest _ => 0
  | .securityVersionRaise _ => 0
  | .moduleReset _ _ => 0
  | .getVersion => 0
  | .getCapabilities => 0
  | .negotiateAlgorithms _ _ => 0
  | .getCertificate _ _ _ => 0
  | .challenge _ => 0
  | .getMeasurements _ => 0
  | .linkTraining _ _ => 0
  | .portLinkChange _ _ _ => 0
  | .registerWrite _ _ _ => 0
  | .sluiceMap _ _ => 0

/-- The charge of a word that `ns` slices issue with `nl` active lanes (Table 14-3); `dist` and `rng` add theirs. -/
def Instr.charge (tg : Nat → Tag) (ns nl : Nat) : Instr → Nat
  | .nop _ => 0
  | .add _ _ a _ => (if isFlt (tg a.toNat) then 2 else 1) * ns
  | .sub _ _ a _ => (if isFlt (tg a.toNat) then 2 else 1) * ns
  | .mul _ _ a _ => (if isFlt (tg a.toNat) then 2 else 1) * ns
  | .mulh _ _ a _ => (if isFlt (tg a.toNat) then 2 else 1) * ns
  | .fma _ _ a _ => (if isFlt (tg a.toNat) then 2 else 1) * ns
  | .min _ _ a _ => (if isFlt (tg a.toNat) then 2 else 1) * ns
  | .max _ _ a _ => (if isFlt (tg a.toNat) then 2 else 1) * ns
  | .unopAbs _ _ a => (if isFlt (tg a.toNat) then 2 else 1) * ns
  | .unopNeg _ _ a => (if isFlt (tg a.toNat) then 2 else 1) * ns
  | .unopNabs _ _ a => (if isFlt (tg a.toNat) then 2 else 1) * ns
  | .unopSat _ _ a => (if isFlt (tg a.toNat) then 2 else 1) * ns
  | .unopNot _ _ a => (if isFlt (tg a.toNat) then 2 else 1) * ns
  | .addl _ _ a _ => (if isFlt (tg a.toNat) then 2 else 1) * ns
  | .movl _ _ t _ => (if t = 3#4 ∨ t = 4#4 ∨ t = 5#4 then 2 else 1) * ns
  | .movi _ _ _ => ns
  | .mov _ _ a => (if isFlt (tg a.toNat) then 2 else 1) * ns
  | .sel _ _ a _ => (if isFlt (tg a.toNat) then 2 else 1) * ns
  | .cmpEq _ _ a _ => (if isFlt (tg a.toNat) then 2 else 1) * ns
  | .cmpNe _ _ a _ => (if isFlt (tg a.toNat) then 2 else 1) * ns
  | .cmpLt _ _ a _ => (if isFlt (tg a.toNat) then 2 else 1) * ns
  | .cmpLe _ _ a _ => (if isFlt (tg a.toNat) then 2 else 1) * ns
  | .cmpGt _ _ a _ => (if isFlt (tg a.toNat) then 2 else 1) * ns
  | .cmpGe _ _ a _ => (if isFlt (tg a.toNat) then 2 else 1) * ns
  | .cmpUnord _ _ a _ => (if isFlt (tg a.toNat) then 2 else 1) * ns
  | .cmpOrd _ _ a _ => (if isFlt (tg a.toNat) then 2 else 1) * ns
  | .add64 _ _ a _ => (if isFlt (tg a.toNat) then 2 else 1) * ns
  | .and _ _ a _ => (if isFlt (tg a.toNat) then 2 else 1) * ns
  | .or _ _ a _ => (if isFlt (tg a.toNat) then 2 else 1) * ns
  | .xor _ _ a _ => (if isFlt (tg a.toNat) then 2 else 1) * ns
  | .andn _ _ a _ => (if isFlt (tg a.toNat) then 2 else 1) * ns
  | .shl _ _ a _ => (if isFlt (tg a.toNat) then 2 else 1) * ns
  | .shr _ _ a _ => (if isFlt (tg a.toNat) then 2 else 1) * ns
  | .sar _ _ a _ => (if isFlt (tg a.toNat) then 2 else 1) * ns
  | .rot _ _ a _ => (if isFlt (tg a.toNat) then 2 else 1) * ns
  | .shli _ _ a _ => (if isFlt (tg a.toNat) then 2 else 1) * ns
  | .shri _ _ a _ => (if isFlt (tg a.toNat) then 2 else 1) * ns
  | .sari _ _ a _ => (if isFlt (tg a.toNat) then 2 else 1) * ns
  | .bitsClz _ _ a => (if isFlt (tg a.toNat) then 2 else 1) * ns
  | .bitsPopc _ _ a => (if isFlt (tg a.toNat) then 2 else 1) * ns
  | .bitsBrev _ _ a => (if isFlt (tg a.toNat) then 2 else 1) * ns
  | .bitsFfs _ _ a => (if isFlt (tg a.toNat) then 2 else 1) * ns
  | .bitsByterev _ _ a => (if isFlt (tg a.toNat) then 2 else 1) * ns
  | .bfx _ _ a _ _ => (if isFlt (tg a.toNat) then 2 else 1) * ns
  | .bfi _ _ a _ _ => (if isFlt (tg a.toNat) then 2 else 1) * ns
  | .dot4 _ _ _ _ => 2 * ns
  | .fnRcp _ _ _ x => (if x = 1#1 then 3 else 6) * ns
  | .fnRsq _ _ _ x => (if x = 1#1 then 3 else 6) * ns
  | .fnSqrt _ _ _ x => (if x = 1#1 then 3 else 6) * ns
  | .fnExp2 _ _ _ x => (if x = 1#1 then 3 else 6) * ns
  | .fnLog2 _ _ _ x => (if x = 1#1 then 3 else 6) * ns
  | .fnTanh _ _ _ x => (if x = 1#1 then 3 else 6) * ns
  | .fnSigm _ _ _ x => (if x = 1#1 then 3 else 6) * ns
  | .fdiv _ _ _ _ => 12 * ns
  | .fscale _ _ _ _ => 6 * ns
  | .fcls _ _ _ _ => 6 * ns
  | .cvt _ _ a _ t => 6 * cvtRegs t (tg a.toNat) * ns
  | .tag _ _ _ _ => 6 * ns
  | .qblk _ _ _ _ => 6 * ns
  | .unpb _ _ _ _ => 6 * ns
  | .frnd _ _ _ _ => 6 * ns
  | .shfli _ _ a _ => (if isFlt (tg a.toNat) then 2 else 1) * ns
  | .shflx _ _ a _ => (if isFlt (tg a.toNat) then 2 else 1) * ns
  | .shflu _ _ a _ => (if isFlt (tg a.toNat) then 2 else 1) * ns
  | .shfld _ _ a _ => (if isFlt (tg a.toNat) then 2 else 1) * ns
  | .ballot _ _ _ => ns
  | .voteAny _ _ _ => ns
  | .voteAll _ _ _ => ns
  | .voteUni _ _ _ => ns
  | .matchEq _ _ a => (if isFlt (tg a.toNat) then 2 else 1) * ns
  | .redSum _ _ _ => 2 * ns
  | .redEsum _ _ _ => 2 * ns
  | .redMin _ _ _ => 2 * ns
  | .redMax _ _ _ => 2 * ns
  | .redAnd _ _ _ => 2 * ns
  | .redOr _ _ _ => 2 * ns
  | .redXor _ _ _ => 2 * ns
  | .scanSum _ _ _ _ => 2 * ns
  | .scanMin _ _ _ _ => 2 * ns
  | .scanMax _ _ _ _ => 2 * ns
  | .bcast _ _ a _ => (if isFlt (tg a.toNat) then 2 else 1) * ns
  | .qopAnd _ _ _ _ => ns
  | .qopOr _ _ _ _ => ns
  | .qopXor _ _ _ _ => ns
  | .qopAndn _ _ _ _ => ns
  | .qopOrn _ _ _ _ => ns
  | .qopXnor _ _ _ _ => ns
  | .qopMov _ _ _ => ns
  | .qopNot _ _ _ => ns
  | .qopLsb _ _ _ _ => ns
  | .qopClrlsb _ _ _ _ => ns
  | .qi _ _ _ => ns
  | .qvToVector _ _ _ => ns
  | .qvToMask _ _ _ => ns
  | .pqToPredicate _ _ _ => ns
  | .pqToMask _ _ _ => ns
  | .compose _ _ _ _ => 2 * ns
  | .bra _ _ => ns
  | .join _ => ns
  | .brx _ _ => ns
  | .call _ _ _ => ns
  | .callx _ _ _ => ns
  | .ret _ => ns
  | .callv _ _ _ _ _ _ _ => ns
  | .vqual _ _ => ns
  | .regang _ => ns
  | .exit _ => ns
  | .trap _ _ => ns
  | .rft _ => ns
  | .region _ _ => ns
  | .hint _ _ _ _ => ns
  | .rolesw _ _ => ns
  | .stage _ => ns
  | .sleep _ _ => ns
  | .sleepC _ _ _ => ns
  | .wait _ _ _ => ns
  | .waitCnt _ _ => ns
  | .macroOp _ _ _ _ _ _ => ns
  | .csrr _ _ _ => ns
  | .csrw _ _ _ => ns
  | .stepend _ => ns
  | .qpush _ _ _ _ => ns
  | .qpop _ _ _ _ => ns
  | .segwBase _ _ _ => ns
  | .segwLimit _ _ _ => ns
  | .segrBase _ _ _ => ns
  | .segrLimit _ _ _ => ns
  | .tlbi _ _ => ns
  | .tlbiAsid _ _ => ns
  | .tlbiAll _ => ns
  | .mcsld _ _ _ => ns
  | .dbrk _ _ => ns
  | .pause _ _ => ns
  | .ldb _ _ _ _ _ => 2 * nl
  | .ldh _ _ _ _ _ => 2 * nl
  | .ldw _ _ _ _ _ => 2 * nl
  | .ldd _ _ _ _ _ => 2 * nl
  | .ldc _ _ _ _ => 2 * nl
  | .ldt _ _ _ _ _ => 2 * nl
  | .stb _ _ _ _ => 2 * nl
  | .sth _ _ _ _ => 2 * nl
  | .stw _ _ _ _ => 2 * nl
  | .std _ _ _ _ => 2 * nl
  | .atomAdd _ _ _ _ => 2 * nl
  | .atomMin _ _ _ _ => 2 * nl
  | .atomMax _ _ _ _ => 2 * nl
  | .atomAnd _ _ _ _ => 2 * nl
  | .atomOr _ _ _ _ => 2 * nl
  | .atomXor _ _ _ _ => 2 * nl
  | .atomExch _ _ _ _ => 2 * nl
  | .atomAddwrap _ _ _ _ => 2 * nl
  | .cas _ _ _ _ => 2 * nl
  | .asum _ _ _ _ => 2 * nl
  | .srd _ _ _ _ => 2 * nl
  | .fenceAcq _ => 2 * nl
  | .fenceRel _ => 2 * nl
  | .fenceAcqrel _ => 2 * nl
  | .fencePath _ _ => 2 * nl
  | .fenceEng _ => 2 * nl
  | .kick _ _ _ _ => 0
  | .binit _ _ _ => 0
  | .barr _ _ _ _ => 0
  | .btest _ _ _ _ => 0
  | .trst _ _ => 0
  | .legal _ _ _ _ => 0
  | .dist _ _ _ _ => 0
  | .topk _ _ _ _ => 0
  | .rng _ _ _ _ _ => 0
  | .sload _ _ _ => 0
  | .nsend _ _ _ => 0
  | .mfrd _ _ _ _ => 0
  | .mfwr _ _ _ _ => 0
  | .mfopAppend _ _ _ => 0
  | .mfopRollback _ _ _ => 0
  | .mfopFinish _ _ _ => 0
  | .mfopFault _ _ _ => 0
  | .trapEntry _ => 0
  | .breakpointStop _ _ => 0
  | .regangRelease _ => 0
  | .retRendezvous _ _ => 0
  | .sleepWake _ _ => 0
  | .waitRelease _ _ => 0
  | .pauseEnd _ _ => 0
  | .engineQueueRoom _ _ => 0
  | .fenceEngJoin _ _ => 0
  | .stageItemTaken _ => 0
  | .poundClose _ => 0
  | .roleSwitchBacking _ => 0
  | .moveRegister _ _ => 0
  | .moveAtomic _ _ => 0
  | .moveReleaseComplete _ _ => 0
  | .moveWriteBack _ _ => 0
  | .moveFill _ _ _ => 0
  | .moveDrop _ _ _ => 0
  | .engineAccess _ _ => 0
  | .landing _ _ => 0
  | .followOnFire _ => 0
  | .matrixOpen _ => 0
  | .matrixAccumulate _ => 0
  | .matrixClose _ => 0
  | .trestleThread _ => 0
  | .nvmeCompletion _ _ _ _ => 0
  | .quayTimeout _ => 0
  | .messageAcknowledged _ => 0
  | .messageUndeliverable _ => 0
  | .messageArrival _ _ _ _ => 0
  | .barrierDeadlock _ _ => 0
  | .towSpill _ _ => 0
  | .towRefill _ _ => 0
  | .compaction _ _ => 0
  | .launchDequeue => 0
  | .gangPlacement _ => 0
  | .gangStart _ => 0
  | .launchEnd _ => 0
  | .sluiceDoorbell _ _ => 0
  | .sluiceLaunch _ => 0
  | .sluiceWait _ => 0
  | .sluiceSignal _ => 0
  | .sluiceArm _ => 0
  | .sluiceDisarm _ => 0
  | .semaphoreRetest _ => 0
  | .sluiceErrorClear _ => 0
  | .rotationInterrupt => 0
  | .lockEnable _ _ => 0
  | .lockDisable _ => 0
  | .subtailWrite _ _ => 0
  | .stepFinished _ => 0
  | .lockRetire _ => 0
  | .lockReserve _ => 0
  | .lockAdmit _ => 0
  | .lockPublish _ => 0
  | .lockPush _ => 0
  | .invalidatePage _ _ => 0
  | .invalidateAsid _ => 0
  | .invalidateAll => 0
  | .invalidationComplete => 0
  | .replayParkId _ _ _ => 0
  | .replayAsid _ _ _ => 0
  | .replayDie _ _ => 0
  | .overflowClear _ => 0
  | .peerRequest _ _ _ _ _ => 0
  | .hostAccess _ _ _ _ => 0
  | .preempt _ => 0
  | .preemptDeadline => 0
  | .saveComplete => 0
  | .contextRestore _ => 0
  | .controlStoreReplace _ => 0
  | .watchdogExpiry _ => 0
  | .powerRecompute _ _ => 0
  | .powercapWrite _ => 0
  | .pcSample _ => 0
  | .triggerLine _ => 0
  | .hostStopRequest _ => 0
  | .hostResume _ => 0
  | .scrub _ _ _ _ _ => 0
  | .retirementRequest _ => 0
  | .securityVersionRaise _ => 0
  | .moduleReset _ _ => 0
  | .getVersion => 0
  | .getCapabilities => 0
  | .negotiateAlgorithms _ _ => 0
  | .getCertificate _ _ _ => 0
  | .challenge _ => 0
  | .getMeasurements _ => 0
  | .linkTraining _ _ => 0
  | .portLinkChange _ _ _ => 0
  | .registerWrite _ _ _ => 0
  | .sluiceMap _ _ => 0

/-- The latency of the predicate or mask register that a word writes: that of its row of Table 2-3, and two cycles for the status of
`qpush` and `qpop` (R124). -/
def Instr.flagLat (tg : Nat → Tag) : Instr → Nat
  | .qpush _ _ _ _ => 2
  | .qpop _ _ _ _ => 2
  | i => i.lat tg

end Sys2Proof
end

