-- ==== Sys2Proof/Machine/Flags.lean ====
section
/-! DEFINITION. Tag checks (R52, R73, R110, R409): the first operand of a word that fails, in operand order. -/

namespace Sys2Proof.Machine

/-- A failing register field and its operand number (Table 10-2, cause 0x05). -/
abbrev TagFail := Option (Nat × Nat)

def need (ok : Tag → Bool) (tg : Nat → Tag) (r : BitVec 6) (opnd : Nat) : TagFail :=
  if ok (tg r.toNat) then none else some (r.toNat, opnd)

def needUp (ok : Tag → Bool) (tg : Nat → Tag) (r : BitVec 6) : TagFail :=
  if ok (tg (r.toNat + 1)) then none else some (r.toNat + 1, 3)

/-- Both halves of a pair (R52). -/
def pairs (ok : Tag → Bool) (tg : Nat → Tag) (r : BitVec 6) (opnd : Nat) : TagFail := need ok tg r opnd <|> needUp ok tg r

/-- Four registers of a descriptor (R191). -/
def quads (ok : Tag → Bool) (tg : Nat → Tag) (a : BitVec 6) : TagFail :=
  ((List.range 4).find? fun k => !ok (tg (a.toNat + k))).map fun k => (a.toNat + k, if k = 0 then 0 else 3)

/-- One equal tag from a set on a and b (R52, R74). -/
def same2 (ok : Tag → Bool) (tg : Nat → Tag) (a b : BitVec 6) : TagFail :=
  if !ok (tg a.toNat) then some (a.toNat, 0) else if tg b.toNat = tg a.toNat then none else some (b.toNat, 1)

/-- One equal tag from a set on a, b and d (R85). -/
def same3 (ok : Tag → Bool) (tg : Nat → Tag) (a b d : BitVec 6) : TagFail :=
  same2 ok tg a b <|> (if tg d.toNat = tg a.toNat then none else some (d.toNat, 2))

/-- Equal tags on d and d + 1 (R174). -/
def sameUp (tg : Nat → Tag) (d : BitVec 6) : TagFail :=
  if tg (d.toNat + 1) = tg d.toNat then none else some (d.toNat + 1, 3)

/-- The address register of a MEM word (Table 2-9). -/
def addrFmt (tg : Nat → Tag) (e : BitVec 3) (a : BitVec 6) : TagFail :=
  if e = 7#3 then pairs isA64Raw tg a 0 else need isU32Raw tg a 0

/-- `dot4` tag pairs (Table 4-7). -/
def dot4Fmt (tg : Nat → Tag) (a b d : BitVec 6) : TagFail :=
  let want : Option Tag := match tg a.toNat with
    | .i8x4 => some .i32 | .u8x4 => some .u32 | .e4m3x4 => some .f32 | .e5m2x4 => some .f32 | _ => none
  match want with
  | none => some (a.toNat, 0)
  | some w => if tg b.toNat ≠ tg a.toNat then some (b.toNat, 1) else if tg d.toNat ≠ w then some (d.toNat, 2) else none

/-- `cvt`: source in NUM, group alignment, equal tags in a source group (R109, R110). A later
register of a narrowing group whose tag differs is reported as operand 3, also where the group is no pair (DESIGN CHOICE, log 69). -/
def cvtFmt (tg : Nat → Tag) (d a : BitVec 6) (t : BitVec 4) : TagFail :=
  let src := tg a.toNat
  let n := cvtRegs t src
  if !isNum src then some (a.toNat, 0)
  else if cvtNarrows t src && a.toNat % n != 0 then some (a.toNat, 0)
  else if cvtWidens t src && d.toNat % n != 0 then some (d.toNat, 2)
  else if cvtNarrows t src then
    ((List.range n).find? fun k => decide (tg (a.toNat + k) ≠ src)).map fun k => (a.toNat + k, 3)
  else none

/-- Whether the failing field of a `cvt` breaks its group's alignment: `tinfo` then gives a's tag (R110). -/
def cvtMisaligned (tg : Nat → Tag) (d a : BitVec 6) (t : BitVec 4) : Bool :=
  let src := tg a.toNat
  isNum src && ((cvtNarrows t src && a.toNat % cvtRegs t src != 0) || (cvtWidens t src && d.toNat % cvtRegs t src != 0))

end Sys2Proof.Machine

namespace Sys2Proof

open Sys2Proof.Machine

/-- The first operand of a word whose tag the word refuses. The spec names no tag for the operand of `csrw`, which takes any, and none for
that of `tlbi.asid`, which takes I32, U32 and RAW (DESIGN CHOICE, log 65); R199 names none for d of `mfop.rollback`, `finish` and `fault`,
which take any (DESIGN CHOICE, log 69). -/
def Instr.tagFail (tg : Nat → Tag) : Instr → TagFail
  | .nop _ => none
  | .add _ _ a b => same2 isIntFlt tg a b
  | .sub _ _ a b => same2 isIntFlt tg a b
  | .mul _ _ a b => same2 isIntFlt tg a b
  | .mulh _ _ a b => same2 isInt tg a b
  | .fma _ d a b => same3 isIntFlt tg a b d
  | .min _ _ a b => same2 isIntFlt tg a b
  | .max _ _ a b => same2 isIntFlt tg a b
  | .unopAbs _ _ a => need isSintFlt tg a 0
  | .unopNeg _ _ a => need isIntFlt tg a 0
  | .unopNabs _ _ a => need isSintFlt tg a 0
  | .unopSat _ _ a => need isIntFlt tg a 0
  | .unopNot _ _ a => need isBitsInt tg a 0
  | .addl _ _ a _ => need isIntFlt tg a 0
  | .movl _ _ _ _ => none
  | .movi _ _ _ => none
  | .mov _ _ _ => none
  | .sel _ _ a b => same2 isAny tg a b
  | .cmpEq _ _ a b => same2 isIntFltRaw tg a b
  | .cmpNe _ _ a b => same2 isIntFltRaw tg a b
  | .cmpLt _ _ a b => same2 isIntFlt tg a b
  | .cmpLe _ _ a b => same2 isIntFlt tg a b
  | .cmpGt _ _ a b => same2 isIntFlt tg a b
  | .cmpGe _ _ a b => same2 isIntFlt tg a b
  | .cmpUnord _ _ a b => same2 isFlt tg a b
  | .cmpOrd _ _ a b => same2 isFlt tg a b
  | .add64 _ _ a b => pairs isA64 tg a 0 <|> pairs isA64 tg b 1
  | .and _ _ _ _ => none
  | .or _ _ _ _ => none
  | .xor _ _ _ _ => none
  | .andn _ _ _ _ => none
  | .shl _ _ a b => need isBits tg a 0 <|> need isBits tg b 1
  | .shr _ _ a b => need isBits tg a 0 <|> need isBits tg b 1
  | .sar _ _ a b => need isBits tg a 0 <|> need isBits tg b 1
  | .rot _ _ a b => need isBits tg a 0 <|> need isBits tg b 1
  | .shli _ _ a _ => need isBits tg a 0
  | .shri _ _ a _ => need isBits tg a 0
  | .sari _ _ a _ => need isBits tg a 0
  | .bitsClz _ _ a => need isBits tg a 0
  | .bitsPopc _ _ a => need isBits tg a 0
  | .bitsBrev _ _ a => need isBits tg a 0
  | .bitsFfs _ _ a => need isBits tg a 0
  | .bitsByterev _ _ a => need isBits tg a 0
  | .bfx _ _ a _ _ => need isBits tg a 0
  | .bfi _ d a _ _ => need isBits tg a 0 <|> need isBits tg d 2
  | .dot4 _ d a b => dot4Fmt tg a b d
  | .fnRcp _ _ a _ => need isFlt tg a 0
  | .fnRsq _ _ a _ => need isFlt tg a 0
  | .fnSqrt _ _ a _ => need isFlt tg a 0
  | .fnExp2 _ _ a _ => need isFlt tg a 0
  | .fnLog2 _ _ a _ => need isFlt tg a 0
  | .fnTanh _ _ a _ => need isFlt tg a 0
  | .fnSigm _ _ a _ => need isFlt tg a 0
  | .fdiv _ _ a b => same2 isFlt tg a b
  | .fscale _ _ a b => need isFlt tg a 0 <|> need isI32 tg b 1
  | .fcls _ _ a _ => need isFltF8 tg a 0
  | .cvt _ d a _ t => cvtFmt tg d a t
  | .tag _ _ _ _ => none
  | .qblk _ _ a _ => need isFlt tg a 0
  | .unpb _ _ a _ => need isBlk tg a 0 <|> needUp isScl tg a
  | .frnd _ _ a _ => need isFlt tg a 0
  | .shfli _ _ _ b => need isBits tg b 1
  | .shflx _ _ _ _ => none
  | .shflu _ _ _ _ => none
  | .shfld _ _ _ _ => none
  | .ballot _ _ _ => none
  | .voteAny _ _ _ => none
  | .voteAll _ _ _ => none
  | .voteUni _ _ _ => none
  | .matchEq _ _ _ => none
  | .redSum _ _ a => need isIntFlt tg a 0
  | .redEsum _ _ a => need isInt tg a 0
  | .redMin _ _ a => need isIntFlt tg a 0
  | .redMax _ _ a => need isIntFlt tg a 0
  | .redAnd _ _ a => need isBitsInt tg a 0
  | .redOr _ _ a => need isBitsInt tg a 0
  | .redXor _ _ a => need isBitsInt tg a 0
  | .scanSum _ _ a _ => need isIntFlt tg a 0
  | .scanMin _ _ a _ => need isIntFlt tg a 0
  | .scanMax _ _ a _ => need isIntFlt tg a 0
  | .bcast _ _ _ b => need isBits tg b 1
  | .qopAnd _ _ _ _ => none
  | .qopOr _ _ _ _ => none
  | .qopXor _ _ _ _ => none
  | .qopAndn _ _ _ _ => none
  | .qopOrn _ _ _ _ => none
  | .qopXnor _ _ _ _ => none
  | .qopMov _ _ _ => none
  | .qopNot _ _ _ => none
  | .qopLsb _ _ _ _ => none
  | .qopClrlsb _ _ _ _ => none
  | .qi _ _ _ => none
  | .qvToVector _ _ _ => none
  | .qvToMask _ _ a => need isBits tg a 0
  | .pqToPredicate _ _ _ => none
  | .pqToMask _ _ _ => none
  | .compose _ _ a b => need isIdx tg a 0 <|> need isIdx tg b 1
  | .bra _ _ => none
  | .join _ => none
  | .brx _ a => need isBits tg a 0
  | .call _ _ _ => none
  | .callx _ _ a => need isBits tg a 0
  | .ret _ => none
  | .callv _ _ o va vb _ _ => need isU32Raw tg va 0 <|> (if o = 6#3 then none else need isU32Raw tg vb 1)
  | .vqual _ a => need isU32 tg a 0
  | .regang _ => none
  | .exit _ => none
  | .trap _ _ => none
  | .rft _ => none
  | .region _ _ => none
  | .hint _ a _ _ => need isU32Raw tg a 0
  | .rolesw _ _ => none
  | .stage _ => none
  | .sleep _ a => pairs isA64Raw tg a 0
  | .sleepC _ b a => pairs isA64Raw tg a 0 <|> need isU32Raw tg b 2
  | .wait _ p a => need isU32Raw tg a 0 <|> need isU32Raw tg p 2
  | .waitCnt _ a => need isU32Raw tg a 0
  | .macroOp _ _ _ _ _ _ => none
  | .csrr _ _ _ => none
  | .csrw _ _ _ => none
  | .stepend _ => none
  | .qpush _ _ _ _ => none
  | .qpop _ _ _ _ => none
  | .segwBase _ a _ => pairs isA64Raw tg a 0
  | .segwLimit _ a _ => pairs isA64Raw tg a 0
  | .segrBase _ _ _ => none
  | .segrLimit _ _ _ => none
  | .tlbi _ a => pairs isA64 tg a 0
  | .tlbiAsid _ a => need isBits tg a 0
  | .tlbiAll _ => none
  | .mcsld _ a _ => pairs isA64 tg a 0
  | .dbrk _ _ => none
  | .pause _ _ => none
  | .ldb _ _ a e _ => addrFmt tg e a
  | .ldh _ _ a e _ => addrFmt tg e a
  | .ldw _ _ a e _ => addrFmt tg e a
  | .ldd _ _ a e _ => addrFmt tg e a
  | .ldc _ _ a _ => need isU32Raw tg a 0
  | .ldt _ _ a e _ => addrFmt tg e a
  | .stb _ _ a e => addrFmt tg e a
  | .sth _ _ a e => addrFmt tg e a
  | .stw _ _ a e => addrFmt tg e a
  | .std _ d a e => addrFmt tg e a <|> pairs isA64Raw tg d 2
  | .atomAdd _ d a e => addrFmt tg e a <|> need isIU tg d 2
  | .atomMin _ d a e => addrFmt tg e a <|> need isIU tg d 2
  | .atomMax _ d a e => addrFmt tg e a <|> need isIU tg d 2
  | .atomAnd _ d a e => addrFmt tg e a <|> need isBits tg d 2
  | .atomOr _ d a e => addrFmt tg e a <|> need isBits tg d 2
  | .atomXor _ d a e => addrFmt tg e a <|> need isBits tg d 2
  | .atomExch _ _ a e => addrFmt tg e a
  | .atomAddwrap _ d a e => addrFmt tg e a <|> need isIU tg d 2
  | .cas _ d a e => addrFmt tg e a <|> sameUp tg d
  | .asum _ d a e => addrFmt tg e a <|> need isAsum tg d 2
  | .srd _ _ a e => addrFmt tg e a
  | .fenceAcq _ => none
  | .fenceRel _ => none
  | .fenceAcqrel _ => none
  | .fencePath _ _ => none
  | .fenceEng _ => none
  | .kick _ _ a b => need isU32Raw tg a 0 <|> need isU32Raw tg b 1
  | .binit _ d a => need isU32Raw tg a 0 <|> need isU32Raw tg d 2
  | .barr _ d a b => need isU32Raw tg a 0 <|> need isU32Raw tg b 1 <|> need isU32Raw tg d 2
  | .btest _ _ a _ => need isU32Raw tg a 0
  | .trst _ a => need isU32Raw tg a 0
  | .legal _ _ a b => need isBits tg a 0 <|> need isBits tg b 1
  | .dist _ _ a b => quads isU32Raw tg a <|> need isU32 tg b 1
  | .topk _ d a b => need isF32 tg a 0 <|> need isIU tg b 1 <|> need isF32 tg d 2 <|> needUp isU32 tg d
  | .rng _ _ a _ _ => need isBits tg a 0
  | .sload _ a _ => need isU32Raw tg a 0
  | .nsend _ a _ => need isU32Raw tg a 0
  | .mfrd _ _ a _ => need isBits tg a 0
  | .mfwr _ _ a _ => need isBits tg a 0
  | .mfopAppend _ _ a => need isBits tg a 0
  | .mfopRollback _ _ a => need isBits tg a 0
  | .mfopFinish _ _ a => need isBits tg a 0
  | .mfopFault _ _ a => need isBits tg a 0
  | .trapEntry _ => none
  | .breakpointStop _ _ => none
  | .regangRelease _ => none
  | .retRendezvous _ _ => none
  | .sleepWake _ _ => none
  | .waitRelease _ _ => none
  | .pauseEnd _ _ => none
  | .engineQueueRoom _ _ => none
  | .fenceEngJoin _ _ => none
  | .stageItemTaken _ => none
  | .poundClose _ => none
  | .roleSwitchBacking _ => none
  | .moveRegister _ _ => none
  | .moveAtomic _ _ => none
  | .moveReleaseComplete _ _ => none
  | .moveWriteBack _ _ => none
  | .moveFill _ _ _ => none
  | .moveDrop _ _ _ => none
  | .engineAccess _ _ => none
  | .landing _ _ => none
  | .followOnFire _ => none
  | .matrixOpen _ => none
  | .matrixAccumulate _ => none
  | .matrixClose _ => none
  | .trestleThread _ => none
  | .nvmeCompletion _ _ _ _ => none
  | .quayTimeout _ => none
  | .messageAcknowledged _ => none
  | .messageUndeliverable _ => none
  | .messageArrival _ _ _ _ => none
  | .barrierDeadlock _ _ => none
  | .towSpill _ _ => none
  | .towRefill _ _ => none
  | .compaction _ _ => none
  | .launchDequeue => none
  | .gangPlacement _ => none
  | .gangStart _ => none
  | .launchEnd _ => none
  | .sluiceDoorbell _ _ => none
  | .sluiceLaunch _ => none
  | .sluiceWait _ => none
  | .sluiceSignal _ => none
  | .sluiceArm _ => none
  | .sluiceDisarm _ => none
  | .semaphoreRetest _ => none
  | .sluiceErrorClear _ => none
  | .rotationInterrupt => none
  | .lockEnable _ _ => none
  | .lockDisable _ => none
  | .subtailWrite _ _ => none
  | .stepFinished _ => none
  | .lockRetire _ => none
  | .lockReserve _ => none
  | .lockAdmit _ => none
  | .lockPublish _ => none
  | .lockPush _ => none
  | .invalidatePage _ _ => none
  | .invalidateAsid _ => none
  | .invalidateAll => none
  | .invalidationComplete => none
  | .replayParkId _ _ _ => none
  | .replayAsid _ _ _ => none
  | .replayDie _ _ => none
  | .overflowClear _ => none
  | .peerRequest _ _ _ _ _ => none
  | .hostAccess _ _ _ _ => none
  | .preempt _ => none
  | .preemptDeadline => none
  | .saveComplete => none
  | .contextRestore _ => none
  | .controlStoreReplace _ => none
  | .watchdogExpiry _ => none
  | .powerRecompute _ _ => none
  | .powercapWrite _ => none
  | .pcSample _ => none
  | .triggerLine _ => none
  | .hostStopRequest _ => none
  | .hostResume _ => none
  | .scrub _ _ _ _ _ => none
  | .retirementRequest _ => none
  | .securityVersionRaise _ => none
  | .moduleReset _ _ => none
  | .getVersion => none
  | .getCapabilities => none
  | .negotiateAlgorithms _ _ => none
  | .getCertificate _ _ _ => none
  | .challenge _ => none
  | .getMeasurements _ => none
  | .linkTraining _ _ => none
  | .portLinkChange _ _ _ => none
  | .registerWrite _ _ _ => none
  | .sluiceMap _ _ => none

/-- The registers whose tags every issuing slice must share, in operand order (R409). -/
def Instr.shared : Instr → List (Nat × Nat)
  | .nop _ => []
  | .add _ _ _ _ => []
  | .sub _ _ _ _ => []
  | .mul _ _ _ _ => []
  | .mulh _ _ _ _ => []
  | .fma _ _ _ _ => []
  | .min _ _ _ _ => []
  | .max _ _ _ _ => []
  | .unopAbs _ _ _ => []
  | .unopNeg _ _ _ => []
  | .unopNabs _ _ _ => []
  | .unopSat _ _ _ => []
  | .unopNot _ _ _ => []
  | .addl _ _ _ _ => []
  | .movl _ _ _ _ => []
  | .movi _ _ _ => []
  | .mov _ _ _ => []
  | .sel _ _ _ _ => []
  | .cmpEq _ _ _ _ => []
  | .cmpNe _ _ _ _ => []
  | .cmpLt _ _ _ _ => []
  | .cmpLe _ _ _ _ => []
  | .cmpGt _ _ _ _ => []
  | .cmpGe _ _ _ _ => []
  | .cmpUnord _ _ _ _ => []
  | .cmpOrd _ _ _ _ => []
  | .add64 _ _ _ _ => []
  | .and _ _ _ _ => []
  | .or _ _ _ _ => []
  | .xor _ _ _ _ => []
  | .andn _ _ _ _ => []
  | .shl _ _ _ _ => []
  | .shr _ _ _ _ => []
  | .sar _ _ _ _ => []
  | .rot _ _ _ _ => []
  | .shli _ _ _ _ => []
  | .shri _ _ _ _ => []
  | .sari _ _ _ _ => []
  | .bitsClz _ _ _ => []
  | .bitsPopc _ _ _ => []
  | .bitsBrev _ _ _ => []
  | .bitsFfs _ _ _ => []
  | .bitsByterev _ _ _ => []
  | .bfx _ _ _ _ _ => []
  | .bfi _ _ _ _ _ => []
  | .dot4 _ _ _ _ => []
  | .fnRcp _ _ _ _ => []
  | .fnRsq _ _ _ _ => []
  | .fnSqrt _ _ _ _ => []
  | .fnExp2 _ _ _ _ => []
  | .fnLog2 _ _ _ _ => []
  | .fnTanh _ _ _ _ => []
  | .fnSigm _ _ _ _ => []
  | .fdiv _ _ _ _ => []
  | .fscale _ _ _ _ => []
  | .fcls _ _ _ _ => []
  | .cvt _ _ _ _ _ => []
  | .tag _ _ _ _ => []
  | .qblk _ _ a _ => [(a.toNat, 0)]
  | .unpb _ _ a _ => [(a.toNat, 0), (a.toNat + 1, 3)]
  | .frnd _ _ _ _ => []
  | .shfli _ _ a b => [(a.toNat, 0), (b.toNat, 1)]
  | .shflx _ _ a _ => [(a.toNat, 0)]
  | .shflu _ _ a _ => [(a.toNat, 0)]
  | .shfld _ _ a _ => [(a.toNat, 0)]
  | .ballot _ _ _ => []
  | .voteAny _ _ _ => []
  | .voteAll _ _ _ => []
  | .voteUni _ _ a => [(a.toNat, 0)]
  | .matchEq _ _ a => [(a.toNat, 0)]
  | .redSum _ _ a => [(a.toNat, 0)]
  | .redEsum _ _ a => [(a.toNat, 0)]
  | .redMin _ _ a => [(a.toNat, 0)]
  | .redMax _ _ a => [(a.toNat, 0)]
  | .redAnd _ _ a => [(a.toNat, 0)]
  | .redOr _ _ a => [(a.toNat, 0)]
  | .redXor _ _ a => [(a.toNat, 0)]
  | .scanSum _ _ a _ => [(a.toNat, 0)]
  | .scanMin _ _ a _ => [(a.toNat, 0)]
  | .scanMax _ _ a _ => [(a.toNat, 0)]
  | .bcast _ _ a b => [(a.toNat, 0), (b.toNat, 1)]
  | .qopAnd _ _ _ _ => []
  | .qopOr _ _ _ _ => []
  | .qopXor _ _ _ _ => []
  | .qopAndn _ _ _ _ => []
  | .qopOrn _ _ _ _ => []
  | .qopXnor _ _ _ _ => []
  | .qopMov _ _ _ => []
  | .qopNot _ _ _ => []
  | .qopLsb _ _ _ _ => []
  | .qopClrlsb _ _ _ _ => []
  | .qi _ _ _ => []
  | .qvToVector _ _ _ => []
  | .qvToMask _ _ _ => []
  | .pqToPredicate _ _ _ => []
  | .pqToMask _ _ _ => []
  | .compose _ _ a b => [(a.toNat, 0), (b.toNat, 1)]
  | .bra _ _ => []
  | .join _ => []
  | .brx _ _ => []
  | .call _ _ _ => []
  | .callx _ _ _ => []
  | .ret _ => []
  | .callv _ _ _ _ _ _ _ => []
  | .vqual _ _ => []
  | .regang _ => []
  | .exit _ => []
  | .trap _ _ => []
  | .rft _ => []
  | .region _ _ => []
  | .hint _ _ _ _ => []
  | .rolesw _ _ => []
  | .stage _ => []
  | .sleep _ _ => []
  | .sleepC _ _ _ => []
  | .wait _ _ _ => []
  | .waitCnt _ _ => []
  | .macroOp _ _ _ _ _ _ => []
  | .csrr _ _ _ => []
  | .csrw _ _ _ => []
  | .stepend _ => []
  | .qpush _ _ _ _ => []
  | .qpop _ _ _ _ => []
  | .segwBase _ _ _ => []
  | .segwLimit _ _ _ => []
  | .segrBase _ _ _ => []
  | .segrLimit _ _ _ => []
  | .tlbi _ _ => []
  | .tlbiAsid _ _ => []
  | .tlbiAll _ => []
  | .mcsld _ _ _ => []
  | .dbrk _ _ => []
  | .pause _ _ => []
  | .ldb _ _ _ _ _ => []
  | .ldh _ _ _ _ _ => []
  | .ldw _ _ _ _ _ => []
  | .ldd _ _ _ _ _ => []
  | .ldc _ _ _ _ => []
  | .ldt _ _ _ _ _ => []
  | .stb _ _ _ _ => []
  | .sth _ _ _ _ => []
  | .stw _ _ _ _ => []
  | .std _ _ _ _ => []
  | .atomAdd _ _ _ _ => []
  | .atomMin _ _ _ _ => []
  | .atomMax _ _ _ _ => []
  | .atomAnd _ _ _ _ => []
  | .atomOr _ _ _ _ => []
  | .atomXor _ _ _ _ => []
  | .atomExch _ _ _ _ => []
  | .atomAddwrap _ _ _ _ => []
  | .cas _ _ _ _ => []
  | .asum _ _ _ _ => []
  | .srd _ _ _ _ => []
  | .fenceAcq _ => []
  | .fenceRel _ => []
  | .fenceAcqrel _ => []
  | .fencePath _ _ => []
  | .fenceEng _ => []
  | .kick _ _ _ _ => []
  | .binit _ _ _ => []
  | .barr _ _ _ _ => []
  | .btest _ _ _ _ => []
  | .trst _ _ => []
  | .legal _ _ _ _ => []
  | .dist _ _ _ _ => []
  | .topk _ d a b => [(a.toNat, 0), (b.toNat, 1), (d.toNat, 2), (d.toNat + 1, 3)]
  | .rng _ _ _ _ _ => []
  | .sload _ _ _ => []
  | .nsend _ _ _ => []
  | .mfrd _ _ _ _ => []
  | .mfwr _ _ _ _ => []
  | .mfopAppend _ _ _ => []
  | .mfopRollback _ _ _ => []
  | .mfopFinish _ _ _ => []
  | .mfopFault _ _ _ => []
  | .trapEntry _ => []
  | .breakpointStop _ _ => []
  | .regangRelease _ => []
  | .retRendezvous _ _ => []
  | .sleepWake _ _ => []
  | .waitRelease _ _ => []
  | .pauseEnd _ _ => []
  | .engineQueueRoom _ _ => []
  | .fenceEngJoin _ _ => []
  | .stageItemTaken _ => []
  | .poundClose _ => []
  | .roleSwitchBacking _ => []
  | .moveRegister _ _ => []
  | .moveAtomic _ _ => []
  | .moveReleaseComplete _ _ => []
  | .moveWriteBack _ _ => []
  | .moveFill _ _ _ => []
  | .moveDrop _ _ _ => []
  | .engineAccess _ _ => []
  | .landing _ _ => []
  | .followOnFire _ => []
  | .matrixOpen _ => []
  | .matrixAccumulate _ => []
  | .matrixClose _ => []
  | .trestleThread _ => []
  | .nvmeCompletion _ _ _ _ => []
  | .quayTimeout _ => []
  | .messageAcknowledged _ => []
  | .messageUndeliverable _ => []
  | .messageArrival _ _ _ _ => []
  | .barrierDeadlock _ _ => []
  | .towSpill _ _ => []
  | .towRefill _ _ => []
  | .compaction _ _ => []
  | .launchDequeue => []
  | .gangPlacement _ => []
  | .gangStart _ => []
  | .launchEnd _ => []
  | .sluiceDoorbell _ _ => []
  | .sluiceLaunch _ => []
  | .sluiceWait _ => []
  | .sluiceSignal _ => []
  | .sluiceArm _ => []
  | .sluiceDisarm _ => []
  | .semaphoreRetest _ => []
  | .sluiceErrorClear _ => []
  | .rotationInterrupt => []
  | .lockEnable _ _ => []
  | .lockDisable _ => []
  | .subtailWrite _ _ => []
  | .stepFinished _ => []
  | .lockRetire _ => []
  | .lockReserve _ => []
  | .lockAdmit _ => []
  | .lockPublish _ => []
  | .lockPush _ => []
  | .invalidatePage _ _ => []
  | .invalidateAsid _ => []
  | .invalidateAll => []
  | .invalidationComplete => []
  | .replayParkId _ _ _ => []
  | .replayAsid _ _ _ => []
  | .replayDie _ _ => []
  | .overflowClear _ => []
  | .peerRequest _ _ _ _ _ => []
  | .hostAccess _ _ _ _ => []
  | .preempt _ => []
  | .preemptDeadline => []
  | .saveComplete => []
  | .contextRestore _ => []
  | .controlStoreReplace _ => []
  | .watchdogExpiry _ => []
  | .powerRecompute _ _ => []
  | .powercapWrite _ => []
  | .pcSample _ => []
  | .triggerLine _ => []
  | .hostStopRequest _ => []
  | .hostResume _ => []
  | .scrub _ _ _ _ _ => []
  | .retirementRequest _ => []
  | .securityVersionRaise _ => []
  | .moduleReset _ _ => []
  | .getVersion => []
  | .getCapabilities => []
  | .negotiateAlgorithms _ _ => []
  | .getCertificate _ _ _ => []
  | .challenge _ => []
  | .getMeasurements _ => []
  | .linkTraining _ _ => []
  | .portLinkChange _ _ _ => []
  | .registerWrite _ _ _ => []
  | .sluiceMap _ _ => []

/-- The tag bits of `tinfo` for a failing register (Table 10-2, R110). -/
def Instr.tagFound (tg : Nat → Tag) (i : Instr) (reg : Nat) : Tag :=
  match i with
  | .cvt _ d a _ t => if cvtMisaligned tg d a t then tg a.toNat else tg reg
  | _ => tg reg

end Sys2Proof
end

