-- ==== Sys2Proof/Machine/Fetch.lean ====
section
/-! DEFINITION. Fetching the words of a program: packets, literals, chains and their checks (R36–R42). -/

namespace Sys2Proof.Machine

/-- The literals an opcode owns and its pipe, by the opcode alone (Table 2-6). -/
def opLits (w : Word) : Nat :=
  match (field w 21 7).toNat with
  | 0x09 | 0x0A | 0x1C | 0x1D | 0x46 | 0x52 => 1
  | 0x4D => 2
  | _ => 0

def opPipe (w : Word) : Pipe :=
  let o := (field w 21 7).toNat
  if o = 0 ∨ o = 0x1F ∨ (0x29 ≤ o ∧ o ≤ 0x2F) ∨ o = 0x3F ∨ o = 0x5E ∨ o = 0x5F ∨ o = 0x6F ∨ 0x7E ≤ o then .none
  else if o ≤ 0x1E then .v
  else if o ≤ 0x28 then .x
  else if o ≤ 0x33 ∨ (0x36 ≤ o ∧ o ≤ 0x39) ∨ o = 0x3E then .v
  else if o ≤ 0x5D then .k
  else if o ≤ 0x6E then .m
  else .e

/-- The chain bit and the stall field of a word (Table 2-1). -/
def opChain (w : Word) : Bool := w.getLsbD 31
def opStall (w : Word) : Nat := (field w 28 3).toNat

/-- Three words. -/
structure Packet where
  w0 : Word
  w1 : Word
  w2 : Word
  deriving DecidableEq, Repr

def Packet.at (p : Packet) : Nat → Word
  | 0 => p.w0 | 1 => p.w1 | 2 => p.w2 | _ => 0

/-- The slots that hold instruction words, from a slot on (R37, R38). -/
def Packet.startsFrom (p : Packet) : Nat → Nat → List Nat
  | 0, _ => []
  | n + 1, k => if 3 ≤ k then [] else k :: p.startsFrom n (k + 1 + opLits (p.at k))

def Packet.starts (p : Packet) : List Nat := p.startsFrom 3 0

/-- The instruction of a slot. -/
def Packet.instr (p : Packet) (k : Nat) : Except DecodeError Instr := decode (p.at k) (p.at (k + 1)) (p.at (k + 2))

/-- The chain that begins at a slot (R39). -/
def Packet.chainFrom (p : Packet) : Nat → Nat → List Nat
  | 0, _ => []
  | n + 1, k =>
    if 3 ≤ k then [] else k :: (if opChain (p.at k) then p.chainFrom n (k + 1 + opLits (p.at k)) else [])

def Packet.chain (p : Packet) (k : Nat) : List Nat := p.chainFrom 3 k

/-- The destinations of a slot's word; `tg` gives the tags that a `cvt` group follows. -/
def Packet.dsts (p : Packet) (tg : Nat → Tag) (k : Nat) : List Dst :=
  match p.instr k with | .ok i => i.dsts tg | .error _ => []

/-- Whether two words of a chain share a pipe or a destination (R39, R40). -/
def Packet.clash (p : Packet) (tg : Nat → Tag) (j k : Nat) : Bool :=
  (opPipe (p.at j) != .none && opPipe (p.at j) == opPipe (p.at k)) || (p.dsts tg j).any fun d => (p.dsts tg k).contains d

/-- The lowest slot of a chain with a clash. -/
def Packet.clashIn (p : Packet) (tg : Nat → Tag) : List Nat → Option Nat
  | [] => none
  | j :: r => if r.any fun k => p.clash tg j k then some j else p.clashIn tg r

/-- Whether a slot breaks R38 or R39 by itself. -/
def Packet.slotBad (p : Packet) (k : Nat) : Bool :=
  let n := k + 1 + opLits (p.at k)
  decide (3 < n) || (opChain (p.at k) && (decide (3 ≤ n) || opStall (p.at k) != 0))

/-- The lowest slot that makes a packet illegal (R38, R39). -/
def Packet.bad (p : Packet) : Option Nat :=
  p.starts.find? fun k => p.slotBad k || decide (p.clashIn (fun _ => .raw) (p.chain k) = some k)

namespace State

/-- The word at a word index of a gang's code; a word at or beyond the limit is not fetched (R36). -/
def codeWord (s : State) (g : Gang) (w : Nat) : Except (XFail × Nat) Word :=
  if g.codeLimit ≤ w then .ok 0
  else
    let va := g.codeBase + 4 * w
    match s.translate (clusterOfCore g.core) g.asid g.reach va .fetch (2048 + w % 3) with
    | .error e => .error (e, va)
    | .ok x => .ok (BitVec.ofNat 32 (s.homeRead x.pa x.kid 4))

/-- What stands in place of a literal beyond the limit, so that the word that owns it meets the segment fault of R36 and no check
that its literal decides. -/
def pastLiteral (w : Word) : Word := if [0x1C, 0x1D].contains (field w 21 7).toNat then 1 else 0

/-- The packet that holds a word index (R37). -/
def packet (s : State) (g : Gang) (w : Nat) : Except (XFail × Nat) Packet :=
  let b := w - w % 3
  let at_ (i : Nat) (prev v : Word) : Word := if b + i = g.codeLimit then pastLiteral prev else v
  match s.codeWord g b, s.codeWord g (b + 1), s.codeWord g (b + 2) with
  | .ok x, .ok y, .ok z => .ok ⟨x, at_ 1 x y, at_ 2 y z⟩
  | .error e, _, _ => .error e
  | _, .error e, _ => .error e
  | _, _, .error e => .error e

/-- Whether a word index holds a literal (R42); where the packet cannot be read this shows when it is fetched. -/
def isLiteral (s : State) (g : Gang) (w : Nat) : Bool :=
  match s.packet g w with
  | .ok p => !p.starts.contains (w % 3)
  | .error _ => false

end State

end Sys2Proof.Machine
end

