-- ==== Sys2Proof/Machine/Ops.lean ====
section
/-! DEFINITION. The operations every word shares: holding a slice at a word, parking, stops and the dump, taking a trap and
returning from one, the checks made in the order of R66, issue and retirement. -/

namespace Sys2Proof.Machine

/-- The quarter of a gang, numbered over the module. -/
def Gang.quarterId (g : Gang) : Nat := 4 * g.core + g.quarter

/-- The lowest lane of a nibble. -/
def lowBit (m : BitVec 4) : Nat := ((List.range 4).find? fun j => nib m j).getD 0

/-- Address bits as `tinfo` and `tinfo2` hold them. -/
def addrInfo (a : Nat) : Word × Word := (BitVec.ofNat 32 a, BitVec.ofNat 32 (bitsOf a 32 25))

/-- A slice goes on after the word it stood at: to a word of that word's chain it has still to perform, else to the next
word. -/
def Slice.onward (x : Slice) : Slice :=
  match x.rest with
  | (w, m) :: r => { x with pc := w, rest := r, replay := some (m &&& x.live), again := false, alone := true }
  | [] => { x with pc := x.next }

/-- A slice goes on after a wait: the word it waited at retires (R31); inside a microprogram the next operation follows (R62). -/
def Slice.resume (x : Slice) (now : Nat) : Slice :=
  let y := match x.macroAt with
    | some (w, n) => { x with macroAt := some (w, n + 1) }
    | none => x.onward
  { y with wait := none, dix := x.dix + 1, readySince := now, ready := max x.ready now }

/-- A released slice issues its word again: `pm` lanes of it alone, unless only its fetch had faulted (R165, R222, R367). -/
def Slice.unpark (x : Slice) (p : Park) (pm : BitVec 4) : Slice :=
  { x with park := none, pc := p.widx, replay := if p.kind = .fetch then x.replay else some (pm &&& x.live),
           again := p.kind = .fetch && x.again, alone := p.kind = .fetch && x.alone }

/-- The open region of a slice ends otherwise than by a new one: no release of its words can resume at its start (R294, R295;
log 66). -/
def Slice.closeRegion (x : Slice) : Slice :=
  { x with region := none, pend := x.pend.map fun p => { p with region := none },
           failed := x.failed.map fun f => { f with region := none } }

namespace State

/-! ### Standing at a word -/

/-- Apply a change to every issuing slice. -/
def eachSl (s : State) (f : Nat → Slice → Slice) : State := s.cur.slices.foldl (fun s k => s.modSl k (f k)) s

/-- Send a slice to a word: a slice that another word of its chain holds goes there afterwards. -/
def goTo (s : State) (k : Nat) (pc : Word) : State :=
  s.modSl k fun x => if x.park.isSome || x.wait.isSome then { x with next := pc } else { x with pc := pc }

/-- Hold a slice at the issuing word (R124, R182): nothing of an earlier issue of it is left over. -/
def holdAt (s : State) (k : Nat) (w : Wait) : State :=
  s.modSl k fun x =>
    { x with pc := s.cur.widx, next := if x.macroAt.isSome then x.next else s.cur.next, wait := some w, replay := none, again := false,
             alone := false }

/-- A new stream of slices (R206). -/
def newStream (s : State) (g : Nat) (ks : List Nat) : State :=
  let n := (s.gang g).streamNo + 1
  ks.foldl (fun s k => s.modSlice g k fun x => { x with stream := n })
    (s.modGang g fun x => { x with streamNo := n })

/-- Each slice of a list as a stream of its own (R206, R207). -/
def partAll (s : State) (g : Nat) (ks : List Nat) : State := ks.foldl (fun s k => s.newStream g [k]) s

/-! ### Parking (R164, R165, R296, R367, R391) -/

/-- What a fault record says of a gang's word. -/
def faultOf (s : State) (g k widx kind va : Nat) (x : XFail) (lanes : Word) : FaultInfo :=
  let y := s.gang g
  { va := va, asid := y.asid, kind := kind, cause := x.cause, reach := y.reach, quarter := y.quarter,
    core := s.denseCore y.core, launch := y.launchId.toNat, gang := y.index, widx := widx, slice := k,
    level := x.level, barrier := 0, lanes := lanes.toNat }

/-- Write a fault record under a new park id of the gang's die, after what the slices of its lanes stored stands at its home (R389). -/
def newPark (s : State) (g k widx kind va : Nat) (x : XFail) (lanes : Word) : State :=
  let d := dieOfCore (s.gang g).core
  let s := (List.range 8).foldl (fun s j => if j = k ∨ nibbleOf lanes j ≠ 0 then s.settle g j else s) s
  (s.faultRecord d (s.nextPark d) (s.faultOf g k widx kind va x lanes)).takePark d

/-- Park a slice on a word under park ids (R164). -/
def parkSlice (s : State) (g k : Nat) (widx next : Word) (pm : BitVec 4) (ids : List Nat) (kind : ParkKind) : State :=
  let d := dieOfCore (s.gang g).core
  s.modSlice g k fun x =>
    { x with
      park := some ⟨widx, pm, ids, d, kind⟩, pc := widx, next := if x.macroAt.isSome then x.next else next,
      pmask := laneWord k pm, replay := if kind = .fetch then x.replay else none, again := kind = .fetch && x.again,
      alone := kind = .fetch && x.alone, wait := none }

/-- Park every issuing slice on the issuing word under one park id; `who` met the fault (R137, R222). -/
def parkWord (s : State) (kind : Nat) (pk : ParkKind) (who va : Nat) (x : XFail) (pm : Nat → BitVec 4) : State :=
  let g := s.cur.gang
  let id := s.nextPark (dieOfCore s.me.core)
  let s := s.newPark g who s.cur.widx.toNat kind va x (laneWord who (pm who))
  s.cur.slices.foldl (fun s k => s.parkSlice g k s.cur.widx s.cur.next (pm k) [id] pk) s

/-! ### Stops and the dump (R301, Tables 7-3, 10-4, 10-6) -/

/-- A slice's record (Table 7-3). -/
def sliceRecord (s : State) (g k : Nat) : List Byte :=
  let y := s.gang g
  match y.slices.find k with
  | none => List.replicate 128 0
  | some x =>
    let live := s.liveSlices g
    let regangs : Bool := match x.wait with | some .regang | some .ret | some (.stage _) | some (.rolesw _) => true | _ => false
    let inStream := !x.park.isSome && !regangs && live.all fun j => decide ((s.slice g j).stream = x.stream)
    let entry (e : StackEntry) : List Byte :=
      leBytes 8 (e.pc.toNat + e.nt.toNat * 2 ^ 32 + e.full.toNat * 2 ^ 36 + flagBit e.pending 40)
    leBytes 4 x.pc.toNat ++ leBytes 1 (x.mask.toNat + 16 * x.live.toNat) ++ leBytes 1 x.stack.length ++
      leBytes 1 (flagBit inStream 0 + flagBit x.park.isSome 1 + flagBit regangs 2 + flagBit x.inHandler 3) ++ leBytes 1 0 ++
      leBytes 4 x.wdep ++ leBytes 4 ((x.levels.head?.map TrapLevel.depth).getD 0) ++ leBytes 8 (towVa y k x.towPtr) ++
      leBytes 4 x.committed ++ leBytes 2 x.wb ++ leBytes 2 0 ++
      (x.stack.reverse.flatMap entry ++ List.replicate (8 * (8 - x.stack.length)) 0) ++ List.replicate 32 0

/-- The entry depths of a slice's outer trap levels and its count of open levels (R292, Table 10-4). -/
def nestRecord (s : State) (g k : Nat) : List Byte :=
  let x := s.slice g k
  ([1, 2, 3].flatMap fun i => leBytes 4 ((x.levels[i]?.map TrapLevel.depth).getD 0)) ++ leBytes 4 x.levels.length

/-- Register field `n` of a slice, outside any issue. -/
def windowReg (s : State) (g k n : Nat) : Reg :=
  let y := s.gang g
  let x := s.slice g k
  x.regs.getOr (storageOf y.allot x.wb n) Reg.zero

/-- Which window registers a slice holds as uniform: any of those whose lanes agree (R55). -/
def uniformFlags (s : State) (g k : Nat) : List Byte :=
  let held (n : Nat) : Bool :=
    let r := s.windowReg g k n
    s.freeBit (3072 + 64 * k + n) && decide (r.l0 = r.l1) && decide (r.l1 = r.l2) && decide (r.l2 = r.l3)
  leBytes 8 (((List.range 64).map fun n => flagBit (held n) n).sum)

/-- A stop record (Table 10-6). -/
def stopRecord (s : State) (g : Nat) (t : Stop) : List Byte :=
  let y := s.gang g
  leBytes 1 t.reason ++ leBytes 1 y.quarter ++ leBytes 2 (s.denseCore y.core) ++ leBytes 4 y.launchId.toNat ++
    leBytes 4 y.index ++ leBytes 4 t.widx.toNat ++ leBytes 4 t.info.toNat ++ leBytes 4 t.hit.toNat ++ leBytes 8 t.cyc ++
    leBytes 8 t.addr ++ leBytes 4 t.tcause.toNat ++ leBytes 4 t.tpc.toNat ++ List.replicate 16 0

/-- The sections of Table 10-4 after the stop record. -/
def gangSections (s : State) (g k : Nat) (keep : Nat → Nat → Bool) : List Byte :=
  let y := s.gang g
  let reg (j n : Nat) : Reg := if keep j n && (y.slices.find j).isSome then s.windowReg g j n else Reg.zero
  let all (f : Nat → List Byte) : List Byte := (List.range 8).flatMap f
  all (s.sliceRecord g) ++ all (s.nestRecord g) ++ all (fun j => (List.range 64).flatMap fun n => (reg j n).bytes) ++
    all (fun j => (List.range 64).map fun n => (reg j n).tagByte) ++ all (s.uniformFlags g) ++
    ((List.range 7).flatMap fun p => leBytes 4 (y.preds.getOr (p + 1) 0).toNat) ++
    ((List.range 16).flatMap fun q => leBytes 4 (y.masks.getOr q 0).toNat) ++
    ((List.range 96).flatMap fun id => leBytes 4 (s.csrVal y (s.slice g k) (4 * k) id).toNat)

/-- Write a stopped gang's dump in device memory where system software assigned one, by engine writes of a line each; each gang of the
context takes 16 KiB of it (log 34). The registers that it reads meet their uncorrectable errors (R293). -/
def writeDump (s : State) (g : Nat) (t : Stop) : State :=
  let at_ := keyAt devSpace 0 ((s.ctx (s.gang g).asid).dump + 0x4000 * g)
  let v := s
  let s := (s.gang g).slices.foldl (fun s (k, x) =>
    s.meetFlaws g k ((List.range 64).map (storageOf (s.gang g).allot x.wb))) s
  let u := { s with cur := Issue.idle }
  let bs := u.stopRecord g t ++ u.gangSections g t.slice fun _ _ => true
  let line (i : Nat) : List Byte := (bs.drop (64 * i)).take 64
  if (s.ctx (s.gang g).asid).dump = 0 then v
  else (List.range (ceilDiv bs.length 64)).foldl
    (fun s i => s.engineWrite (dieOfCore (s.gang g).core) (at_ + 64 * i) 0 (line i).length (leNat (line i))) s

/-- Whether the host may resume a stop (Table 10-5). -/
def resumable (reason : Nat) : Bool := [1, 2, 3, 8, 9, 12].contains reason

/-- Drive the trigger lines an event of a quarter drives (R304). -/
def driveLines (s : State) (quarter : Nat) (on : Trigger → Bool) : State :=
  { s with lines := (s.triggers.filter fun t => t.quarter == quarter && on t).foldl (fun l t => addSorted l t.line) s.lines }

/-- Stop one gang (R301). -/
def stopOne (s : State) (g : Nat) (t : Stop) : State :=
  if (s.gang g).stop.isSome then s
  else
    let s := (s.modGang g fun x => { x with stop := some t }).writeDump g t
    if resumable t.reason then s else s.modCtx (s.gang g).asid fun c => { c with fault := some t.reason }

/-- A plain stop record of a gang's slice. -/
def stopAt (s : State) (g k reason : Nat) : Stop :=
  { reason := reason, slice := k, widx := (s.slice g k).pc, info := 0, hit := 0, cyc := s.now, addr := 0, tcause := 0, tpc := 0,
    amask := 0, tmask := 0 }

/-- Stop a gang and, after their chains, every other gang of its quarter (R301); drive the lines a stop drives. -/
def stopGang (s : State) (g : Nat) (t : Stop) : State :=
  let q := (s.gang g).quarterId
  let s := s.stopOne g t
  let others := (s.gangs.filter fun (j, y) => j != g && y.quarterId == q).map Prod.fst
  let s := others.foldl (fun s j => s.stopOne j (s.stopAt j ((s.liveSlices j).headD 0) 12)) s
  s.driveLines q fun y => y.onStop

/-- A tow-integrity stop (R225); an uncorrectable error of a header or a tag block, at a place, is logged as fatal (R394). -/
def towBroken (s : State) (g who : Nat) (bad : Option Nat) : State :=
  let y := s.gang g
  let s := match bad with
    | some pa => s.errorRecord (if keySpace pa = devSpace then s.homeDie (keyAddr pa) else dieOfCore y.core) 7 3 0 0xFFFF y.asid (keyAddr pa)
    | none => s
  s.stopGang g (s.stopAt g who 6)

/-! ### Taking a trap (R284–R292) -/

/-- Why a slice may not enter the handler (Table 10-3); `own` when the trap is its own. -/
def refusedEntry (g : Gang) (own : Bool) (x : Slice) : Option Nat :=
  if g.allot = 64 then some 4
  else if g.handler = 0xFFFFFFFF then some 7
  else if own && x.inHandler && !x.reserve then some 5
  else if 4 ≤ x.levels.length then some 11
  else if g.towSize < x.committed + 976 then some 5
  else none

/-- `tcause` of a trap in a slice (Table 10-1). -/
def causeWord (g : Gang) (t : TrapInfo) (k : Nat) : Word :=
  let c := ((t.each.find? fun x => x.1 == k).map Prod.snd).getD (t.cause, t.slot)
  BitVec.ofNat 32 (c.1 + c.2 * 256 + flagBit g.frag 30 + flagBit t.imp 31)

/-- What the chain of a slice found in the destinations of its words (R41). -/
def oldsOf (s : State) (g k : Nat) : List (Dst × Reg) :=
  if s.cur.gang = g ∧ s.cur.slices.contains k then (s.cur.olds.filter fun o => o.1 == k).map Prod.snd else (s.slice g k).olds

/-- The entry steps of one slice (R289); `t` is its own share of the trap, none when it is swept in (R287). -/
def enterSlice (s : State) (g k : Nat) (code : Word) (t : Option TrapSlice) : State :=
  let y := s.gang g
  s.modSlice g k fun x =>
    let frame : Frame := { kind := .trap, ret := 0, inst := 0, stk := x.stack.length, mask := x.mask, slide := 56,
                           spilled := false, vb := none }
    let level : TrapLevel := { depth := x.wdep + 1, stk := x.stack.length, region := x.region, park := x.park, word := x.pc,
                               waited := x.again || x.wait.isSome, replay := if x.again then none else x.replay,
                               alone := x.alone, olds := s.oldsOf g k, next := x.next, rest := x.rest, macroAt := x.macroAt }
    let x := x.slideIn y.ring frame
    { x with
      tcause := if t.isSome then code else BitVec.ofNat 32 (flagBit y.frag 30),
      tpc := (t.map TrapSlice.tpc).getD x.pc,
      tinfo := (t.map TrapSlice.tinfo).getD 0, tinfo2 := (t.map TrapSlice.tinfo2).getD 0,
      amask := laneWord k x.mask, tmask := laneWord k ((t.map TrapSlice.lanes).getD x.mask),
      levels := level :: x.levels, region := none, park := none, wait := none, replay := none, again := false, alone := false,
      olds := [], rest := [],
      macroAt := none, mask := x.live, pc := BitVec.ofNat 32 y.handler,
      ready := x.flights.foldl (fun r f => max r f.ready) (max x.ready s.now), flights := [] }

/-- Hold a slice before the first word of its handler, under a park id; its `pmask` stands (R222, R287). -/
def holdHandler (s : State) (g id : Nat) (k : Nat) : State :=
  let p := (s.slice g k).pmask
  (s.parkSlice g k (s.slice g k).pc (s.slice g k).pc (s.slice g k).mask [id] .fetch).modSlice g k
    fun x => { x with reserve := false, pmask := p }

/-- Rebuild the trap reserve of entered slices (R220); where a spill faults the handler is held at its first word (R222). -/
def rebuild (s : State) (g : Nat) (ks : List Nat) : State :=
  let room (s : State) (k : Nat) : Tow := s.makeRoom g k (s.slice g k).frames.length
  match s.towAll room ks with
  | (.fine s, _) => ks.foldl (fun s k => s.modSlice g k fun x => { x with reserve := true }) s
  | (.fault e va, who) =>
    let id := s.nextPark (dieOfCore (s.gang g).core)
    let s := s.newPark g who (s.slice g who).pc.toNat 5 va e (laneWord who (s.slice g who).mask)
    ks.foldl (fun s k => s.holdHandler g id k) s
  | (.broken b, who) => s.towBroken g who b

/-- TAKE A TRAP of a gang: which slices enter, the registers that save their state, the handler's window, mask and first
word, or the stop that Table 10-3 gives instead. -/
def trapGang (s : State) (g : Nat) (t : TrapInfo) : State :=
  let y := s.gang g
  let code := causeWord y t
  let own (k : Nat) : Option TrapSlice := t.who.find? fun w => w.slice = k
  let mine := t.who.map TrapSlice.slice
  let ks := if y.frag then mine else s.liveSlices g
  let order := mine ++ ks.filter fun k => !mine.contains k
  match order.findSome? fun k => (refusedEntry y (own k).isSome (s.slice g k)).map fun r => (k, r) with
  | some (k, r) =>
    let w := (t.who.head?.map TrapSlice.tpc).getD 0
    let mask (f : TrapSlice → BitVec 4) : Word := t.who.foldl (fun m x => m ||| laneWord x.slice (f x)) 0
    s.stopGang g { s.stopAt g k r with tcause := code ((t.who.head?.map TrapSlice.slice).getD 0), tpc := w, amask := mask fun x => (s.slice g x.slice).mask,
                                       tmask := mask TrapSlice.lanes : Stop }
  | none =>
    let s := ks.foldl (fun s k => s.enterSlice g k (code k) (own k)) s
    let s := if y.frag then s.partAll g ks else s.newStream g ks
    if y.frag then ks.foldl (fun s k => s.rebuild g [k]) s else s.rebuild g ks

/-- A trap of the issuing word. -/
def takeTrap (s : State) (t : TrapInfo) : State :=
  let s := { s with cur := { s.cur with raised := some (t.rank, t.slot), trap := some t } }
  let s := match s.cur.macroOp with | some n => s.modMe fun g => { g with mix := n } | none => s
  let s := if t.cause = 0x08 then s.driveLines s.me.quarterId Trigger.onWatch else s
  s.trapGang s.cur.gang t

/-- A trap whose cause names no lanes: every issuing slice traps with its active mask (R287). -/
def trapAll (s : State) (rank cause : Nat) (tpc tinfo : Word) : TrapInfo :=
  { rank := rank, cause := cause, slot := s.cur.slot, imp := false,
    who := s.cur.slices.map fun k => ⟨k, (s.sl k).mask, tinfo, 0, tpc⟩ }

/-- A trap of the issuing slices that have failing lanes; none when there are none. -/
def trapLanes (s : State) (rank cause : Nat) (tpc : Word) (bad : Nat → BitVec 4) (info : Nat → Word × Word) : Option TrapInfo :=
  let ks := s.cur.slices.filter fun k => bad k != 0
  if ks = [] then none
  else some { rank := rank, cause := cause, slot := s.cur.slot, imp := false,
              who := ks.map fun k => ⟨k, bad k, (info k).1, (info k).2, tpc⟩ }

/-- A fault of execution (rank 7) at the word itself, and one at the first word of the chain (Table 10-2). -/
def trapHere (s : State) (cause : Nat) (tinfo : Word) : TrapInfo := s.trapAll 7 cause s.cur.widx tinfo
def trapChain (s : State) (cause : Nat) (tinfo : Word) : TrapInfo := s.trapAll 7 cause s.cur.chain tinfo

/-- Raise a trap when a test holds. -/
def trapIf (b : Bool) (t : TrapInfo) : Option TrapInfo := if b then some t else none

/-! ### Transfers (R36, R42, R134, R135, R140) -/

/-- Whether a lane value is a word the gang may not transfer to, and the trap that raises: beyond the code limit a segment
fault (R36), a literal an illegal packet (R42). -/
def badTarget (s : State) (t : Word) : Option (Nat × Nat) :=
  if s.me.codeLimit ≤ t.toNat then some (7, 0x06)
  else if s.isLiteral s.me t.toNat then some (1, 0x01) else none

/-- The trap of the targets of the slices that transfer: a literal one comes first (R66). -/
def targetTrap (s : State) (goes : Nat → Bool) (dst : Nat → Word) : Option TrapInfo :=
  let bad (k : Nat) : Option (Nat × Nat × Word) :=
    if goes k then (s.badTarget (dst k)).map fun (r, c) => (r, c, dst k) else none
  let all := s.cur.slices.filterMap bad
  match (all.find? fun b => b.1 == 1).or all.head? with
  | none => none
  | some (r, c, w) =>
    some { rank := r, cause := c, slot := s.cur.slot, imp := false,
           who := s.cur.slices.map fun k =>
             ⟨k, (s.sl k).mask, if (bad k).any fun b => b.2.1 == c then dst k else w, 0, s.cur.widx⟩ }

/-- Whether slice `k` leaves the straight path of a branch: it takes it with every active lane, or with some. -/
def takes (s : State) (g : BitVec 3) (k : Nat) : Bool := decide (s.act g k ≠ 0) || decide ((s.sl k).mask = 0)

end State

/-- One action of `join` on a slice (R135); `pc` is where it stands when the stack tells it to go nowhere else. -/
def joinSlice (x : Slice) : Slice × Option Word :=
  match x.stack with
  | [] => (x, none)
  | e :: r =>
    if e.pending then ({ x with stack := { e with pending := false } :: r, mask := e.nt }, some e.pc)
    else ({ x with stack := r, mask := e.full }, none)

/-- Take lanes out of a slice: its masks, its stack, its linkages. -/
def endLanes (e : BitVec 4) (x : Slice) : Slice :=
  { x with live := x.live &&& ~~~e, mask := x.mask &&& ~~~e,
           stack := x.stack.map fun t => { t with nt := t.nt &&& ~~~e, full := t.full &&& ~~~e },
           frames := x.frames.map fun f => { f with mask := f.mask &&& ~~~e } }

/-- With no active lane left, a slice proceeds by its stack as `join` does (R140). -/
def Slice.proceed (x : Slice) (dst : Word) : Nat → Slice × Word
  | 0 => (x, dst)
  | n + 1 =>
    if x.mask ≠ 0 ∨ x.stack = [] then (x, dst)
    else ((joinSlice x).1).proceed ((joinSlice x).2.getD dst) n

namespace State

/-! ### Returning from a trap (R144, R291, R294, R295) -/

/-- Whether `rft` sends a slice back to the start of its region. -/
def restarts (x : Slice) : Bool := x.tcause.getLsbD 31 && (x.levels.head?.any fun v => v.region.isSome)

/-- The word to which `rft` transfers a slice, none where it parks again. -/
def rftPlace (x : Slice) : Option Word :=
  if restarts x then some (x.tregion &&& 0xFFFFFF)
  else if x.levels.head?.any fun v => v.park.any fun p => p.ids != [] then none else some x.tpc

/-- The trap `rft` raises instead of returning (R291). -/
def rftFault (s : State) : Option TrapInfo :=
  let ks := s.cur.slices
  if ks.any fun k => (s.sl k).levels.isEmpty then some (s.trapHere 0x0D 0)
  else if ks.any fun k => decide ((s.sl k).relDepth ≠ 0) then some (s.trapHere 0x10 0)
  else if ks.any fun k => decide (((s.sl k).levels.head?.map TrapLevel.stk) ≠ some (s.sl k).stack.length) then
    some (s.trapHere 0x0E 0)
  else s.targetTrap (fun k => (rftPlace (s.sl k)).isSome) fun k => (rftPlace (s.sl k)).getD 0

/-- What a slice that leaves a trap level does at the word it comes back to: it parks there again, replays it, or issues a word
it was waiting at again (R165, R291). A word that an earlier one of its chain held back issues again in those of its lanes that are still
active, and reads what the handler left (log 69). -/
def leavePark (v : TrapLevel) (pm : BitVec 4) (x : Slice) : Slice :=
  match v.park with
  | some p =>
    let x := { x with olds := v.olds }
    if p.ids = [] then x.unpark p pm else { x with park := some { p with pmask := pm }, pc := p.widx }
  | none =>
    if x.pc ≠ v.word then { x with rest := [], macroAt := none }
    else if v.waited then { x with replay := some x.mask, again := true }
    else match v.replay with
      | some m => { x with replay := some (if v.alone then m &&& x.mask else pm), alone := v.alone }
      | none => x

/-- Leave the innermost trap level of a slice, its `rft` retired. After an imprecise trap inside a region it resumes at START with
what the region saved, its `dix` too (R31, R295). One to return parked whose park was released meanwhile replays its word, and
one taken from a wait issues its word again. -/
def leaveLevel (ring k : Nat) (x : Slice) : Slice :=
  match x.levels with
  | [] => x
  | v :: rest =>
    let start := x.tregion &&& 0xFFFFFF
    let pm := nibbleOf x.pmask k
    let back := restarts x
    let x := { x.slideOut ring with
      levels := rest, region := v.region, mask := nibbleOf x.amask k &&& x.live, pc := x.tpc,
      next := v.next, rest := v.rest, macroAt := v.macroAt, flights := [], ready := x.flights.foldl (fun r f => max r f.ready) x.ready }
    match v.region with
    | some r =>
      if back then { x with mask := r.mask &&& x.live, stack := r.stack, dix := r.dix, pc := start, rest := [], macroAt := none }
      else leavePark v pm x
    | none => leavePark v pm x
/-! ### The checks made before a word performs (R66) -/

/-- A destination of a slice by the register of its allotment. -/
def dstAt (s : State) (k : Nat) (d : Dst) : Dst := match d with | .v n => .v (s.storage k n) | d => d

/-- The latency that a word gives a destination (R45). -/
def wordLat (tg : Nat → Tag) (i : Instr) : Dst → Nat
  | .v _ => i.lat tg
  | _ => i.flagLat tg

/-- Whether a word reads a result too early, or writes before an older result lands (R45, R47). -/
def early (s : State) (i : Instr) : Bool :=
  s.cur.slices.any fun k =>
    let tg := s.tagOf k
    ((i.srcs tg).any fun r => (viewOf s.cur.view k (.v (s.storage k r.reg))).isSome) ||
      (i.kreads.any fun d => (viewOf s.cur.view k d).isSome) ||
      ((i.dsts tg).any fun d =>
        let lat := wordLat tg i d
        lat != 0 && (s.sl k).flights.any fun f => decide (f.dst = s.dstAt k d) && f.mask != 0 && decide (s.now + lat ≤ f.ready))

/-- The allotment registers of a slice that a word reads or writes. -/
def touches (s : State) (i : Instr) (k : Nat) : List Nat :=
  let tg := s.tagOf k
  (i.srcs tg).map (fun r => s.storage k r.reg) ++
    (i.dsts tg).filterMap fun d => match d with | .v n => some (s.storage k n) | _ => none

/-- Results of RMW words interlock: they return before a word that reads or overwrites their register issues (R45, R241). -/
def interlock (s : State) (i : Instr) : State :=
  s.cur.slices.foldl (fun s k => s.drainRegs s.cur.gang k (s.touches i k)) s

/-- The microprogram that a `macro` begun now runs: the newest loaded (R160). -/
def micro (s : State) (c p : Nat) : Micro :=
  ((s.core c).loading.find p).getD ((s.core c).store.getOr p ⟨false, []⟩)

/-- The reads of a word meet the uncorrectable errors of its registers (R293). -/
def findFlaws (s : State) (i : Instr) : State :=
  s.cur.slices.foldl (fun s k => s.meetFlaws s.cur.gang k ((i.srcs (s.tagOf k)).map fun r => s.storage k r.reg)) s

/-- Values that make a word illegal though its encoding is legal (R10, R53, R148, R155). -/
def valueIllegal (s : State) (i : Instr) : Bool :=
  match i with
  | .csrw _ d id =>
    let n := id.toNat
    let w := (s.lowest 0).map fun l => s.V d.toNat l
    (decide (0x040 ≤ n) && decide (n ≤ 0x047) && s.cur.slices.any fun k => !(s.sl k).inHandler) ||
      (n == 0x030 && w.any fpmodeBad) || (n == 0x018 && w.any fun w => w.truncate 2 != 0#2)
  | .rolesw _ n => decide (s.me.roles ≤ n.toNat)
  | .macroOp _ p _ _ _ _ => !(s.micro s.me.core p.toNat).valid
  | _ => false

/-- The format fault of a word: each slice's own check, then R409 over the issuing set. -/
def formatFault (s : State) (i : Instr) : Option TrapInfo :=
  let info (k r o : Nat) : Word := BitVec.ofNat 32 (r + o * 256 + (i.tagFound (s.tagOf k) r).code * 2 ^ 12)
  let own (k : Nat) : Option Word := (i.tagFail (s.tagOf k)).map fun (r, o) => info k r o
  match s.cur.slices.findSome? own with
  | some w =>
    some { rank := 5, cause := 0x05, slot := s.cur.slot, imp := false,
           who := s.cur.slices.map fun k => ⟨k, (s.sl k).mask, (own k).getD w, 0, s.cur.chain⟩ }
  | none =>
    match s.cur.slices with
    | [] => none
    | k₀ :: ks =>
      match i.shared.findSome? fun (r, o) => (ks.find? fun k => decide (s.tagOf k r ≠ s.tagOf k₀ r)).map fun k => info k r o with
      | some w => some (s.trapAll 5 0x05 s.cur.chain w)
      | none => none

/-- The lanes of slice `k` that a source names. -/
def readLanes (s : State) (g : BitVec 3) (k : Nat) (l : Reads) : BitVec 4 :=
  match l with
  | .active => s.act g k
  | .issuing => 15
  | .lowest => nibOf fun j => decide (s.lowest g = some (4 * k + j))
  | .first => if s.act g k = 0 then 0 else 1
  | .none => 0
  | .on => (s.sl k).mask &&& s.guardBits g k
  | .off => (s.sl k).mask &&& ~~~(s.guardBits g k)

/-- A poison trap over reads given as (slice, register, operand, lanes), in operand order: each slice names its lanes with a
poisoned word, and the first such register of its lowest one (R79, R287, Table 10-2). -/
def poisonTrap (s : State) (rs : List (Nat × Nat × Nat × BitVec 4)) : Option TrapInfo :=
  let bad (k : Nat) : BitVec 4 :=
    rs.foldl (fun m (j, r, _, l) => if j = k then m ||| ((s.reg k r).poison &&& l) else m) 0
  let hit (k : Nat) : Option (Nat × Nat × Nat × BitVec 4) :=
    rs.find? fun (j, r, _, l) => decide (j = k) && nib ((s.reg k r).poison &&& l) (lowBit (bad k))
  s.trapLanes 6 0x09 s.cur.chain bad
    fun k => (((hit k).map fun h => BitVec.ofNat 32 (h.2.1 + h.2.2.1 * 256)).getD 0, 0)

/-- The poison trap of a word's plain sources. -/
def poisonFault (s : State) (i : Instr) : Option TrapInfo :=
  s.poisonTrap (s.cur.slices.flatMap fun k =>
    (i.srcs (s.tagOf k)).map fun r => (k, r.reg, r.opnd, s.readLanes i.hdr.guard k r.lanes))

/-- Whether the issuing slices may run a privileged word (R63, R285). -/
def mayRun (s : State) (i : Instr) : Bool :=
  !i.priv || s.me.system ||
    (match i with | .rft _ => s.cur.slices.all fun k => (s.sl k).inHandler | _ => false)

/-- The first trap of ranks 2 to 6 that a word meets. -/
def screen (s : State) (i : Instr) : Option TrapInfo :=
  if !i.wf || s.valueIllegal i then some (s.trapAll 2 0x02 s.cur.chain 0)
  else if !s.mayRun i then some (s.trapAll 3 0x03 s.cur.chain 0)
  else if s.me.schk && s.early i then some (s.trapAll 4 0x04 s.cur.chain 0)
  else (s.formatFault i).or (s.poisonFault i)

/-! ### Issue and retirement -/

/-- The charge of a word: what Table 14-3 gives for each issuing slice's own tags and lanes (R345). -/
def chargeOf (s : State) (i : Instr) : Nat :=
  (s.cur.slices.map fun k =>
    i.charge (s.tagOf k) 1 ((List.range 4).filter fun j => nib (s.act i.hdr.guard k) j).length).sum

/-- Charge a word when it issues (R345, R378): not the replay of a parked one, but a waiting word that issues again. -/
def chargeWord (s : State) (i : Instr) (extra : Nat) : State :=
  if s.cur.replay && !s.cur.again then s else s.modMe fun g => { g with energy := g.energy + s.chargeOf i + extra }

/-- Note the latency of the word's results in each slice. -/
def begin (s : State) (i : Instr) : State :=
  { s with cur := { s.cur with lats := s.cur.slices.map fun k => (k, i.lat (s.tagOf k), i.flagLat (s.tagOf k)) } }

/-- Whether the issuing word holds a slice. -/
def holds (s : State) (x : Slice) : Bool :=
  (x.park.any fun p => p.widx == s.cur.widx) || (x.wait.isSome && x.pc == s.cur.widx) ||
    (s.cur.macroOp.isNone && (x.macroAt.any fun m => m.1 == s.cur.widx))

/-- Retire the issuing word in one slice: `dix` counts it, and unless the word steered the slice, the slice goes on (R31,
R44, R62); a word that waits holds the stall of its chain too. Bank conflicts put off the cycle from which its stall counts (R56, R169). After the last operation of a microprogram
the larger of its own stall and that of the `macro` holds (log 65). -/
def retireSlice (s : State) (i : Instr) (k : Nat) (x : Slice) : Slice :=
  let ready := if s.cur.last then max x.ready (s.now + 1 + s.cur.delay + max i.hdr.stall.toNat s.cur.stall) else x.ready
  if x.live = 0 then x
  else if s.holds x then (if x.wait.isSome && s.cur.macroOp.isNone then { x with ready := ready } else x)
  else
    let n := if s.stoppedCounters.contains s.me.quarterId then 0 else (i.srcs (s.tagOf k)).length
    let x := { x with
      dix := x.dix + 1, replay := none, again := false, alone := false, bank := s.now + s.cur.delay, ready := ready,
      urd := x.urd + BitVec.ofNat 32 ((s.freeWord (16 + k)).toNat % (n + 1)),
      bcf := x.bcf + BitVec.ofNat 32 ((s.freeWord (24 + k)).toNat % (n + 1)) }
    let x := match s.cur.macroOp with
      | some m => if s.cur.next = s.cur.widx then { x with macroAt := some (s.cur.widx, m + 1) }
                  else { x with macroAt := none, dix := x.dix + 1 }
      | none => x
    if i.steers || x.park.isSome || x.wait.isSome then x
    else if s.cur.replay && s.cur.macroOp.isNone then x.onward else { x with pc := s.cur.next }

def retire (s : State) (i : Instr) : State :=
  if s.cur.raised.isSome then s else s.eachSl (s.retireSlice i)

/-- Retire a word before an effect that its slices meet after it (R143, R147): it retires no more. -/
def retired (s : State) (i : Instr) : State :=
  let s := s.retire i
  { s with cur := { s.cur with raised := some (9, s.cur.slot) } }

/-- RETURN FROM A TRAP: the word retires, and every issuing slice leaves its innermost level and resumes as R291 says; a refill
that faults parks the word with `amask` (R222). -/
def returnTrap (i : Instr) (s : State) : State :=
  let ks := s.cur.slices
  let ring := s.me.ring
  match s.towAll (fun s k => s.needFrame s.cur.gang k) ks with
  | (.fault e va, who) => s.parkWord 5 .tow who va e fun k => nibbleOf (s.sl k).amask k
  | (.broken b, who) => s.towBroken s.cur.gang who b
  | (.fine s, _) =>
    let s := s.retired i
    let s := ks.foldl (fun s k => s.modSl k fun x => { leaveLevel ring k x with reserve := true }) s
    if s.me.frag then s.partAll s.cur.gang ks else s.newStream s.cur.gang ks

/-- The trap that R66 puts first; the checks of ranks 2 to 6 come before an equal rank of the word's own. -/
def firstOf (a b : Option TrapInfo) : Option TrapInfo :=
  match a, b with
  | some x, some y => if y.rank < x.rank then some y else some x
  | none, b => b
  | a, none => a

/-- Whether a slice goes on from a word to the word after it. -/
def fallsThrough (s : State) (i : Instr) (k : Nat) : Bool :=
  match i with
  | .bra h _ => !s.takes h.guard k
  | .brx h _ => !s.takes h.guard k
  | .join _ => (joinSlice (s.sl k)).2.isNone
  | .call h _ _ => decide (s.act h.guard k = 0)
  | .callx h _ _ => decide (s.act h.guard k = 0)
  | .callv h _ _ _ _ _ _ => decide (s.act h.guard k = 0)
  | .exit h =>
    let x := endLanes (s.act h.guard k) (s.sl k)
    decide (x.live ≠ 0) && decide ((x.proceed (s.cur.widx + 1) 16).2 = s.cur.widx + 1)
  | .trap h _ => decide (s.act h.guard k = 0) && (s.me.frag || decide (s.actLanes h.guard = []))
  | .rolesw _ n => n.toNat == s.me.role
  | .ret _ | .rft _ | .stage _ | .stepend _ => false
  | _ => true

/-- The words of the chain that is issuing. -/
def chainMates (s : State) : List Instr :=
  match s.packet s.me s.cur.chain.toNat with
  | .ok p => (p.chain (s.cur.chain.toNat % 3)).filterMap fun j => (p.instr j).toOption
  | .error _ => []

/-- Whether a slice goes on behind the issuing word, no word of its chain taking it elsewhere; a word that issues alone goes on to what
the slice has still to perform, or to the word behind its chain. -/
def runsOn (s : State) (i : Instr) (k : Nat) : Bool :=
  s.fallsThrough i k &&
    if s.cur.replay then (s.sl k).rest == [] && decide (s.me.codeLimit ≤ s.cur.next.toNat)
    else s.chainMates.all fun j => s.fallsThrough j k

/-- Sequential fetch would pass the last word of the code: a segment fault on the word behind which nothing more is fetched, its
literals or the next word of its chain included (R36, R78). -/
def endTrap (s : State) (i : Instr) : Option TrapInfo :=
  let n := s.cur.widx.toNat + (encode i).length
  let top := s.me.codeLimit
  trapIf (s.cur.macroOp.isNone &&
      (decide (top < n) || (decide (top = n) && ((i.hdr.chain && !s.cur.replay) || s.cur.slices.any (s.runsOn i)))))
    (s.trapHere 0x06 (BitVec.ofNat 32 top))

/-- The trap that comes first in the order of R66, `chk` giving the faults of the word's own. -/
def firstFault (s : State) (i : Instr) (chk : State → Option TrapInfo) : Option TrapInfo :=
  firstOf (s.screen i) (firstOf (s.endTrap i) (chk s))

/-- ISSUE A WORD: the interlock, the errors its reads meet, the checks of R66 in order with `chk` for the faults of execution, then its effect. -/
def issueWord (s : State) (i : Instr) (chk : State → Option TrapInfo) (act : State → State) :
    Host.Outcome State Fault Refusal :=
  let s := (s.interlock i).findFlaws i
  match s.firstFault i chk with
  | some t => .next (s.takeTrap t)
  | none => .next ((act ((s.chargeWord i 0).begin i)).retire i)

/-- No fault of execution. -/
def noFault (_ : State) : Option TrapInfo := none

end State

end Sys2Proof.Machine
end

