-- ==== Sys2Proof/Machine/Arith.lean ====
section
/-! DEFINITION. Arithmetic, moves and comparison (R73–R94, R101, R102): opcodes 0x00–0x0F and 0x1E. -/

namespace Sys2Proof.Machine

/-! ### Elements of a lane word (R7) -/

/-- The width of an element. -/
def elemBits (t : Tag) : Nat := 32 / nelem t

/-- `ELEM(x, t, j)`. -/
def elemOf (t : Tag) (x : Word) (j : Nat) : Nat := bitsOf x.toNat (elemBits t * j) (elemBits t)

/-- A lane word from its elements. -/
def ofElems (t : Tag) (f : Nat → Nat) : Word :=
  BitVec.ofNat 32 (((List.range (nelem t)).map fun j => f j % 2 ^ elemBits t * 2 ^ (elemBits t * j)).sum)

/-- An element as an integer, signed under a SINT tag (R75). -/
def elemInt (t : Tag) (e : Nat) : Int := if isSint t then signedOf e (elemBits t) else (e : Int)

/-- The floating format of a tag. -/
def fmtOf (t : Tag) : Option Fmt :=
  match t with
  | .f32 => some fmtF32 | .f16x2 => some fmtF16 | .bf16x2 => some fmtBF16 | .e4m3x4 => some fmtE4M3
  | .e5m2x4 => some fmtE5M2 | _ => none

/-- FTZ of a gang (Table 1-2). -/
def Gang.ftz (g : Gang) : Bool := g.fpmode.getLsbD 2

/-- The hash of the issuing word (R33). -/
def State.hash (s : State) : Nat := wordHash s.cur.widx.toNat

/-- What a floating element of lane `l` depends on besides its operands (R10, R33). -/
def State.fenv (s : State) (f : Fmt) (l : Nat) : FEnv :=
  { rnd := if s.me.fpmode.getLsbD 0 then .z else .ne, ftz := s.me.ftz, newNan := f.nanOf l s.hash }

/-- An element operation by tag: on integers as numbers, wrapped (R75), or on floating bits. -/
def State.elem2 (s : State) (t : Tag) (l : Nat) (fi : Int → Int → Int) (ff : Fmt → FEnv → Nat → Nat → Nat) (x y : Word) : Word :=
  match fmtOf t with
  | some f => ofElems t fun j => ff f (s.fenv f l) (elemOf t x j) (elemOf t y j)
  | none => ofElems t fun j => wrapNat (fi (elemInt t (elemOf t x j)) (elemInt t (elemOf t y j))) (elemBits t)

def State.elem1 (s : State) (t : Tag) (l : Nat) (fi : Int → Int) (ff : Fmt → FEnv → Nat → Nat) (x : Word) : Word :=
  s.elem2 t l (fun a _ => fi a) (fun f v a _ => ff f v a) x x

namespace State

/-- Write a result per active lane under the tag of `a` (R74). -/
def writeLike (s : State) (h : Hdr) (d a : BitVec 6) (f : Nat → Word) : State :=
  s.writeLanes h.guard d.toNat f fun k => s.tagOf k a.toNat

/-- The elementwise words of two sources (Table 4-2). -/
def arith2 (s : State) (h : Hdr) (d a b : BitVec 6) (fi : Int → Int → Int) (ff : Fmt → FEnv → Nat → Nat → Nat) : State :=
  s.writeLike h d a fun l => s.elem2 (s.tagOf (l / 4) a.toNat) l fi ff (s.V a.toNat l) (s.V b.toNat l)

/-- The elementwise words of one source (Table 4-3). -/
def arith1 (s : State) (h : Hdr) (d a : BitVec 6) (fi : Int → Int) (ff : Fmt → FEnv → Nat → Nat) : State :=
  s.writeLike h d a fun l => s.elem1 (s.tagOf (l / 4) a.toNat) l fi ff (s.V a.toNat l)

end State

/-- The sign operations of Table 4-3 on floating bits: NaN quieted, else the sign replaced. -/
def Fmt.withSign (f : Fmt) (v : FEnv) (sg : Bool → Bool) (a : Nat) : Nat :=
  let b := f.flush v.ftz a
  match f.decode b with
  | .nan s x => f.quiet s x
  | .inf s => f.sign (sg s) + f.infBits
  | .fin s _ _ => f.sign (sg s) + b % 2 ^ (f.eb + f.fb)

/-- A floating value clamped to +0 … 1.0. -/
def Fmt.unit (f : Fmt) (v : FEnv) (a : Nat) : Nat :=
  let b := f.flush v.ftz a
  let one := f.bias * 2 ^ f.fb
  match f.decode b with
  | .nan s x => f.quiet s x
  | .inf s => if s then 0 else one
  | .fin s _ _ => if s then 0 else min b one

/-- Conditions of `cmp` (Table 4-5). -/
inductive Cond where
  | eq | ne | lt | le | gt | ge | unord | ord
  deriving DecidableEq, Repr

/-- A condition given whether a < b and b < a. -/
def Cond.holds (c : Cond) (lt gt : Bool) : Bool :=
  match c with
  | .eq => !lt && !gt | .ne => lt || gt | .lt => lt | .le => !gt | .gt => gt | .ge => !lt
  | .unord => false | .ord => true

def FVal.isNan : FVal → Bool
  | .nan _ _ => true | _ => false

/-- A condition on two elements (R92, R93). -/
def Cond.elem (c : Cond) (t : Tag) (ftz : Bool) (a b : Nat) : Bool :=
  match fmtOf t with
  | some f =>
    let x := f.operand ftz a
    let y := f.operand ftz b
    if x.isNan || y.isNan then decide (c = .ne) || decide (c = .unord)
    else c.holds (fLt false x y) (fLt false y x)
  | none => c.holds (decide (elemInt t a < elemInt t b)) (decide (elemInt t b < elemInt t a))

namespace State

/-- Whether a lane meets a condition: every element does (R92). -/
def cmpLane (s : State) (c : Cond) (a b : BitVec 6) (l : Nat) : Bool :=
  let t := s.tagOf (l / 4) a.toNat
  (List.range (nelem t)).all fun j => c.elem t s.me.ftz (elemOf t (s.V a.toNat l) j) (elemOf t (s.V b.toNat l) j)

/-- Write a predicate per active lane. -/
def writePred (s : State) (g : BitVec 3) (p : BitVec 3) (f : Nat → Bool) : State :=
  s.cur.slices.foldl (fun s' k => s'.writeP p.toNat k (s.act g k) fun j => f (4 * k + j)) s

def cmp (s : State) (h : Hdr) (c : Cond) (p : BitVec 3) (a b : BitVec 6) : State :=
  s.writePred h.guard p (s.cmpLane c a b)

/-- Write the halves of a 64-bit value per active lane, tagged A64. -/
def write64 (s : State) (g : BitVec 3) (d : Nat) (f : Nat → BitVec 64) : State :=
  (s.writeLanes g d (fun l => (f l).truncate 32) fun _ => .a64).writeLanes g (d + 1) (fun l => (f l >>> 32).truncate 32) fun _ => .a64

/-- One lane of `dot4` (R101, R102). -/
def dot4Lane (s : State) (a b d : BitVec 6) (l : Nat) : Word :=
  let t := s.tagOf (l / 4) a.toNat
  let x := s.V a.toNat l
  let y := s.V b.toNat l
  let z := s.V d.toNat l
  let js := List.range 4
  match fmtOf t with
  | none => BitVec.ofInt 32 ((js.map fun j => elemInt t (elemOf t x j) * elemInt t (elemOf t y j)).sum + z.toNat)
  | some f =>
    let new := fmtF32.nanOf l s.hash
    let α := (js.map fun j => f.emax (elemOf t x j) + f.emax (elemOf t y j) + 2).foldl max (fmtF32.emax z.toNat + 1)
    let terms := (js.map fun j => prodTerm f (nanCarry f fmtF32) new (elemOf t x j) (elemOf t y j)) ++
      [elemTerm fmtF32 fmtF32.quiet z.toNat]
    BitVec.ofNat 32 ((anchorSum α terms).toFmt fmtF32 α new)

end State

/-! ### Meanings -/

abbrev Out := Host.Outcome State Fault Refusal

/-- R81. -/
def execNop (h : Hd0) (s : State) : Out := s.issueWord (.nop h) State.noFault id

/-- R82. -/
def execAdd (h : Hdr) (d a b : BitVec 6) (s : State) : Out :=
  s.issueWord (.add h d a b) State.noFault fun s => s.arith2 h d a b (· + ·) Fmt.add

/-- R82. -/
def execSub (h : Hdr) (d a b : BitVec 6) (s : State) : Out :=
  s.issueWord (.sub h d a b) State.noFault fun s => s.arith2 h d a b (· - ·) Fmt.sub

/-- R82. -/
def execMul (h : Hdr) (d a b : BitVec 6) (s : State) : Out :=
  s.issueWord (.mul h d a b) State.noFault fun s => s.arith2 h d a b (· * ·) Fmt.mul

/-- R83: the high half of the exact product. -/
def execMulh (h : Hdr) (d a b : BitVec 6) (s : State) : Out :=
  s.issueWord (.mulh h d a b) State.noFault fun s =>
    s.writeLike h d a fun l =>
      let t := s.tagOf (l / 4) a.toNat
      s.elem2 t l (fun x y => x * y / 2 ^ elemBits t) Fmt.mul (s.V a.toNat l) (s.V b.toNat l)

/-- R85: a × b + d. -/
def execFma (h : Hdr) (d a b : BitVec 6) (s : State) : Out :=
  s.issueWord (.fma h d a b) State.noFault fun s =>
    s.writeLike h d a fun l =>
      let t := s.tagOf (l / 4) a.toNat
      let x := s.V a.toNat l
      let y := s.V b.toNat l
      let z := s.V d.toNat l
      ofElems t fun j =>
        let p := elemOf t x j
        let q := elemOf t y j
        let r := elemOf t z j
        match fmtOf t with
        | some f => f.fma (s.fenv f l) p q r
        | none => wrapNat (elemInt t p * elemInt t q + elemInt t r) (elemBits t)

/-- R82, R84. -/
def execMin (h : Hdr) (d a b : BitVec 6) (s : State) : Out :=
  s.issueWord (.min h d a b) State.noFault fun s => s.arith2 h d a b min fun f v => f.pick v.ftz true

/-- R82, R84. -/
def execMax (h : Hdr) (d a b : BitVec 6) (s : State) : Out :=
  s.issueWord (.max h d a b) State.noFault fun s => s.arith2 h d a b max fun f v => f.pick v.ftz false

/-- R86. -/
def execUnopAbs (h : Hdr) (d a : BitVec 6) (s : State) : Out :=
  s.issueWord (.unopAbs h d a) State.noFault fun s =>
    s.arith1 h d a (fun x => (x.natAbs : Int)) fun f v => f.withSign v fun _ => false

/-- R86. -/
def execUnopNeg (h : Hdr) (d a : BitVec 6) (s : State) : Out :=
  s.issueWord (.unopNeg h d a) State.noFault fun s => s.arith1 h d a (fun x => -x) fun f v => f.withSign v fun b => !b

/-- R86. -/
def execUnopNabs (h : Hdr) (d a : BitVec 6) (s : State) : Out :=
  s.issueWord (.unopNabs h d a) State.noFault fun s =>
    s.arith1 h d a (fun x => -(x.natAbs : Int)) fun f v => f.withSign v fun _ => true

/-- R86. -/
def execUnopSat (h : Hdr) (d a : BitVec 6) (s : State) : Out :=
  s.issueWord (.unopSat h d a) State.noFault fun s => s.arith1 h d a (fun x => max x 0) Fmt.unit

/-- R86. -/
def execUnopNot (h : Hdr) (d a : BitVec 6) (s : State) : Out :=
  s.issueWord (.unopNot h d a) State.noFault fun s => s.writeLike h d a fun l => ~~~(s.V a.toNat l)

/-- R87: the literal is one lane word under a's tag. -/
def execAddl (h : Hdr) (d a : BitVec 6) (lit : BitVec 32) (s : State) : Out :=
  s.issueWord (.addl h d a lit) State.noFault fun s =>
    s.writeLike h d a fun l => s.elem2 (s.tagOf (l / 4) a.toNat) l (· + ·) Fmt.add (s.V a.toNat l) lit

/-- R88. -/
def execMovl (h : Hdr) (d : BitVec 6) (t : BitVec 4) (lit : BitVec 32) (s : State) : Out :=
  s.issueWord (.movl h d t lit) State.noFault fun s =>
    s.writeLanes h.guard d.toNat (fun _ => lit) fun _ => Tag.ofCode t.toNat

/-- R89. -/
def execMovi (h : Hdr) (d : BitVec 6) (i : BitVec 12) (s : State) : Out :=
  s.issueWord (.movi h d i) State.noFault fun s =>
    s.writeLanes h.guard d.toNat (fun _ => i.signExtend 32) fun _ => .i32

/-- R90. -/
def execMov (h : Hdr) (d a : BitVec 6) (s : State) : Out :=
  s.issueWord (.mov h d a) State.noFault fun s => s.writeLike h d a (s.V a.toNat)

/-- R91: every lane active on the stack; the guard chooses. -/
def execSel (h : Hdr) (d a b : BitVec 6) (s : State) : Out :=
  s.issueWord (.sel h d a b) State.noFault fun s =>
    s.writeLanes 0 d.toNat (fun l => if s.P h.guard.toNat l then s.V a.toNat l else s.V b.toNat l)
      fun k => s.tagOf k a.toNat

/-- R92. -/
def execCmpEq (h : Hdr) (p : BitVec 3) (a b : BitVec 6) (s : State) : Out :=
  s.issueWord (.cmpEq h p a b) State.noFault fun s => s.cmp h .eq p a b

/-- R92. -/
def execCmpNe (h : Hdr) (p : BitVec 3) (a b : BitVec 6) (s : State) : Out :=
  s.issueWord (.cmpNe h p a b) State.noFault fun s => s.cmp h .ne p a b

/-- R92. -/
def execCmpLt (h : Hdr) (p : BitVec 3) (a b : BitVec 6) (s : State) : Out :=
  s.issueWord (.cmpLt h p a b) State.noFault fun s => s.cmp h .lt p a b

/-- R92. -/
def execCmpLe (h : Hdr) (p : BitVec 3) (a b : BitVec 6) (s : State) : Out :=
  s.issueWord (.cmpLe h p a b) State.noFault fun s => s.cmp h .le p a b

/-- R92. -/
def execCmpGt (h : Hdr) (p : BitVec 3) (a b : BitVec 6) (s : State) : Out :=
  s.issueWord (.cmpGt h p a b) State.noFault fun s => s.cmp h .gt p a b

/-- R92. -/
def execCmpGe (h : Hdr) (p : BitVec 3) (a b : BitVec 6) (s : State) : Out :=
  s.issueWord (.cmpGe h p a b) State.noFault fun s => s.cmp h .ge p a b

/-- R92. -/
def execCmpUnord (h : Hdr) (p : BitVec 3) (a b : BitVec 6) (s : State) : Out :=
  s.issueWord (.cmpUnord h p a b) State.noFault fun s => s.cmp h .unord p a b

/-- R92. -/
def execCmpOrd (h : Hdr) (p : BitVec 3) (a b : BitVec 6) (s : State) : Out :=
  s.issueWord (.cmpOrd h p a b) State.noFault fun s => s.cmp h .ord p a b

/-- R94. -/
def execAdd64 (h : Hdr) (d a b : BitVec 6) (s : State) : Out :=
  s.issueWord (.add64 h d a b) State.noFault fun s =>
    s.write64 h.guard d.toNat fun l => s.V64 a.toNat l + s.V64 b.toNat l

/-- R101. -/
def execDot4 (h : Hdr) (d a b : BitVec 6) (s : State) : Out :=
  s.issueWord (.dot4 h d a b) State.noFault fun s => s.writeLike h d d (s.dot4Lane a b d)

end Sys2Proof.Machine
end

