-- ==== Sys2Proof/Machine/Address.lean ====
section
/-! DEFINITION. The addresses of M-pipe words: segments, alignment, watchpoints, translation and partial performance (R57,
R58, R164–R169, R224, R300, R391). -/

namespace Sys2Proof.Machine

/-- Whether bits 63:57 of an address repeat bit 56 (R58). -/
def canonical (a : Nat) : Bool := bitsOf a 57 7 == (if bitOf a 56 then 127 else 0)

/-- The address of an access of `n` bytes at `off` in segment `e` and whether it is a segment fault (R57, R58). -/
def Gang.address (g : Gang) (e off n : Nat) : Nat × Bool :=
  let sg := g.seg e
  let at_ := sg.base.toNat + off
  if e = 7 then (off % 2 ^ 57, !canonical off)
  else if e = 4 then (at_ % 2 ^ 57, decide (sg.limit.toNat < off + n) || decide (Config.basinTop < at_ + n))
  else (at_ % 2 ^ 57, decide (sg.limit.toNat < off + n) || decide (2 ^ 57 ≤ at_))

/-- A lane's access: its lane number, its address, where it goes. -/
structure LaneAccess where
  lane : Nat
  va : Nat
  res : Except XFail Xlat

/-- The place an access goes to. -/
def LaneAccess.place (x : LaneAccess) (asid : Nat) : Option Place :=
  match x.res with
  | .ok y => some ⟨y.pa, y.kid, y.policy, y.counted, x.va, asid⟩
  | .error _ => none

/-- The failure of an access. -/
def LaneAccess.failure (x : LaneAccess) : Option XFail :=
  match x.res with | .ok _ => none | .error e => some e

namespace State

/-- Whether a range of addresses meets a towpath area of a context's launches (R224). -/
def inTowpath (s : State) (asid va n : Nat) : Bool :=
  s.launches.any fun (_, l) => l.asid == asid &&
    match l.img, l.state with
    | _, .finished _ => false
    | some i, _ => overlap va n i.towBase (8 * i.towSize * l.gangs)
    | none, _ => false

/-- The offset a lane gives, and its address with whether that is a segment fault. -/
def laneOff (s : State) (e : BitVec 3) (a : BitVec 6) (l : Nat) : Nat :=
  if e = 7 then (s.V64 a.toNat l).toNat else (s.V a.toNat l).toNat
def laneAddr (s : State) (e : BitVec 3) (a : BitVec 6) (n l : Nat) : Nat × Bool :=
  let (va, bad) := s.me.address e.toNat (s.laneOff e a l) n
  (va, bad || (e != 4 && s.inTowpath s.me.asid va n))

/-- Segment and alignment faults: the cause of the lowest failing lane, every failing lane in `tmask` (R164). -/
def addressTrap (s : State) (g : BitVec 3) (e : BitVec 3) (a : BitVec 6) (n : Nat) : Option TrapInfo :=
  let fails (l : Nat) : Bool := (s.laneAddr e a n l).2 || (s.laneAddr e a n l).1 % n != 0
  match (s.actLanes g).find? fails with
  | none => none
  | some l₀ =>
    let bad (k : Nat) : BitVec 4 := nibOf fun j => nib (s.act g k) j && fails (4 * k + j)
    s.trapLanes 7 (if (s.laneAddr e a n l₀).2 then 0x06 else 0x07) s.cur.chain bad
      fun k => addrInfo (s.laneAddr e a n (4 * k + lowBit (bad k))).1

/-- The first watchpoint of the context that an access of the active lanes hits (R300); a word passed once does not hit. -/
def watchHit (s : State) (g : BitVec 3) (e : BitVec 3) (a : BitVec 6) (n : Nat) (rd wr : Bool) : Option Watch :=
  if e = 4 ∨ !(s.ctx s.me.asid).debugger ∨ s.me.passWatch = some s.cur.chain then none
  else (s.ctx s.me.asid).watches.find? fun w =>
    ((w.onRead && rd) || (w.onWrite && wr)) && (s.actLanes g).any fun l => overlap (s.laneAddr e a n l).1 n w.va w.size

/-- The lanes of slice `k` that hit a watchpoint. -/
def hitLanes (s : State) (g : BitVec 3) (e : BitVec 3) (a : BitVec 6) (n : Nat) (w : Watch) (k : Nat) : BitVec 4 :=
  nibOf fun j => nib (s.act g k) j && overlap (s.laneAddr e a n (4 * k + j)).1 n w.va w.size

/-- The watchpoint trap. -/
def watchTrap (s : State) (g : BitVec 3) (e : BitVec 3) (a : BitVec 6) (n : Nat) (rd wr : Bool) : Option TrapInfo :=
  (s.watchHit g e a n rd wr).bind fun w =>
    if w.stops then none
    else s.trapLanes 7 0x08 s.cur.chain (s.hitLanes g e a n w)
      fun k => addrInfo (s.laneAddr e a n (4 * k + lowBit (s.hitLanes g e a n w k))).1

/-- The faults of execution of an M-pipe word. -/
def memTrap (s : State) (g : BitVec 3) (e : BitVec 3) (a : BitVec 6) (n : Nat) (rd wr : Bool) : Option TrapInfo :=
  (s.addressTrap g e a n).or (s.watchTrap g e a n rd wr)

/-- A watchpoint hit that stops: the gang stops at the word, which performs nothing (R300, Table 10-5). -/
def watchStop (s : State) (g : BitVec 3) (e : BitVec 3) (a : BitVec 6) (n : Nat) (w : Watch) : State :=
  let hits := (s.actLanes g).filter fun l => overlap (s.laneAddr e a n l).1 n w.va w.size
  let k := (hits.headD 0) / 4
  let t := s.stopGang s.cur.gang
    { s.stopAt s.cur.gang k 3 with
      hit := lanesWord hits, widx := s.cur.chain, addr := (s.laneAddr e a n (hits.headD 0)).1 }
  let t := t.driveLines s.me.quarterId Trigger.onWatch
  { t with cur := { t.cur with raised := some (7, t.cur.slot) } }

/-! ### Translation, and the lanes that do not perform (R164, R391) -/

/-- The translation of a lane's access; a Basin access needs none. -/
def laneXlat (s : State) (e : BitVec 3) (a : BitVec 6) (n : Nat) (use : Use) (l : Nat) : LaneAccess :=
  let va := (s.laneAddr e a n l).1
  ⟨l, va, if e = 4 then .ok ⟨keyAt basinSpace s.me.core va, 0, 0, false, 0, 0, 0⟩
          else s.translate (clusterOfCore s.me.core) s.me.asid s.me.reach va use l⟩

/-- The lanes of slice `k` among some lanes. -/
def lanesOf (ls : List Nat) (k : Nat) : BitVec 4 := nibOf fun j => ls.contains (4 * k + j)

/-- Park the slices of lanes that do not perform: a fault record and a park id for each faulting page (R391). -/
def parkLanes (s : State) (kind : Nat) (pk : ParkKind) (bad : List LaneAccess) : State :=
  let g := s.cur.gang
  let d := dieOfCore s.me.core
  let page (x : LaneAccess) : Option Nat := x.failure.map XFail.page
  let firsts := bad.foldl (fun (ps : List LaneAccess) x => if ps.any fun y => page y == page x then ps else ps ++ [x]) []
  let (s, ids) := firsts.foldl (fun (acc : State × List (Option Nat × Nat)) x =>
    let (s, ids) := acc
    let lanes := (bad.filter fun y => page y == page x).map LaneAccess.lane
    match x.failure with
    | some f => (s.newPark g (x.lane / 4) s.cur.widx.toNat kind x.va f (lanesWord lanes), ids ++ [(some f.page, s.nextPark d)])
    | none => (s, ids)) (s, [])
  let slices := s.cur.slices.filter fun k => bad.any fun x => x.lane / 4 == k
  slices.foldl (fun s k =>
    let mine := bad.filter fun x => x.lane / 4 == k
    let my := (ids.filter fun (p, _) => mine.any fun x => page x == p).map Prod.snd
    s.parkSlice g k s.cur.widx s.cur.next (lanesOf (mine.map LaneAccess.lane) k) my pk) s

/-- The granule whose accesses a die counts (R370). -/
def granule (p : Place) : Nat := p.pa / 2 ^ 16

/-- Count one access of a word to each granule that the places name. -/
def countPlaces (s : State) (ps : List Place) : State :=
  let once := ps.foldl (fun (m : List Place) p =>
    if !p.counted || m.any fun q => granule q == granule p then m else m ++ [p]) []
  once.foldl (fun s p => s.countAccess (dieOfCore s.me.core) p.asid p.pa (some s.cur.gang)) s

/-- The bank cycles of a Basin access (R169). -/
def bankCycles (s : State) (e : BitVec 3) (a : BitVec 6) (n : Nat) (ls : List Nat) : Nat :=
  if e = 4 then
    let words := (ls.flatMap fun l => (List.range (ceilDiv n 4)).map ((s.laneAddr e a n l).1 / 4 + ·)).foldl addSorted []
    ((List.range 32).map fun b => (words.filter fun w => w % 32 == b).length).foldl max 0
  else 0

/-- PERFORM AN M-PIPE WORD over its active lanes: the lanes that translate go on with `act`, in ascending order, and the
others park their slices; a watchpoint that stops nullifies the word. -/
def memWord (s : State) (g : BitVec 3) (e : BitVec 3) (a : BitVec 6) (n : Nat) (use : Use) (kind : Nat) (rd wr : Bool)
    (act : State → List (Nat × Place) → State) : State :=
  match s.watchHit g e a n rd wr with
  | some w => s.watchStop g e a n w
  | none =>
    let tried := (s.actLanes g).map (s.laneXlat e a n use)
    let good := tried.filterMap fun x => (x.place s.me.asid).map fun p => (x.lane, p)
    let bad := tried.filter fun x => x.failure.isSome
    let t := act s good
    let t := { t with cur := { t.cur with delay := max t.cur.delay (s.bankCycles e a n (s.actLanes g) - 1) } }
    let t := tried.foldl (fun t x => match x.res with
      | .ok y => if e = 4 then t else t.keepXlat (clusterOfCore s.me.core) s.me.asid y
      | .error _ => t) t
    t.parkLanes kind .lanes bad

end State

end Sys2Proof.Machine
end

