-- ==== Sys2Proof/Machine/Loads.lean ====
section
/-! DEFINITION. Loads and stores (R165–R172, R240–R242, R249, R370). -/

namespace Sys2Proof.Machine

/-- The tag a load's t field gives (Table 2-7). -/
def loadTag (t : BitVec 3) : Tag :=
  match t.toNat with
  | 0 => .raw | 1 => .i32 | 2 => .u32 | 3 => .f32 | 4 => .f16x2 | 5 => .bf16x2 | 6 => .i8x4 | _ => .idx

/-- A loaded value as a lane word: sign-extended under t = 1 when it is shorter than a word (R170). -/
def extend (t : BitVec 3) (n v : Nat) : Word :=
  if n < 4 ∧ t = 1#3 then BitVec.ofInt 32 (signedOf v (8 * n)) else BitVec.ofNat 32 v

/-- What the lanes of a load returned. -/
structure LaneGot where
  lane : Nat
  val : Nat
  bad : Bool

namespace State

/-- Mark lanes of a register poisoned (R168). -/
def poisonReg (s : State) (k n : Nat) (m : BitVec 4) : State :=
  if m = 0 then s
  else s.modSl k fun x =>
    let st := storageOf s.me.allot x.wb n
    { x with regs := x.regs.put st (let r := x.regs.getOr st Reg.zero; { r with poison := r.poison ||| m }) }

/-- Whether a slice has an access under way to an item that lanes of two slices read. -/
def contests (s : State) (ps : List (Nat × Place)) (k : Nat) : Bool :=
  let shared (p : Nat × Place) : Bool := ps.any fun q => q.1 / 4 != p.1 / 4 && q.2.pa == p.2.pa
  (s.sl k).pend.any fun e => ps.any fun p => overlap e.pa e.size p.2.pa 16 && shared p

/-- Before the lanes of a word read, what its slices have under way to an item that lanes of two of them read is taken, and the lines that a
core holds of their places under another name leave its L1, so that every lane that reads an item finds the same (R167, R364). -/
def dropAliases (s : State) (ps : List (Nat × Place)) : State :=
  let s := s.cur.slices.foldl (fun t k => if s.contests ps k then t.drain s.cur.gang k else t) s
  ps.foldl (fun s (_, p) => if keySpace p.pa = basinSpace ∨ p.policy = 2 then s else s.dropAlias s.me.core p) s

/-- What a lane that read `got` is given: the device's poisoned-value marker where a word of it carries an uncorrectable error
(R168). -/
def Got.value (got : Got) : Nat := if got.bad then Config.poisonedValue else got.val

/-- Read the lanes in ascending order by `rd`; one whose item a lower lane has read receives the same (R167): `seen` holds those. -/
def readFrom (rd : State → Nat → Place → Got) : List (Place × Nat × Bool) → State → List (Nat × Place) → State × List LaneGot × List Place
  | _, s, [] => (s, [], [])
  | seen, s, (l, p) :: r =>
    match seen.find? fun x => x.1.pa == p.pa && x.1.kid == p.kid with
    | some (_, v, bad) =>
      let (s, vs, fs) := readFrom rd seen s r
      (s, ⟨l, v, bad⟩ :: vs, fs)
    | none =>
      let got := rd s l p
      let s := if got.bad then got.st.noteBad got.st.me.core got.st.me.asid p.pa else got.st
      let (s, vs, fs) := readFrom rd ((p, got.value, got.bad) :: seen) s r
      (s, ⟨l, got.value, got.bad⟩ :: vs, if got.far then p :: fs else fs)

/-- Read every lane in ascending order by `rd`. -/
def readLoop (s : State) (rd : State → Nat → Place → Got) (ps : List (Nat × Place)) : State × List LaneGot × List Place :=
  readFrom rd [] s ps

/-- Write what the lanes returned into register `n` of every slice. -/
def writeGot (s : State) (n : Nat) (vs : List LaneGot) (f : Nat → Word) (t : Nat → Tag) : State :=
  s.cur.slices.foldl (fun s k =>
    let m := lanesOf (vs.map LaneGot.lane) k
    let val (j : Nat) : Nat := ((vs.find? fun v => v.lane == 4 * k + j).map LaneGot.val).getD 0
    (s.write k n m (fun j => f (val j)) (t k)).poisonReg k n (lanesOf ((vs.filter LaneGot.bad).map LaneGot.lane) k)) s

/-- A load of `n` bytes (1, 2 or 4) under the tag of `t`. -/
def loadWord (s : State) (h : Hdr) (d a : BitVec 6) (e t : BitVec 3) (n : Nat) (path : Bool) (rd : State → Nat → Place → Got) : State :=
  s.memWord h.guard e a n .read 1 true false fun s ps =>
    let (s, vs, fs) := (if path then s else s.dropAliases ps).readLoop rd ps
    (s.writeGot d.toNat vs (extend t n) fun _ => loadTag t).countPlaces fs

/-- The reads of a lane: Fetch, or a path cache's. -/
def fetchLane (n : Nat) (s : State) (l : Nat) (p : Place) : Got := s.fetch s.cur.gang (l / 4) p n true
def pathLane (c : Bool) (n : Nat) (s : State) (_ : Nat) (p : Place) : Got := s.pathRead s.me.core c p n

end State

/-- R170. -/
def execLdb (h : Hdr) (d a : BitVec 6) (e t : BitVec 3) (s : State) : Out :=
  s.issueWord (.ldb h d a e t) (fun s => s.memTrap h.guard e a 1 true false)
    fun s => s.loadWord h d a e t 1 false (State.fetchLane 1)

/-- R170. -/
def execLdh (h : Hdr) (d a : BitVec 6) (e t : BitVec 3) (s : State) : Out :=
  s.issueWord (.ldh h d a e t) (fun s => s.memTrap h.guard e a 2 true false)
    fun s => s.loadWord h d a e t 2 false (State.fetchLane 2)

/-- R170. -/
def execLdw (h : Hdr) (d a : BitVec 6) (e t : BitVec 3) (s : State) : Out :=
  s.issueWord (.ldw h d a e t) (fun s => s.memTrap h.guard e a 4 true false)
    fun s => s.loadWord h d a e t 4 false (State.fetchLane 4)

/-- R170: t = 0 tags both registers A64. Where either memory word of a lane carries an error, both its lane words are marked
(DESIGN CHOICE, log 65). -/
def execLdd (h : Hdr) (d a : BitVec 6) (e t : BitVec 3) (s : State) : Out :=
  let tag := if t = 0 then Tag.a64 else loadTag t
  s.issueWord (.ldd h d a e t) (fun s => s.memTrap h.guard e a 8 true false) fun s =>
    s.memWord h.guard e a 8 .read 1 true false fun s ps =>
      let (s, vs, fs) := (s.dropAliases ps).readLoop (State.fetchLane 8) ps
      ((s.writeGot d.toNat vs (BitVec.ofNat 32) fun _ => tag).writeGot (d.toNat + 1) vs
        (fun v => BitVec.ofNat 32 (v / 2 ^ 32)) fun _ => tag).countPlaces fs

/-- R171: the constant path. -/
def execLdc (h : Hdr) (d a : BitVec 6) (t : BitVec 3) (s : State) : Out :=
  s.issueWord (.ldc h d a t) (fun s => s.memTrap h.guard 5 a 4 true false)
    fun s => s.loadWord h d a 5 t 4 true (State.pathLane true 4)

/-- R171: the tile path. -/
def execLdt (h : Hdr) (d a : BitVec 6) (e t : BitVec 3) (s : State) : Out :=
  s.issueWord (.ldt h d a e t) (fun s => s.memTrap h.guard e a 4 true false)
    fun s => s.loadWord h d a e t 4 true (State.pathLane false 4)

namespace State

/-- Mark the first access to each granule among those through a leaf that counts (R370). -/
def markCounts (ps : List (Nat × Place)) : List (Nat × Place) :=
  ps.foldl (fun m (l, p) =>
    m ++ [(l, if m.any fun q => q.2.counted && granule q.2 == granule p then { p with counted := false } else p)]) []

/-- Append each lane's entry to the pending buffer of its slice (R241). -/
def pushLanes (s : State) (ps : List (Nat × Place)) (f : Nat → Place → Pend) : State :=
  (markCounts ps).foldl (fun s (l, p) => s.pushPend s.cur.gang (l / 4) [f l p]) s

/-- A store of the low `n` bytes of a lane's value (R172). -/
def storeWord (s : State) (h : Hdr) (d a : BitVec 6) (e : BitVec 3) (n : Nat) : State :=
  s.memWord h.guard e a n .write 2 false true fun s ps =>
    s.pushLanes ps fun l p =>
      let v := if n = 8 then (s.V64 d.toNat l).toNat else (s.V d.toNat l).toNat % 2 ^ (8 * n)
      { kind := .store, pa := p.pa, size := n, data := v, data2 := 0, va := p.va, kid := p.kid, counted := p.counted,
        widx := s.cur.widx.toNat, lane := l % 4, dst := 0, tag := .raw, region := none, stamp := s.fresh }

end State

/-- R172. -/
def execStb (h : Hdr) (d a : BitVec 6) (e : BitVec 3) (s : State) : Out :=
  s.issueWord (.stb h d a e) (fun s => s.memTrap h.guard e a 1 false true) fun s => s.storeWord h d a e 1

/-- R172. -/
def execSth (h : Hdr) (d a : BitVec 6) (e : BitVec 3) (s : State) : Out :=
  s.issueWord (.sth h d a e) (fun s => s.memTrap h.guard e a 2 false true) fun s => s.storeWord h d a e 2

/-- R172. -/
def execStw (h : Hdr) (d a : BitVec 6) (e : BitVec 3) (s : State) : Out :=
  s.issueWord (.stw h d a e) (fun s => s.memTrap h.guard e a 4 false true) fun s => s.storeWord h d a e 4

/-- R172. -/
def execStd (h : Hdr) (d a : BitVec 6) (e : BitVec 3) (s : State) : Out :=
  s.issueWord (.std h d a e) (fun s => s.memTrap h.guard e a 8 false true) fun s => s.storeWord h d a e 8

end Sys2Proof.Machine
end

