-- ==== Sys2Proof/Machine/Atomics.lean ====
section
/-! DEFINITION. Atomics and sum cells (R173–R178, R241, R244). -/

namespace Sys2Proof.Machine

namespace State

/-- Append an RMW entry for each lane (R241): `kind`, the access size, the operands. The words of the chain that follow read the
register as it was (R41, R56). -/
def rmwWord (s : State) (h : Hdr) (d a : BitVec 6) (e : BitVec 3) (n : Nat) (kind : PendKind) (data data2 : Nat → Word) : State :=
  s.memWord h.guard e a n .write 3 true true fun s ps =>
    let note (s : State) (k : Nat) : State :=
      if kind = .asum then s else s.noteOld k (.v (s.storage k d.toNat)) (lanesOf (ps.map Prod.fst) k) (s.stored k (s.storage k d.toNat))
    (s.cur.slices.foldl note s).pushLanes ps fun l p =>
      { kind := kind, pa := p.pa, size := n, data := (data l).toNat, data2 := (data2 l).toNat, va := p.va, kid := p.kid,
        counted := p.counted, widx := s.cur.widx.toNat, lane := l % 4, dst := s.storage (l / 4) d.toNat,
        tag := s.tagOf (l / 4) d.toNat, region := none, stamp := s.fresh }

/-- `atom` under operation `op` (Table 6-5). -/
def atomWord (s : State) (h : Hdr) (d a : BitVec 6) (e : BitVec 3) (op : Nat) : State :=
  s.rmwWord h d a e 4 (.atom op) (s.V d.toNat) fun _ => 0

/-- The faults of an RMW word of `n` bytes. -/
def rmwTrap (h : Hdr) (a : BitVec 6) (e : BitVec 3) (n : Nat) (s : State) : Option TrapInfo := s.memTrap h.guard e a n true true

end State

/-- R173. -/
def execAtomAdd (h : Hdr) (d a : BitVec 6) (e : BitVec 3) (s : State) : Out :=
  s.issueWord (.atomAdd h d a e) (State.rmwTrap h a e 4) fun s => s.atomWord h d a e 0

/-- R173. -/
def execAtomMin (h : Hdr) (d a : BitVec 6) (e : BitVec 3) (s : State) : Out :=
  s.issueWord (.atomMin h d a e) (State.rmwTrap h a e 4) fun s => s.atomWord h d a e 1

/-- R173. -/
def execAtomMax (h : Hdr) (d a : BitVec 6) (e : BitVec 3) (s : State) : Out :=
  s.issueWord (.atomMax h d a e) (State.rmwTrap h a e 4) fun s => s.atomWord h d a e 2

/-- R173. -/
def execAtomAnd (h : Hdr) (d a : BitVec 6) (e : BitVec 3) (s : State) : Out :=
  s.issueWord (.atomAnd h d a e) (State.rmwTrap h a e 4) fun s => s.atomWord h d a e 3

/-- R173. -/
def execAtomOr (h : Hdr) (d a : BitVec 6) (e : BitVec 3) (s : State) : Out :=
  s.issueWord (.atomOr h d a e) (State.rmwTrap h a e 4) fun s => s.atomWord h d a e 4

/-- R173. -/
def execAtomXor (h : Hdr) (d a : BitVec 6) (e : BitVec 3) (s : State) : Out :=
  s.issueWord (.atomXor h d a e) (State.rmwTrap h a e 4) fun s => s.atomWord h d a e 5

/-- R173. -/
def execAtomExch (h : Hdr) (d a : BitVec 6) (e : BitVec 3) (s : State) : Out :=
  s.issueWord (.atomExch h d a e) (State.rmwTrap h a e 4) fun s => s.atomWord h d a e 6

/-- R173. -/
def execAtomAddwrap (h : Hdr) (d a : BitVec 6) (e : BitVec 3) (s : State) : Out :=
  s.issueWord (.atomAddwrap h d a e) (State.rmwTrap h a e 4) fun s => s.atomWord h d a e 7

/-- R174. -/
def execCas (h : Hdr) (d a : BitVec 6) (e : BitVec 3) (s : State) : Out :=
  s.issueWord (.cas h d a e) (State.rmwTrap h a e 4) fun s => s.rmwWord h d a e 4 .cas (s.V d.toNat) (s.V (d.toNat + 1))

/-- R177: no register is written. -/
def execAsum (h : Hdr) (d a : BitVec 6) (e : BitVec 3) (s : State) : Out :=
  s.issueWord (.asum h d a e) (State.rmwTrap h a e 32) fun s => s.rmwWord h d a e 32 .asum (s.V d.toNat) fun _ => 0

/-- An `srd` lane reads a sum cell at its home (R178, R244), after the slice's older entries that overlap it. -/
def State.snapLane (s : State) (l : Nat) (p : Place) : Got :=
  let k := l / 4
  let s := if (s.sl k).pend.any fun q => overlap q.pa q.size p.pa 32 then s.drain s.cur.gang k else s
  ⟨s, (cellValue (s.homeRead p.pa p.kid 32)).toNat, s.poisoned p.pa 32, true⟩

/-- R178. -/
def execSrd (h : Hdr) (d a : BitVec 6) (e : BitVec 3) (s : State) : Out :=
  s.issueWord (.srd h d a e) (fun s => s.memTrap h.guard e a 32 true false) fun s =>
    s.memWord h.guard e a 32 .read 1 true false fun s ps =>
      let (s, vs, fs) := s.readLoop State.snapLane ps
      (s.writeGot d.toNat vs (BitVec.ofNat 32) fun _ => .f32).countPlaces (fs.filter fun p => keySpace p.pa != basinSpace)

end Sys2Proof.Machine
end

