-- ==== Sys2Proof/Machine/Barrier.lean ====
section
/-! DEFINITION. Barrier objects (R259–R261, R187): their place in Basin, completion of a phase, landings, faults, joins. -/

namespace Sys2Proof.Machine

/-- A barrier object (Table 9-2). -/
structure Barrier where
  pending : Nat
  expect : Nat
  remain : Nat
  group : Nat
  fault : Bool
  armed : Bool
  phase : Bool
  stamp : Word
  deriving DecidableEq, Repr

/-- The Basin key of a barrier. -/
def barrierKey (core n : Nat) : Nat := keyAt basinSpace core (Config.basinTop + 16 * n)

/-- The 16 bytes of a barrier object. -/
def Barrier.bytes (b : Barrier) : List Byte :=
  leBytes 4 b.pending ++ leBytes 2 b.remain ++ leBytes 2 b.expect ++
    leBytes 4 (b.group * 256 + flagBit b.fault 2 + flagBit b.armed 1 + flagBit b.phase 0) ++ leBytes 4 b.stamp.toNat

/-- A barrier object from its bytes. -/
def Barrier.ofBytes (r : List Byte) : Barrier :=
  { pending := recNat r 0 4, remain := recNat r 4 2, expect := recNat r 6 2, group := recNat r 9 1,
    fault := bitOf (recNat r 8 1) 2, armed := bitOf (recNat r 8 1) 1, phase := bitOf (recNat r 8 1) 0,
    stamp := BitVec.ofNat 32 (recNat r 12 4) }

/-- Record a fault; the first one stands (R261). -/
def Barrier.fail (b : Barrier) (code index detail : Nat) : Barrier :=
  if b.fault then b
  else { b with fault := true, stamp := BitVec.ofNat 32 (code % 256 + index % 256 * 2 ^ 8 + detail % 2 ^ 15 * 2 ^ 16) }

/-- The completion test after an update that changed a count (R260). -/
def Barrier.settle (b : Barrier) (now : Nat) : Barrier :=
  if b.pending = 0 ∧ b.remain = 0 then
    { b with phase := !b.phase, remain := b.expect, stamp := if b.fault then b.stamp else BitVec.ofNat 32 now }
  else b

/-- A landing of `n` bytes of record `index` (Table 9-3). -/
def Barrier.land (b : Barrier) (n index now : Nat) : Barrier :=
  if !b.armed then b.fail 2 index 0
  else if b.pending < n then { b.fail 1 index 0 with pending := 0 }
  else if n = 0 then b
  else Barrier.settle { b with pending := b.pending - n } now

namespace State

def barrier (s : State) (core n : Nat) : Barrier := Barrier.ofBytes (Memory.bytes s.mem (barrierKey core n) 16)

def setBarrier (s : State) (core n : Nat) (b : Barrier) : State :=
  { s with mem := Memory.writeBytes s.mem (barrierKey core n) b.bytes }

/-- Whether a live engine thread counts on a barrier. -/
def counting (s : State) (core n : Nat) : Bool :=
  s.threads.any fun (_, t) => t.core == core && t.barrier == n && t.ended.isNone

/-- The barrier fault a word raises on barrier `n`: an id beyond 2047, or a fault bit that is set (R151, R152, R298). -/
def barrierFault (s : State) (n : Nat) : Option TrapInfo :=
  let info (w : Word) : TrapInfo :=
    { rank := 7, cause := 0x14, slot := s.cur.slot, imp := false,
      who := s.cur.slices.map fun k => ⟨k, (s.sl k).mask, BitVec.ofNat 32 n, w, s.cur.widx⟩ }
  if Config.barriers ≤ n then some (info 0)
  else
    let b := s.barrier s.me.core n
    if b.fault then some (info b.stamp) else none

/-- The join of a slice with the threads counted on a barrier, then an Acquire (R253). -/
def joinBarrier (s : State) (g k n : Nat) : State :=
  let c := (s.gang g).core
  let done (t : Nat) : Bool := (s.thread t).ended.isSome && (s.thread t).barrier == n && (s.thread t).core == c
  (s.modSlice g k fun x => { x with forked := x.forked.filter fun t => !done t }).acquire c (dieOfCore c) g

end State

end Sys2Proof.Machine
end

