-- ==== Sys2Proof/Machine/Control.lean ====
section
/-! DEFINITION. Control words (R133–R140, R143–R149, R151–R153, R156, R157): transfers, the reconvergence stack, calls and
returns, the points where slices wait, ends of lanes and gangs, traps, regions and pre-emption points. -/

namespace Sys2Proof.Machine

namespace State

/-! ### Transfers (R134, R136) -/

/-- The branch-target trap: in a slice with taking lanes, the active lanes whose word differs from that of the lowest active one
(R136). -/
def agreeTrap (s : State) (g : BitVec 3) (a : BitVec 6) : Option TrapInfo :=
  let differ (k : Nat) : BitVec 4 :=
    let m := (s.sl k).mask
    nibOf fun j => decide (s.act g k ≠ 0) && nib m j && decide (s.V a.toNat (4 * k + j) ≠ s.V a.toNat (4 * k + lowBit m))
  s.trapLanes 7 0x0B s.cur.widx differ fun _ => (0, 0)

/-- The target a slice holds in a register: that of its lowest active lane, of lane 0 with none (DESIGN CHOICE, log 69). -/
def laneTarget (s : State) (g : BitVec 3) (a : BitVec 6) (k : Nat) : Word := s.V a.toNat (4 * k + lowBit (s.act g k))

/-- A slice would push onto a full stack (R134). -/
def overflow (s : State) (g : BitVec 3) (k : Nat) : Bool :=
  decide (s.act g k ≠ 0) && decide (s.act g k ≠ (s.sl k).mask) && decide (8 ≤ (s.sl k).stack.length)

/-- The traps of a branch. -/
def branchTrap (s : State) (g : BitVec 3) (dst : Nat → Word) : Option TrapInfo :=
  (s.targetTrap (s.takes g) dst).or (trapIf (s.cur.slices.any (s.overflow g)) (s.trapHere 0x0A 0))

/-- Push the lanes that do not take a branch (R134). -/
def diverge (x : Slice) (t : BitVec 4) (next : Word) : Slice :=
  if t = 0 ∨ t = x.mask then x else { x with stack := ⟨next, x.mask &&& ~~~t, x.mask, true⟩ :: x.stack, mask := t }

/-- BRANCH: every issuing slice goes to its target, or on to the next word (R134). -/
def branch (s : State) (g : BitVec 3) (dst : Nat → Word) : State :=
  let n := s.cur.widx + 1
  s.cur.slices.foldl (fun s' k =>
    (s'.modSl k fun x => diverge x (s.act g k) n).goTo k (if s.takes g k then dst k else n)) s

end State

/-- R134. -/
def execBra (h : Hdr) (o : BitVec 18) (s : State) : Out :=
  s.issueWord (.bra h o) (fun s => s.branchTrap h.guard fun _ => s.cur.widx + o.signExtend 32)
    fun s => s.branch h.guard fun _ => s.cur.widx + o.signExtend 32

/-- R136. -/
def execBrx (h : Hdr) (a : BitVec 6) (s : State) : Out :=
  s.issueWord (.brx h a) (fun s => (s.agreeTrap h.guard a).or (s.branchTrap h.guard (s.laneTarget h.guard a)))
    fun s => s.branch h.guard (s.laneTarget h.guard a)

/-- The target of a `join` that goes to the lanes its stack held back. -/
def State.joinTrap (s : State) : Option TrapInfo :=
  s.targetTrap (fun k => (joinSlice (s.sl k)).2.isSome) fun k => (joinSlice (s.sl k)).2.getD 0

/-- R135. -/
def execJoin (h : Hd0) (s : State) : Out :=
  s.issueWord (.join h) State.joinTrap fun s =>
    s.cur.slices.foldl (fun s' k =>
      (s'.modSl k fun x => (joinSlice x).1).goTo k ((joinSlice (s.sl k)).2.getD (s.cur.widx + 1))) s

/-! ### Calls and returns (R137, R138, R217) -/

namespace State

/-- A call's record would pass the towpath limit (R227). -/
def windowFull (s : State) (g : BitVec 3) (bytes : Nat) : Bool :=
  s.cur.slices.any fun k => decide (s.act g k ≠ 0) && decide (s.me.towSize < (s.sl k).committed + bytes + 1024)

/-- The traps of a call of slide `d`. -/
def callTrap (s : State) (g : BitVec 3) (bytes : Nat) (dst : Nat → Word) : Option TrapInfo :=
  (s.targetTrap (fun k => decide (s.act g k ≠ 0)) dst).or (trapIf (s.windowFull g bytes) (s.trapHere 0x0C 0))

/-- CALL: record the linkage, slide, spill what must be spilled, and go to the callee; or park the whole issuing set with
nothing performed (R137, R217, R219, R222). `first` is applied before, and only where the call is performed. -/
def enterCallee (s : State) (g : BitVec 3) (kind : FrameKind) (d : Nat) (lits : Nat) (vb : Nat → Option VBlock)
    (dst : Nat → Word) (first : State → State) : State :=
  let n := s.cur.widx + BitVec.ofNat 32 (lits + 1)
  let ks := s.cur.slices.filter fun k => decide (s.act g k ≠ 0)
  let inst := s.me.instNo + 1
  let ring := s.me.ring
  let slid := ks.foldl (fun s' k => s'.modSl k fun x =>
    { x.slideIn ring ⟨kind, n, inst, x.stack.length, x.mask, d, false, vb k⟩ with
      mask := s.act g k }.closeRegion) ((first s).modMe fun y => { y with instNo := inst })
  match slid.towAll (fun s k => s.makeRoom s.cur.gang k (s.sl k).frames.length) ks with
  | (.fault e va, who) => s.parkWord 5 .tow who va e (s.act g)
  | (.broken b, who) => s.towBroken s.cur.gang who b
  | (.fine s', _) => s.cur.slices.foldl (fun s' k => s'.goTo k (if s.act g k = 0 then n else dst k)) s'

end State

/-- R137. -/
def execCall (h : Hdr) (l : BitVec 3) (o : BitVec 15) (s : State) : Out :=
  let d := 8 * l.toNat
  s.issueWord (.call h l o)
    (fun s => s.callTrap h.guard (16 * d + roundUp d 16 + 16) fun _ => s.cur.widx + o.signExtend 32)
    fun s => s.enterCallee h.guard .call d 0 (fun _ => none) (fun _ => s.cur.widx + o.signExtend 32) id

/-- R137, R136. -/
def execCallx (h : Hdr) (l : BitVec 3) (a : BitVec 6) (s : State) : Out :=
  let d := 8 * l.toNat
  s.issueWord (.callx h l a)
    (fun s => (s.agreeTrap h.guard a).or (s.callTrap h.guard (16 * d + roundUp d 16 + 16) (s.laneTarget h.guard a)))
    fun s => s.enterCallee h.guard .call d 0 (fun _ => none) (s.laneTarget h.guard a) id

/-- The regang point at which a slice waits: an explicit one by its word, a `ret` by its instance (R138, R139, R148,
R149). -/
def Slice.point (x : Slice) : Option (Nat × Nat) :=
  match x.wait with
  | some .regang | some (.stage _) | some (.rolesw _) => some (0, x.pc.toNat)
  | some .ret => some (1, (x.frames.head?.map Frame.inst).getD 0 % 2 ^ 16)
  | _ => none

namespace State

/-- The live slices that hold a frame of an instance. -/
def instanceOf (s : State) (g inst : Nat) : List Nat :=
  (s.liveSlices g).filter fun k => (s.slice g k).frames.any fun f => f.kind != .trap && f.inst % 2 ^ 16 == inst

/-- The waiting slices of a gang that R139 traps, where `pt` gives each slice's regang point: those at one word with
different depths, or all when every live slice waits at a point, the points differ, and no `ret` of theirs can proceed. -/
def mismatch (s : State) (g : Nat) (pt : Nat → Option (Nat × Nat)) : List Nat :=
  let live := s.liveSlices g
  let at_ (k : Nat) : List Nat := live.filter fun j => decide (pt j = pt k)
  let uneven (k : Nat) : Bool :=
    (pt k).any fun p => p.1 == 0 && (at_ k).any fun j => decide ((s.slice g j).relDepth ≠ (s.slice g k).relDepth)
  match live.find? uneven with
  | some k => at_ k
  | none =>
    let ready (k : Nat) : Bool :=
      (pt k).any fun p => p.1 == 1 && (s.instanceOf g p.2).all fun j => decide (pt j = pt k)
    if live.all (fun k => (pt k).isSome) && live.any (fun k => decide (pt k ≠ pt (live.headD 0))) && !live.any ready
    then live else []

/-- The regang-mismatch trap of slices standing at the words of `at_`. -/
def mismatchTrap (s : State) (g : Nat) (at_ : Nat → Word) (ks : List Nat) : Option TrapInfo :=
  if ks = [] then none
  else some { rank := 7, cause := 0x0F, slot := s.cur.slot, imp := false,
              who := ks.map fun k => ⟨k, (s.slice g k).mask, 0, 0, at_ k⟩,
              each := ks.map fun k => (k, 0x0F, (at_ k).toNat % 3) }

/-- The regang-mismatch trap that the issuing slices raise by arriving at a point (R139). -/
def arrivalTrap (s : State) (pt : Nat → Nat × Nat) : Option TrapInfo :=
  let here (k : Nat) : Bool := s.cur.slices.contains k
  s.mismatchTrap s.cur.gang (fun k => if here k then s.cur.widx else (s.sl k).pc)
    (s.mismatch s.cur.gang fun k => if here k then some (pt k) else (s.sl k).point)

/-- The word to which a slice returns, its frame refilled where that can be done. -/
def retPlace (s : State) (k : Nat) : Option Word :=
  match s.needFrame s.cur.gang k with
  | .fine t => (t.sl k).frames.head?.map Frame.ret
  | _ => none

/-- The traps of `ret` (R36, R42, R138, R208). -/
def retTrap (s : State) : Option TrapInfo :=
  let ks := s.cur.slices
  if ks.any fun k => decide ((s.sl k).relDepth = 0) then some (s.trapHere 0x0D 0)
  else if ks.any fun k => decide (((s.sl k).frames.head?.map Frame.stk) ≠ some (s.sl k).stack.length) then
    some (s.trapHere 0x0E 0)
  else (s.targetTrap (fun k => (s.retPlace k).isSome) fun k => (s.retPlace k).getD 0).or
    (s.arrivalTrap fun k => (1, ((s.sl k).frames.head?.map Frame.inst).getD 0 % 2 ^ 16))

/-- Every issuing slice waits at the word. -/
def waitAll (s : State) (w : Wait) : State := s.cur.slices.foldl (fun s k => s.holdAt k w) s

/-- The linkage mask of a slice's newest frame. -/
def linkMask (s : State) (g k : Nat) : BitVec 4 := ((s.slice g k).frames.head?.map Frame.mask).getD 0

end State

/-- A slice comes to its `ret`: its frame is refilled where it is spilled, and it waits; where the refill faults it parks with its
linkage mask, and its partners wait for it (R222). -/
def State.arrive (s : State) (k : Nat) : State :=
  let g := s.cur.gang
  match s.needFrame g k with
  | .fine t => t.holdAt k .ret
  | .broken b => s.towBroken g k b
  | .fault e va =>
    let m := s.linkMask g k
    (s.newPark g k s.cur.widx.toNat 5 va e (laneWord k m)).parkSlice g k s.cur.widx s.cur.next m
      [s.nextPark (dieOfCore s.me.core)] .tow

/-- R138: refill the frame where it is spilled, then wait for the rest of the call instance. -/
def execRet (h : Hd0) (s : State) : Out :=
  s.issueWord (.ret h) State.retTrap fun s => s.cur.slices.foldl State.arrive s

/-- R139. -/
def execRegang (h : Hd0) (s : State) : Out :=
  s.issueWord (.regang h) (fun s => s.arrivalTrap fun _ => (0, s.cur.widx.toNat)) fun s => s.waitAll .regang

/-- The traps of the words that end a gang's work (R148, R149). -/
def State.nestTrap (s : State) : Option TrapInfo :=
  (State.trapIf (s.cur.slices.any fun k => decide ((s.sl k).wdep ≠ 0)) (s.trapHere 0x10 0)).or
    (s.arrivalTrap fun _ => (0, s.cur.widx.toNat))

/-- R148; the switch itself is the event that follows the meeting of the slices. -/
def execRolesw (h : Hd0) (n : BitVec 2) (s : State) : Out :=
  s.issueWord (.rolesw h n) State.nestTrap fun s => s.waitAll (.rolesw n.toNat)

/-- R149; the item is taken by the event that follows the meeting of the slices. -/
def execStage (h : Hd0) (s : State) : Out := s.issueWord (.stage h) State.nestTrap fun s => s.waitAll (.stage s.now)

/-! ### The end of lanes, slices and gangs (R140, R156, R254) -/

/-- A slice that has ended: its frames, its stack and its towpath are released. -/
def Slice.finish (x : Slice) : Slice :=
  if x.live ≠ 0 then x
  else { x with frames := [], stack := [], towPtr := 0, wait := none, park := none, replay := none, rest := [],
                macroAt := none, levels := [], region := none, flights := [] }

/-- What a slice's `vqual` words reported in frames it leaves by ending (R346). -/
def reportsOf (x : Slice) (m : FMap Nat) : FMap Nat :=
  x.frames.foldl (fun m f => match f.vb with
    | some v => match v.reported with
      | some q => m.put f.inst (min q (m.getOr f.inst q))
      | none => m
    | none => m) m

namespace State

/-- A release write-back that failed in a slice that has ended: a fault of its context, and of the step it ran for (R295,
Table 15-4). -/
def lateFault (s : State) (g k : Nat) : State :=
  match (s.slice g k).failed with
  | none => s
  | some f =>
    let y := s.gang g
    ((s.modSlice g k fun x => { x with failed := none }).modCtx y.asid fun c =>
      { c with fault := some 0x1B, late := some (f.va, wordHash f.store) }).modLaunch y.launch
      fun l => { l with late := l.late.put y.index 0x80000200 }

/-- A gang that has ended leaves its quarter (R140, R213). -/
def endGang (s : State) (g : Nat) : State :=
  let l := (s.gang g).launch
  { (s.modLaunch l fun x => { x with ended := x.ended + 1 }) with gangs := s.gangs.del g }

/-- Take a release of every slice of a list at a word. -/
def releaseAll (s : State) (g : Nat) (widx : Nat) (ks : List Nat) : State := ks.foldl (fun s k => s.release g k widx) s

/-- Whether some slice of a list holds a release that failed. -/
def anyFailed (s : State) (g : Nat) (ks : List Nat) : Bool := ks.any fun k => (s.slice g k).failed.isSome

/-- End the lanes `e` names in every issuing slice, then every slice and the gang that have none left. -/
def finishLanes (s : State) (e : Nat → BitVec 4) : State :=
  let g := s.cur.gang
  let ks := s.cur.slices
  let last := (s.liveSlices g).all fun k => ks.contains k && decide ((s.sl k).live &&& ~~~(e k) = 0)
  let all := s.me.slices.keys
  let s := if last then s.releaseAll g s.cur.widx.toNat all else s
  let s := ks.foldl (fun s k =>
    let x := endLanes (e k) (s.sl k)
    let y := x.proceed (s.cur.widx + 1) 16
    let s := if x.live = 0 then s.modMe fun q => { q with instReports := reportsOf x q.instReports } else s
    (s.modSl k fun _ => y.1.finish).goTo k y.2) s
  if last then (all.foldl (fun s k => s.lateFault g k) s).endGang g else s

end State

/-- The target of an `exit` that leaves a slice no active lane. -/
def State.exitTrap (s : State) (g : BitVec 3) : Option TrapInfo :=
  let x (k : Nat) : Slice := endLanes (s.act g k) (s.sl k)
  s.targetTrap (fun k => decide ((x k).live ≠ 0) && decide (((x k).proceed (s.cur.widx + 1) 16).2 ≠ s.cur.widx + 1))
    fun k => ((x k).proceed (s.cur.widx + 1) 16).2

/-- R140. -/
def execExit (h : Hdr) (s : State) : Out :=
  s.issueWord (.exit h) (fun s => s.exitTrap h.guard) fun s => s.finishLanes (s.act h.guard)

/-- Whether a gang runs a step that the Lock pushed (R156). -/
def State.inStep (s : State) : Bool :=
  match (s.launch s.me.launch).source with | .lock _ => true | _ => false

/-- R156: in a step of the Lock a release completes first, and where it fails no slice ends (R180). Outside such
a step, and inside it, every live lane of the slice ends, not the active ones alone (DESIGN CHOICE for the case outside, log 69). -/
def execStepend (h : Hd0) (s : State) : Out :=
  s.issueWord (.stepend h) State.noFault fun s =>
    let ks := s.cur.slices
    let t := if s.inStep then s.releaseAll s.cur.gang s.cur.widx.toNat ks else s
    if t.anyFailed t.cur.gang ks then { t with cur := { t.cur with raised := some (9, t.cur.slot) } }
    else t.finishLanes fun k => (t.sl k).live

/-! ### Traps and regions (R143–R146, R294) -/

/-- R143: taken after the word. -/
def execTrap (h : Hdr) (i : BitVec 12) (s : State) : Out :=
  s.issueWord (.trap h i) State.noFault fun s =>
    match s.trapLanes 8 0x12 (s.cur.widx + 1) (s.act h.guard) fun _ => (i.zeroExtend 32, 0) with
    | none => s
    | some t => (s.retire (.trap h i)).takeTrap t

/-- R144, R291. -/
def execRft (h : Hd0) (s : State) : Out := s.issueWord (.rft h) State.rftFault (State.returnTrap (.rft h))

/-- R145, R294: START is the next word, whose `dix` the region keeps. -/
def execRegion (h : Hd0) (i : BitVec 12) (s : State) : Out :=
  s.issueWord (.region h i) State.noFault fun s =>
    s.eachSl fun _ x =>
      { x with tregion := ((x.tregion >>> 24) + 1) <<< 24 ||| ((s.cur.widx + 1) &&& 0xFFFFFF),
               region := some ⟨x.mask, x.stack, x.dix + 1, i.toNat⟩ }

namespace State

/-- The Basin range that a `hint` names. -/
def hintWord (s : State) (a : BitVec 6) : Word := ((s.lowest 0).map (s.V a.toNat)).getD 0

/-- The segment fault of a `hint` range beyond the Basin (R146). -/
def hintTrap (s : State) (a : BitVec 6) : Option TrapInfo :=
  let w := (s.hintWord a).toNat
  let start := 64 * (w % 2 ^ 16)
  trapIf (decide (w / 2 ^ 16 ≠ 0) && decide (Config.basinTop < start + 64 * (w / 2 ^ 16)))
    (s.trapAll 7 0x06 s.cur.chain (BitVec.ofNat 32 start))

/-- A register that no live mask names: as it was, or zero tagged RAW (R146; log 5). -/
def deadRegs (s : State) (k : Nat) (live : BitVec 64) (x : Slice) : Slice :=
  { x with regs := (List.range 64).foldl (fun m n =>
      if live.getLsbD n || s.freeBit (512 + 64 * k + n) then m else m.put (storageOf s.me.allot x.wb n) Reg.zero) x.regs }

end State

/-- R146: with a pre-emption of the context pending, the slice stops after the word. -/
def execHint (h : Hd0) (a : BitVec 6) (lo hi : BitVec 32) (s : State) : Out :=
  s.issueWord (.hint h a lo hi) (fun s => s.hintTrap a) fun s =>
    let s' := s.eachSl fun k => s.deadRegs k (hi ++ lo)
    if s.preempting s.me.asid then
      s'.eachSl fun _ x => { x with hint := some (hi ++ lo), hintBasin := s.hintWord a, halted := true }
    else s'

/-- R147; the stop record holds the next word. -/
def execDbrk (h : Hd0) (i : BitVec 12) (s : State) : Out :=
  s.issueWord (.dbrk h i) State.noFault fun s =>
    if (s.ctx s.me.asid).debugger then
      let t := (s.retired (.dbrk h i)).driveLines s.me.quarterId fun y => decide (y.onDbrk = some i.toNat)
      t.stopGang t.cur.gang { t.stopAt t.cur.gang (t.cur.slices.headD 0) 1 with info := i.zeroExtend 32 }
    else s

/-! ### Waiting (R151–R153, R157) -/

/-- The barrier id, or the cycle, that the lowest active lane gives. -/
def State.operand (s : State) (a : BitVec 6) : Option Nat := (s.lowest 0).map fun l => (s.V a.toNat l).toNat
def State.cycleOf (s : State) (a : BitVec 6) : Option Nat := (s.lowest 0).map fun l => (s.V64 a.toNat l).toNat

/-- R151. With no active lane to give the cycle, `sleep` and `sleep.c` do not wait (DESIGN CHOICE, log 69). -/
def execSleep (h : Hd0) (a : BitVec 6) (s : State) : Out :=
  s.issueWord (.sleep h a) State.noFault fun s =>
    match s.cycleOf a with
    | some w => s.waitAll (.sleep w)
    | none => s

/-- R151, with log 69 as for `sleep`. -/
def execSleepC (h : Hd0) (b a : BitVec 6) (s : State) : Out :=
  s.issueWord (.sleepC h b a) (fun s => (s.operand b).bind s.barrierFault) fun s =>
    match s.cycleOf a, s.operand b with
    | some w, some n => s.waitAll (.sleepC w n false)
    | _, _ => s

/-- R152. With no active lane to give the barrier, `wait` and `wait.cnt` do not wait (DESIGN CHOICE, log 69). -/
def execWait (h : Hd0) (p a : BitVec 6) (s : State) : Out :=
  s.issueWord (.wait h p a) (fun s => (s.operand a).bind s.barrierFault) fun s =>
    match s.operand a, s.operand p with
    | some n, some v => s.waitAll (.wait n (bitOf v 0))
    | _, _ => s

/-- R152. -/
def execWaitCnt (h : Hd0) (a : BitVec 6) (s : State) : Out :=
  s.issueWord (.waitCnt h a) (fun s => (s.operand a).bind s.barrierFault) fun s =>
    match s.operand a with
    | some n => s.waitAll (.waitCnt n)
    | none => s

/-- R153. -/
def execPause (h : Hd0) (i : BitVec 12) (s : State) : Out :=
  s.issueWord (.pause h i) State.noFault fun s => if i = 0 then s else s.waitAll (.pause (s.now + i.toNat))

/-- R62, R157: the operations of the microprogram follow, one chain each. -/
def execMacroOp (h : Hd0) (p va vb vc vd : BitVec 6) (s : State) : Out :=
  s.issueWord (.macroOp h p va vb vc vd) State.noFault fun s =>
    s.eachSl fun _ x => { x with pc := s.cur.widx, next := s.cur.next, macroAt := some (s.cur.widx, 0) }

end Sys2Proof.Machine
end

