-- ==== Sys2Proof/Machine/Convert.lean ====
section
/-! DEFINITION. Special functions, division, classification, conversion and block quantisation (R103–R120): the X pipe. -/

namespace Sys2Proof.Machine

/-! ### Conversion (R14, R109–R111) -/

/-- The range of an integer tag. -/
def intMin (t : Tag) : Int := if isSint t then -(2 ^ (elemBits t - 1)) else 0
def intMax (t : Tag) : Int := if isSint t then 2 ^ (elemBits t - 1) - 1 else 2 ^ elemBits t - 1

/-- The rounding a code selects for a value that keeps its range. -/
def codeRound (code draw : Nat) : Round := if code = 1 then .z else if code = 2 then .draw draw else .ne

/-- A finite value into an integer target: rounded, then clamped. -/
def toInt (t : Tag) (code draw : Nat) (s : Bool) (m : Nat) (e : Int) : Nat :=
  let r : Int := roundMag (codeRound code draw) s m e 0
  wrapNat (clampInt (if s then -r else r) (intMin t) (intMax t)) (elemBits t)

/-- One element from tag `u` to tag `t` (Table 1-3). -/
def convElem (ftz : Bool) (u t : Tag) (code draw e : Nat) : Nat :=
  match fmtOf u, fmtOf t with
  | none, none =>
    let v := elemInt u e
    wrapNat (if code = 3 then clampInt v (intMin t) (intMax t) else v) (elemBits t)
  | none, some f => let v := elemInt u e; f.flush ftz (f.convert code draw (decide (v < 0)) v.natAbs 0)
  | some f, none =>
    match f.operand ftz e with
    | .nan _ _ => 0
    | .inf s => wrapNat (if s then intMin t else intMax t) (elemBits t)
    | .fin s m x => toInt t code draw s m x
  | some f, some g =>
    if u = t then f.flush ftz e
    else match f.operand ftz e with
      | .nan s x => nanCarry f g s x
      | .inf s => g.convertInf code s
      | .fin s m x => g.flush ftz (g.convert code draw s m x)

namespace State

/-- Element `i` of a group of registers that starts at `a`, as numbered over the group. -/
def groupElem (s : State) (t : Tag) (a l i : Nat) : Nat := elemOf t (s.V (a + i / nelem t) l) (i % nelem t)

/-- Lane `l` of register `r` of the destination group of a `cvt`. -/
def cvtLane (s : State) (a : BitVec 6) (t : Tag) (code r l : Nat) : Word :=
  let u := s.tagOf (l / 4) a.toNat
  let draw (j : Nat) : Nat := srBits s.me.seed (s.dixNow (l / 4) (s.sl (l / 4))) l j
  ofElems t fun j => convElem s.me.ftz u t code (draw j) (s.groupElem u a.toNat l (r * nelem t + j))

/-- `cvt` in one slice (R110). -/
def cvtSlice (s : State) (h : Hdr) (d a : BitVec 6) (code : Nat) (t : Tag) (s' : State) (k : Nat) : State :=
  (cvtDsts d (BitVec.ofNat 4 t.code) (s.tagOf k a.toNat)).zipIdx.foldl
    (fun s' (_, r) => s'.write k (d.toNat + r) (s.act h.guard k) (fun j => s.cvtLane a t code r (4 * k + j)) t) s'

/-! ### Special functions (R103, R104) -/

/-- `fn` in the exact or the approximate form; on 16-bit formats they agree (R104). -/
def fn (s : State) (h : Hdr) (d a : BitVec 6) (approx : Bool) (f : SFn) : State :=
  s.arith1 h d a id fun m v x => if approx && decide (m = fmtF32) then fnApprox v f x else m.fn v f x

end State

/-! ### Blocks (R15–R18, R114–R120) -/

/-- Fraction bits of a block format: VB3, VB5, VB8 (R15). -/
def blockBits (k : Nat) : Nat := if k = 0 then 2 else if k = 1 then 4 else 7

/-- A block of source elements as its exponent, sub-exponents and fields (R115). `draw` gives an element's draw. -/
def quantBlock (f : Fmt) (ftz : Bool) (fb : Nat) (sr : Bool) (draw : Nat → Nat) (xs : List Nat) : Nat × List Nat × List Nat :=
  let xs := xs.map (f.flush ftz)
  let bad := xs.any fun x => match f.decode x with | .fin .. => false | _ => true
  let quads := xs.length / 4
  if bad then (0xFF, List.replicate quads 0, List.replicate xs.length 0)
  else
    let eb := f.emaxSet xs
    let e := eb + 127
    let τ (k : Nat) : Nat := (min 3 (eb - f.emaxSet ((xs.drop (4 * k)).take 4))).toNat
    let elem (i : Nat) (x : Nat) : Nat :=
      match f.decode x with
      | .fin s m g =>
        let r := roundMag (if sr then .draw (draw i) else .ne) s m g (e - 126 - fb - τ (i / 4))
        (if s then 2 ^ fb else 0) + min r (2 ^ fb - 1)
      | _ => 0
    (e.toNat, (List.range quads).map τ, xs.zipIdx.map fun (x, i) => elem i x)

/-- The scale word of a block (Table 1-5). -/
def scaleWord (k len : Nat) (e : Nat) (τs : List Nat) : Word :=
  BitVec.ofNat 32 (e + 2 ^ 8 * (τs.zipIdx.map fun (t, i) => t * 2 ^ (2 * i)).sum + 2 ^ 24 * len + 2 ^ 25 * k)

/-- What `unpb` reads of a scale word: its exponent and sub-exponents, none for a NaN block (R18, R119). -/
def scaleOf (w : Word) (k len : Nat) : Option (Nat × (Nat → Nat)) :=
  let v := w.toNat
  if bitsOf v 27 5 ≠ 0 ∨ bitsOf v 25 2 ≠ k ∨ bitsOf v 24 1 ≠ len ∨ (len = 0 ∧ bitsOf v 16 8 ≠ 0) ∨ bitsOf v 0 8 = 0xFF then none
  else some (bitsOf v 0 8, fun q => bitsOf v (8 + 2 * q) 2)

/-- The target of `unpb` (Table 4-13). -/
def unpbTag (k : BitVec 5) : Tag :=
  if bitsOf k.toNat 3 2 = 0 then .f32 else if bitsOf k.toNat 3 2 = 1 then .f16x2 else .bf16x2

namespace State

/-- The source elements of `qblk`: those of active lanes, +0.0 elsewhere (R117). -/
def blockSource (s : State) (h : Hdr) (a : BitVec 6) (t : Tag) : List Nat :=
  (List.range (32 * nelem t)).map fun i =>
    let l := i / nelem t
    if s.issuing l && nib (s.act h.guard (l / 4)) (l % 4) then elemOf t (s.V a.toNat l) (i % nelem t) else 0

/-- The blocks of `qblk` under a source tag (R115). -/
def blocks (s : State) (h : Hdr) (a : BitVec 6) (k : BitVec 4) (t : Tag) : List (Nat × List Nat × List Nat) :=
  match fmtOf t with
  | none => []
  | some f =>
    let xs := s.blockSource h a t
    let n := if k.getLsbD 2 then 32 else 16
    (List.range (xs.length / n)).map fun b =>
      let draw (i : Nat) : Nat :=
        let l := (b * n + i) / nelem t
        srBits s.me.seed (s.dixNow (l / 4) (s.sl (l / 4))) l ((b * n + i) % nelem t)
      quantBlock f s.me.ftz (blockBits (k.toNat % 4)) (k.getLsbD 3) draw ((xs.drop (b * n)).take n)

/-- `qblk` (R114–R117). -/
def qblkAct (s : State) (h : Hdr) (d a : BitVec 6) (k : BitVec 4) : State :=
  let t := s.tagOf (s.cur.slices.headD 0) a.toNat
  let bs := s.blocks h a k t
  let w := 1 + blockBits (k.toNat % 4)
  let stream := ((bs.flatMap fun b => b.2.2).zipIdx.map fun (x, i) => x * 2 ^ (w * i)).sum
  let scale (l : Nat) : Word := ((bs[l]?).map fun b => scaleWord (k.toNat % 4) (bitsOf k.toNat 2 1) b.1 b.2.1).getD 0
  (s.writeLanes h.guard d.toNat (fun l => BitVec.ofNat 32 (bitsOf stream (32 * l) 32)) fun _ => .blk).writeLanes
    h.guard (d.toNat + 1) scale fun _ => .scl

/-- One element of `unpb` (R119, R120). Where its stream bits stand in a slice that does not issue and its scale word, in one that does,
is a NaN block, it is the NaN of R119 (DESIGN CHOICE, log 65). -/
def unpbElem (s : State) (a : BitVec 6) (k : BitVec 5) (f : Fmt) (i : Nat) : Nat :=
  let fb := blockBits (k.toNat % 4)
  let n := if k.getLsbD 2 then 32 else 16
  let word (l : Nat) : Nat := if s.issuing l then (s.V a.toNat l).toNat else 0
  let stream := ((List.range 32).map fun l => word l * 2 ^ (32 * l)).sum
  let x := bitsOf stream ((1 + fb) * i) (1 + fb)
  let scale := if s.issuing (i / n) then scaleOf (s.V (a.toNat + 1) (i / n)) (k.toNat % 4) (bitsOf k.toNat 2 1)
               else some (0, fun _ => 0)
  match scale with
  | none => if f = fmtF32 then f.nanOf (i % 32) 0 else nanCarry fmtF32 f false (2 ^ 22 + i % 32 * 2 ^ 17)
  | some (e, τ) =>
    let m := x % 2 ^ fb
    let g := decide (2 ^ fb ≤ x)
    let r := if s.me.fpmode.getLsbD 0 then Round.z else .ne
    f.result (if f = fmtF32 then .ne else r) s.me.ftz g m ((e : Int) - 126 - fb - τ (i % n / 4))

end State

/-! ### Meanings -/

/-- R103. -/
def execFnRcp (h : Hdr) (d a : BitVec 6) (x : BitVec 1) (s : State) : Out :=
  s.issueWord (.fnRcp h d a x) State.noFault fun s => s.fn h d a (x == 1#1) .rcp

/-- R103. -/
def execFnRsq (h : Hdr) (d a : BitVec 6) (x : BitVec 1) (s : State) : Out :=
  s.issueWord (.fnRsq h d a x) State.noFault fun s => s.fn h d a (x == 1#1) .rsq

/-- R103. -/
def execFnSqrt (h : Hdr) (d a : BitVec 6) (x : BitVec 1) (s : State) : Out :=
  s.issueWord (.fnSqrt h d a x) State.noFault fun s => s.fn h d a (x == 1#1) .sqrt

/-- R103. -/
def execFnExp2 (h : Hdr) (d a : BitVec 6) (x : BitVec 1) (s : State) : Out :=
  s.issueWord (.fnExp2 h d a x) State.noFault fun s => s.fn h d a (x == 1#1) .exp2

/-- R103. -/
def execFnLog2 (h : Hdr) (d a : BitVec 6) (x : BitVec 1) (s : State) : Out :=
  s.issueWord (.fnLog2 h d a x) State.noFault fun s => s.fn h d a (x == 1#1) .log2

/-- R103. -/
def execFnTanh (h : Hdr) (d a : BitVec 6) (x : BitVec 1) (s : State) : Out :=
  s.issueWord (.fnTanh h d a x) State.noFault fun s => s.fn h d a (x == 1#1) .tanh

/-- R103. -/
def execFnSigm (h : Hdr) (d a : BitVec 6) (x : BitVec 1) (s : State) : Out :=
  s.issueWord (.fnSigm h d a x) State.noFault fun s => s.fn h d a (x == 1#1) .sigm

/-- R105. -/
def execFdiv (h : Hdr) (d a b : BitVec 6) (s : State) : Out :=
  s.issueWord (.fdiv h d a b) State.noFault fun s => s.arith2 h d a b (fun x _ => x) Fmt.div

/-- R106: b is one signed integer for every element of the lane. -/
def execFscale (h : Hdr) (d a b : BitVec 6) (s : State) : Out :=
  s.issueWord (.fscale h d a b) State.noFault fun s =>
    s.writeLike h d a fun l =>
      s.elem1 (s.tagOf (l / 4) a.toNat) l id (fun f v x => f.scale v x (s.V b.toNat l).toInt) (s.V a.toNat l)

/-- R107. -/
def execFcls (h : Hdr) (d a m : BitVec 6) (s : State) : Out :=
  s.issueWord (.fcls h d a m) State.noFault fun s =>
    s.writeLanes h.guard d.toNat
      (fun l =>
        let t := s.tagOf (l / 4) a.toNat
        match fmtOf t with
        | none => 0
        | some f => BitVec.ofNat 32 (((List.range (nelem t)).map fun j =>
            flagBit (m.getLsbD (f.classOf s.me.ftz (elemOf t (s.V a.toNat l) j))) j).sum))
      fun _ => .u32

/-- R109. -/
def execCvt (h : Hdr) (d a : BitVec 6) (r : BitVec 2) (t : BitVec 4) (s : State) : Out :=
  s.issueWord (.cvt h d a r t) State.noFault fun s =>
    s.cur.slices.foldl (s.cvtSlice h d a r.toNat (Tag.ofCode t.toNat)) s

/-- R113. -/
def execTag (h : Hdr) (d a : BitVec 6) (t : BitVec 4) (s : State) : Out :=
  s.issueWord (.tag h d a t) State.noFault fun s =>
    s.writeLanes h.guard d.toNat (s.V a.toNat) fun _ => Tag.ofCode t.toNat

/-- R114. -/
def execQblk (h : Hdr) (d a : BitVec 6) (k : BitVec 4) (s : State) : Out :=
  s.issueWord (.qblk h d a k) State.noFault fun s => s.qblkAct h d a k

/-- R118. -/
def execUnpb (h : Hdr) (d a : BitVec 6) (k : BitVec 5) (s : State) : Out :=
  s.issueWord (.unpb h d a k) State.noFault fun s =>
    let t := unpbTag k
    s.writeLanes h.guard d.toNat
      (fun l => ofElems t fun j => s.unpbElem a k ((fmtOf t).getD fmtF32) (l * nelem t + j)) fun _ => t

/-- R108. -/
def execFrnd (h : Hdr) (d a : BitVec 6) (r : BitVec 2) (s : State) : Out :=
  s.issueWord (.frnd h d a r) State.noFault fun s =>
    let m : Round := if r = 0#2 then .ne else if r = 1#2 then .z else if r = 2#2 then .down else .up
    s.arith1 h d a id fun f v x => f.integral v.ftz m x

end Sys2Proof.Machine
end

