-- ==== Sys2Proof/Machine/Aes.lean ====
section
/-! DEFINITION. AES-256 as R193 names it: bytes as numbers, a block as 16 of them, the key as 32. -/

namespace Sys2Proof.Machine

/-- Multiplication by x in the field of AES. -/
def gfDouble (a : Nat) : Nat := if 128 ≤ a then (2 * a) % 256 ^^^ 0x1B else 2 * a

/-- The product of two field elements; `n` bits of the second. -/
def gfMul : Nat → Nat → Nat → Nat
  | 0, _, _ => 0
  | n + 1, a, b => (if b % 2 = 1 then a else 0) ^^^ gfMul n (gfDouble a) (b / 2)

/-- The square of a field element, and its inverse a^254 (0 for 0). -/
def gfSquare (a : Nat) : Nat := gfMul 8 a a
def gfInverse (a : Nat) : Nat :=
  let a2 := gfSquare a
  let a3 := gfMul 8 a2 a
  let a12 := gfSquare (gfSquare a3)
  let a15 := gfMul 8 a12 a3
  let a240 := gfSquare (gfSquare (gfSquare (gfSquare a15)))
  gfMul 8 (gfMul 8 a240 a12) a2

/-- A byte rotated left. -/
def rotByte (x n : Nat) : Nat := (x * 2 ^ n) % 256 + x / 2 ^ (8 - n)

/-- The substitution of a byte. -/
def aesSub (a : Nat) : Nat :=
  let v := gfInverse a
  v ^^^ rotByte v 1 ^^^ rotByte v 2 ^^^ rotByte v 3 ^^^ rotByte v 4 ^^^ 0x63

/-- Bytewise exclusive or. -/
def xorBytes (a b : List Nat) : List Nat := List.zipWith (· ^^^ ·) a b

/-- The next eight words of the key schedule from the last eight, with the round constant. -/
def aesNext (w : List (List Nat)) (rcon : Nat) : List (List Nat) :=
  let word (i : Nat) : List Nat := (w[i]?).getD []
  let rot : List Nat := match word 7 with | a :: r => r ++ [a] | [] => []
  let t0 := match rot.map aesSub with | a :: r => (a ^^^ rcon) :: r | [] => []
  let w0 := xorBytes (word 0) t0
  let w1 := xorBytes (word 1) w0
  let w2 := xorBytes (word 2) w1
  let w3 := xorBytes (word 3) w2
  let w4 := xorBytes (word 4) (w3.map aesSub)
  let w5 := xorBytes (word 5) w4
  let w6 := xorBytes (word 6) w5
  [w0, w1, w2, w3, w4, w5, w6, xorBytes (word 7) w6]

/-- The key schedule from eight words on. -/
def aesSchedule : Nat → List (List Nat) → Nat → List (List Nat)
  | 0, w, _ => w
  | n + 1, w, rcon => w ++ aesSchedule n (aesNext w rcon) (gfDouble rcon)

/-- The rows of a block shifted: byte (r, c) stands at r + 4c. -/
def aesShift (b : List Nat) : List Nat :=
  (List.range 16).map fun i => (b[i % 4 + 4 * ((i / 4 + i % 4) % 4)]?).getD 0

/-- The columns of a block mixed. -/
def aesMix (b : List Nat) : List Nat :=
  (List.range 16).map fun i =>
    let at_ (k : Nat) : Nat := (b[i / 4 * 4 + (i + k) % 4]?).getD 0
    gfDouble (at_ 0) ^^^ gfDouble (at_ 1) ^^^ at_ 1 ^^^ at_ 2 ^^^ at_ 3

/-- The rounds of a block under a list of round keys. -/
def aesRounds : List Nat → List (List Nat) → List Nat
  | b, [] => b
  | b, [k] => xorBytes (aesShift (b.map aesSub)) k
  | b, k :: ks => aesRounds (xorBytes (aesMix (aesShift (b.map aesSub))) k) ks

/-- Words gathered into 16-byte round keys. -/
def roundKeys : List (List Nat) → List (List Nat)
  | a :: b :: c :: d :: r => (a ++ b ++ c ++ d) :: roundKeys r
  | _ => []

/-- `AES256_ENCRYPT`. -/
def aes256 (key block : List Nat) : List Nat :=
  let words := (List.range 8).map fun i => (key.drop (4 * i)).take 4
  match (roundKeys (aesSchedule 7 words 1)).take 15 with
  | [] => block
  | k :: ks => aesRounds (xorBytes block k) ks

end Sys2Proof.Machine
end

