-- ==== Sys2Proof/Machine/Records.lean ====
section
/-! DEFINITION. The records slices hand to the engines, and their limits (R184, R189, R194, R195, R262–R266, R270, R277,
R281, Tables 6-11, 6-12, 9-5, 9-6, 9-8, 9-13, 9-14). -/

namespace Sys2Proof.Machine

/-! ### Barge requests -/

/-- A barge request (Table 9-5). -/
structure Barge where
  kind : Nat
  flags : Nat
  barrier : Nat
  rowBytes : Nat
  src : Nat
  dst : Nat
  sstride : Nat
  dstride : Nat
  rows : Nat
  sspace : Nat
  dspace : Nat
  list : Nat
  target : Nat
  format : Nat
  last : Nat
  cmd : List Byte
  deriving DecidableEq, Repr

def Barge.ofBytes (r : List Byte) : Barge :=
  { kind := recNat r 0 1, flags := recNat r 1 1, barrier := recNat r 2 2, rowBytes := recNat r 4 4, src := recNat r 8 8,
    dst := recNat r 16 8, sstride := recNat r 24 4, dstride := recNat r 28 4, rows := recNat r 32 4,
    sspace := recNat r 36 2, dspace := recNat r 38 2, list := recNat r 40 4, target := recNat r 44 2,
    format := recNat r 46 1, last := recNat r 47 1, cmd := (r.drop 48).take 16 }

def Barge.follow (q : Barge) : Bool := bitOf q.flags 0
def Barge.stream (q : Barge) : Bool := bitOf q.flags 1
def Barge.summary (q : Barge) : Bool := bitOf q.flags 2
def Barge.slot (q : Barge) : Nat := bitsOf q.target 0 6
def Barge.entry (q : Barge) : Nat := bitsOf q.target 6 7

/-- The bytes a request moves (R263). -/
def Barge.total (q : Barge) : Nat := q.rows * q.rowBytes

/-- The units of one row, and of the request (R265). -/
def Barge.rowUnits (q : Barge) : Nat := ceilDiv q.rowBytes 64
def Barge.units (q : Barge) : Nat := q.rows * q.rowUnits

/-- Row strides of the two sides (Table 9-6). -/
def Barge.srcStride (q : Barge) : Nat := if q.kind = 1 then q.rowBytes else q.sstride
def Barge.dstStride (q : Barge) : Nat := if q.kind = 1 then q.rowBytes else q.dstride

/-- A deck address: its target and byte offset (R264). -/
def deckTarget (a : Nat) : Nat := bitsOf a 0 7
def deckOff (a : Nat) : Nat := bitsOf a 7 25

/-- The key of a deck byte: each target stands 64 KiB apart. -/
def deckKey (core target off : Nat) : Nat := keyAt deckSpace core (target * 2 ^ 16 + off)

/-- The bytes of a deck target. -/
def deckSize (target : Nat) : Nat := if target < 64 then 32768 else 2064

/-- The floating format of an element format code (Table 1-4), its element size. -/
def codeFmt (c : Nat) : Option (Fmt × Nat) :=
  match c with
  | 0x03 => some (fmtF32, 4) | 0x04 => some (fmtF16, 2) | 0x05 => some (fmtBF16, 2) | 0x09 => some (fmtE4M3, 1)
  | 0x0A => some (fmtE5M2, 1) | _ => none

/-- Whether a code names a block format. -/
def blockCode (c : Nat) : Bool := decide (0x10 ≤ c) && decide (c ≤ 0x12)

/-- Whether a code is defined (Table 1-4). -/
def codeDefined (c : Nat) : Bool := decide (c ≤ 0x0E) || blockCode c

/-- The tile sizes that a block-format summary may have (R19, R266): those that divide its bytes; the record does not
state the block length. -/
def Barge.tiles (q : Barge) : List Nat := [512, 768].filter fun n => q.total % n == 0

/-- The entry that row `ρ` of tile `j` merges into. -/
def Barge.tileEntry (q : Barge) (tile j ρ : Nat) : Nat := q.entry + 32 * (j * tile / max q.rowBytes 1) + ρ

/-- The tile sizes under which every entry stands in the slot (R266). -/
def Barge.fitTiles (q : Barge) : List Nat :=
  q.tiles.filter fun n => q.total == 0 || decide (q.tileEntry n (q.total / n - 1) 31 < 128)

/-! ### Matrix commands -/

/-- A matrix command (Table 9-8). -/
structure MatCmd where
  a : Nat
  b : Nat
  ctl : Nat
  act : Nat
  out : Nat
  chain : Nat
  mask : Nat
  ktotal : Nat
  deriving DecidableEq, Repr

def MatCmd.ofBytes (r : List Byte) : MatCmd :=
  ⟨recNat r 0 2, recNat r 2 2, recNat r 4 1, recNat r 5 1, recNat r 6 2, recNat r 8 2, recNat r 10 2, recNat r 12 4⟩

def MatCmd.slot (c : MatCmd) : Nat := c.ctl % 4
def MatCmd.opens (c : MatCmd) : Bool := bitOf c.ctl 2
def MatCmd.closes (c : MatCmd) : Bool := bitOf c.ctl 3
def MatCmd.bias (c : MatCmd) : Bool := bitOf c.ctl 4
def MatCmd.acts (c : MatCmd) : Bool := bitOf c.ctl 5
def MatCmd.quant (c : MatCmd) : Bool := bitOf c.ctl 6
def MatCmd.masks (c : MatCmd) : Bool := bitOf c.ctl 7

/-- The limits of Table 9-8 (R28, R270). -/
def MatCmd.ok (c : MatCmd) : Bool :=
  decide (c.a < 0x3E00) && decide (c.b < 0x3E00) && decide (c.out < 0x3E00) && decide (c.chain < 0x3E00) &&
    decide (c.mask < 0x3E00) && (c.closes || decide (c.ctl < 16)) && decide (c.act < 16) && (c.acts || c.act == 0) &&
    (c.closes || c.out == 0) && (c.bias || c.quant || c.chain == 0) && (c.masks || c.mask == 0) &&
    (if c.opens then decide (1 ≤ c.ktotal) && decide (c.ktotal ≤ 2 ^ 27) else c.ktotal == 0)

/-- A shape record (Table 9-7). -/
structure Shape where
  rows : Nat
  cols : Nat
  stride : Nat
  format : Nat
  blen : Nat
  space : Nat
  base : Nat
  scales : Nat
  summary : Nat
  declared : Int
  deriving DecidableEq, Repr

def Shape.ofBytes (r : List Byte) : Shape :=
  ⟨recNat r 0 4, recNat r 4 4, recNat r 8 4, recNat r 12 1, recNat r 13 1, recNat r 14 1, recNat r 16 8, recNat r 24 8,
   recNat r 32 2, signedOf (recNat r 34 2) 16⟩

/-- The bytes of an element of an output format (R275), zero for a code that no output has. -/
def outBytes (c : Nat) : Nat :=
  match c with
  | 0x01 | 0x03 => 4
  | 0x04 | 0x05 => 2
  | 0x07 | 0x08 | 0x09 | 0x0A => 1
  | _ => 0

/-- The shape record at a Basin offset / 64. -/
def State.shape (s : State) (core n : Nat) : Shape :=
  Shape.ofBytes (Memory.bytes s.mem (keyAt basinSpace core (64 * n)) 64)

/-! ### Limits of barge requests -/

/-- The fields that must be as Table 9-5 says whatever the ranges are. -/
def Barge.fieldsOk (q : Barge) : Bool :=
  let basin := q.dspace == 1 || q.dspace == 2 || q.sspace == 1
  let usesS := q.kind == 2 || q.kind == 3 || q.kind == 4 || q.kind == 6
  let usesD := q.kind == 2 || q.kind == 3 || q.kind == 4 || q.kind == 5
  decide (1 ≤ q.kind) && decide (q.kind ≤ 6) && decide (q.flags < 8) && decide (q.barrier < Config.barriers) &&
    decide (q.rowBytes ≤ 2 ^ 24) && decide (q.rows ≤ 2 ^ 20) && decide (q.sspace ≤ 1) && decide (q.dspace ≤ 2) &&
    ((q.dspace == 2) == (q.kind == 6)) && (!q.stream || (q.sspace == 0 && q.kind != 5)) &&
    (!basin || q.rowBytes % 4 == 0) && q.last == 0 &&
    (if q.kind = 3 ∨ q.kind = 4 then q.list % 4 == 0 else q.list == 0) &&
    decide (q.target < 2 ^ 13) && (q.summary || q.target == 0) &&
    (if q.summary then (codeFmt q.format).isSome || blockCode q.format else codeDefined q.format) &&
    (!usesS || decide (q.rowBytes ≤ q.sstride)) && (!usesD || decide (q.rowBytes ≤ q.dstride)) &&
    (if q.follow then (MatCmd.ofBytes q.cmd).ok else q.cmd.all fun b => b == 0)

/-- The limits of a summary target (R266). -/
def Barge.summaryOk (q : Barge) : Bool :=
  if !q.summary then true
  else if blockCode q.format then
    q.kind == 1 && q.fitTiles != []
  else decide (q.entry + q.rows ≤ 128)

/-- The sides of a request whose rows have addresses: space, base, stride, whether an index chooses the row. -/
def Barge.sides (q : Barge) : List (Nat × Nat × Nat × Bool) :=
  (if q.kind = 5 then [] else [(q.sspace, q.src, q.srcStride, q.kind == 3)]) ++
    (if q.kind = 6 then [] else [(q.dspace, q.dst, q.dstStride, q.kind == 4)])

/-- A deck destination inside its targets (R264). -/
def Barge.deckOk (q : Barge) : Bool :=
  let t := deckTarget q.dst
  q.kind != 6 || (decide (q.dst < 2 ^ 32) && decide (t ≤ 79) && decide (deckOff q.dst + q.rowBytes ≤ deckSize t) &&
    decide (t + max q.rows 1 - 1 ≤ if t < 64 then 63 else 79))

namespace State

/-- A range of a space that an engine record of a context may not name (R224, R262). A strided side is one range here, from its base to the
end of its last row (DESIGN CHOICE, log 69). -/
def rangeBad (s : State) (asid space base n : Nat) : Bool :=
  if space = 1 then decide (Config.basinTop < base + n) else space == 0 && s.inTowpath asid base n

/-- `CHECK_BARGE`: every limit of Table 9-5. -/
def bargeOk (s : State) (asid : Nat) (q : Barge) : Bool :=
  let ranges := q.sides.any fun (sp, base, stride, indexed) =>
    s.rangeBad asid sp base ((if indexed then 0 else (q.rows - 1) * stride) + q.rowBytes)
  let list := (q.kind == 3 || q.kind == 4) && decide (Config.basinTop < q.list + 4 * q.rows)
  q.fieldsOk && q.summaryOk && q.deckOk && (q.total == 0 || !(ranges || list))

end State

/-! ### Trestle commands -/

/-- A Trestle command block (Table 9-13). -/
structure TrestleCmd where
  str : Nat
  len : Nat
  alpha : Nat
  maps : Nat
  states : Nat
  start : Nat
  sel : Nat
  barrier : Nat
  listed : Nat
  list : Nat
  legal : Nat
  out : Nat
  last : Nat
  deriving DecidableEq, Repr

def TrestleCmd.ofBytes (r : List Byte) : TrestleCmd :=
  ⟨recNat r 0 8, recNat r 8 4, recNat r 12 4, recNat r 16 8, recNat r 24 2, recNat r 26 1, recNat r 27 1, recNat r 28 2,
   recNat r 30 2, recNat r 32 8, recNat r 40 8, recNat r 48 8, recNat r 56 8⟩

/-- The limits of Table 9-13 (R189, R277). -/
def TrestleCmd.ok (c : TrestleCmd) : Bool :=
  c.str % 4 == 0 && decide (1 ≤ c.len) && decide (c.len ≤ 2 ^ 20) && decide (1 ≤ c.alpha) && decide (c.alpha ≤ 2 ^ 17) &&
    c.maps % 256 == 0 && decide (1 ≤ c.states) && decide (c.states ≤ 256) && decide (c.start < c.states) &&
    decide (1 ≤ c.sel) && decide (c.sel < 8) && decide (c.barrier < Config.barriers) &&
    (if bitOf c.sel 1 then decide (1 ≤ c.listed) && decide (c.listed ≤ 4096) && c.list % 4 == 0
     else c.listed == 0 && c.list == 0) &&
    (if bitOf c.sel 2 then c.legal % 4 == 0 else c.legal == 0) && c.out % 4 == 0 && c.last == 0

/-! ### Drive reads -/

/-- An `sload` descriptor (Table 6-11). -/
structure DriveRead where
  drive : Nat
  res1 : Nat
  barrier : Nat
  space : Nat
  lba : Nat
  blocks : Nat
  res2 : Nat
  dst : Nat
  deriving DecidableEq, Repr

def DriveRead.ofBytes (r : List Byte) : DriveRead :=
  ⟨recNat r 0 1, recNat r 1 1, recNat r 2 2, recNat r 4 4, recNat r 8 8, recNat r 16 4, recNat r 20 4, recNat r 24 8⟩

/-- A drive table entry (Table 9-14). -/
structure Drive where
  valid : Bool
  reaches : Nat
  low : Nat
  high : Nat
  bell : Nat
  sq : Nat
  cq : Nat
  entries : Nat
  lbaBits : Nat
  maxXfer : Nat
  timeout : Nat
  deriving DecidableEq, Repr

def Drive.ofBytes (r : List Byte) : Drive :=
  ⟨bitOf (recNat r 0 4) 0, recNat r 1 1, recNat r 4 2, recNat r 6 2, recNat r 8 8, recNat r 0x10 8, recNat r 0x18 8,
    recNat r 0x20 2, recNat r 0x22 1, recNat r 0x23 1, recNat r 0x24 4⟩

/-- The bytes of one block, of the largest command, of a descriptor; its commands (R282). -/
def Drive.block (d : Drive) : Nat := 2 ^ d.lbaBits
def Drive.most (d : Drive) : Nat := 2 ^ d.maxXfer * 4096
def DriveRead.total (q : DriveRead) (d : Drive) : Nat := q.blocks * d.block
def DriveRead.commands (q : DriveRead) (d : Drive) : Nat := ceilDiv (q.total d) d.most

/-- The bytes of command `c` of a descriptor. -/
def DriveRead.bytesOf (q : DriveRead) (d : Drive) (c : Nat) : Nat := min d.most (q.total d - c * d.most)

/-- The entry of a drive. -/
def State.drive (s : State) (n : Nat) : Drive :=
  Drive.ofBytes (Memory.bytes s.mem (keyAt devSpace 0 (s.quay.table + 64 * n)) 64)

/-- A queue pair that nothing has used. -/
def DriveQueue.blank : DriveQueue := ⟨0, 0, true, []⟩

/-- The queue pair of a drive. -/
def State.driveQueue (s : State) (d : Nat) : DriveQueue := s.quay.queues.getOr d DriveQueue.blank

def State.setDriveQueue (s : State) (d : Nat) (q : DriveQueue) : State :=
  { s with quay := { s.quay with queues := s.quay.queues.put d q } }

/-- Ring a doorbell. -/
def State.ringBell (s : State) (at_ v : Nat) : State := { s with quay := { s.quay with bells := s.quay.bells ++ [(at_, v)] } }

/-- A submission entry of the NVM command set's Read: the opcode, the command id, the namespace, the PRPs, the first block, the number of
blocks less one (R282; NVM Express, log 39). -/
def readEntry (cid space prp1 prp2 lba blocks : Nat) : List Byte :=
  leBytes 2 2 ++ leBytes 2 cid ++ leBytes 4 space ++ leBytes 16 0 ++ leBytes 8 prp1 ++ leBytes 8 prp2 ++ leBytes 8 lba ++
    leBytes 4 (blocks - 1) ++ leBytes 12 0

/-- A completion entry: the next submission slot the drive would read, the command id, the phase tag, the status (log 39). -/
def doneEntry (head cid status : Nat) (phase : Bool) : List Byte :=
  leBytes 8 0 ++ leBytes 2 head ++ leBytes 2 0 ++ leBytes 2 cid ++ leBytes 2 (flagBit phase 0 + 2 * (status % 2 ^ 15))

/-- The descriptor fault of an `sload` descriptor (R194, Table 6-16). -/
def State.driveReadCode (s : State) (reach : Nat) (q : DriveRead) : Option Nat :=
  let d := s.drive q.drive
  if 64 ≤ q.drive ∨ !d.valid ∨ !bitOf d.reaches reach ∨ q.space < d.low ∨ d.high < q.space then some 0x06
  else if q.blocks = 0 ∨ 65536 < q.blocks ∨ q.dst % 4 ≠ 0 then some 0x07
  else if Config.barriers ≤ q.barrier then some 0x09
  else if q.res1 ≠ 0 ∨ q.res2 ≠ 0 then some 0x07 else none

/-! ### Messages -/

/-- An `nsend` descriptor (Table 6-12). -/
structure Message where
  node : Nat
  tag : Nat
  off : Nat
  bytes : Nat
  cls : Nat
  res1 : Nat
  barrier : Nat
  res2 : Nat
  deriving DecidableEq, Repr

def Message.ofBytes (r : List Byte) : Message :=
  ⟨recNat r 0 4, recNat r 4 4, recNat r 8 4, recNat r 12 2, recNat r 14 1, recNat r 15 1, recNat r 16 2, recNat r 18 14⟩

/-- The descriptor fault of an `nsend` descriptor (R195, Table 6-16). -/
def Message.code (m : Message) : Option Nat :=
  if m.off % 16 ≠ 0 ∨ m.bytes = 0 ∨ 8192 < m.bytes ∨ 3 < m.cls ∨ Config.basinTop < m.off + m.bytes then some 0x08
  else if Config.barriers ≤ m.barrier then some 0x09
  else if m.res1 ≠ 0 ∨ m.res2 ≠ 0 then some 0x08 else none

end Sys2Proof.Machine
end

