-- ==== Sys2Proof/Machine/Engines.lean ====
section
/-! DEFINITION. E-pipe words (R181–R195, R202, R203, R251, R258–R261): commands to the engines, barrier words, legal masks,
distances, best-k lists, random draws. -/

namespace Sys2Proof.Machine

namespace State

/-! ### What the words share -/

/-- A descriptor fault with its code (R202). -/
def descriptorTrap (s : State) (code : Nat) : TrapInfo := s.trapHere 0x16 (BitVec.ofNat 32 code)

/-- Basin bytes as an engine reads records: after every earlier Basin store of the issuing slices (R182). -/
def recordBytes (s : State) (off n : Nat) : List Byte :=
  Memory.bytes (s.cur.slices.foldl (fun s k => s.drain s.cur.gang k) s).mem (keyAt basinSpace s.me.core off) n

/-- The records of a command: `n` of `size` bytes. -/
def records (s : State) (off size n : Nat) : List (List Byte) :=
  (List.range n).map fun i => s.recordBytes (off + size * i) size

/-- Live threads of a kind that a test names. -/
def liveThreads (s : State) (p : Thread → Bool) : Nat := (s.threads.filter fun (_, t) => t.ended.isNone && p t).length

/-- FORK one thread for each record (R251): a release, then the threads, which every issuing slice has forked. -/
def fork (s : State) (kind : ThreadKind) (rs : List (List Byte × Nat)) : State :=
  let g := s.me
  let ks := s.cur.slices
  let t0 := s.threadNo
  let s := s.releaseAll s.cur.gang s.cur.widx.toNat ks
  let new : List (Nat × Thread) := rs.zipIdx.map fun ((r, b), i) =>
    (t0 + i, { kind := kind, record := r, gang := s.cur.gang, slice := ks.headD 0, launch := g.launch, asid := g.asid,
               core := g.core, widx := s.cur.widx.toNat, index := i, earlier := (List.range i).map (t0 + ·), barrier := b,
               buffer := [], poisoned := [], wrote := [], landed := [], counted := [], parks := [], gindex := g.index, quarter := g.quarter, ended := none,
               started := s.now, fired := false, todo := [], steps := 0, asked := 0, status := [] })
  let s := { s with threads := new.foldl (fun m (t, x) => m.put t x) s.threads, threadNo := t0 + rs.length }
  ks.foldl (fun s k => s.modSl k fun x => { x with forked := x.forked ++ new.map Prod.fst }) s

/-- The offset operand of a command word. -/
def commandOff (s : State) (a : BitVec 6) : Nat := (s.operand a).getD 0

/-- Whether the queue of an engine has room for what a word would enqueue (R182, R258). -/
def room (s : State) (i : Instr) : Bool :=
  match i with
  | .kick _ _ _ b =>
    let busy := s.liveThreads fun t => decide (t.kind = .barge) && t.core == s.me.core
    decide (busy + (s.operand b).getD 0 ≤ Config.bargeQueue)
  | .trst _ _ =>
    let busy := s.liveThreads fun t => decide (t.kind = .trestle) && clusterOfCore t.core == clusterOfCore s.me.core
    decide (busy < Config.trestleQueue)
  | .sload _ _ n => decide ((s.liveThreads fun t => decide (t.kind = .quay)) + n.toNat + 1 ≤ Config.quayQueue)
  | _ => true

/-- A command whose queue has no room waits at its word with nothing enqueued (R182). -/
def enqueue (s : State) (i : Instr) (act : State → State) : State :=
  if s.lowest 0 = none then s else if s.room i then act s else s.waitAll .queue

/-- Set summary entries to EMPTY (R266). -/
def clearSummary (s : State) (core slot first n : Nat) : State :=
  s.modCore core fun c =>
    { c with summary := (List.range n).foldl (fun m i => m.del (128 * slot + first + i)) c.summary }

end State

/-! ### kick (R184, R185) -/

namespace State

/-- The faults of `kick`. -/
def kickTrap (s : State) (a b : BitVec 6) : Option TrapInfo :=
  match s.operand a, s.operand b with
  | some off, some n =>
    if off % 64 ≠ 0 then some (s.descriptorTrap 0x01)
    else if n = 0 ∨ 64 < n then some (s.descriptorTrap 0x02)
    else if Config.basinTop < off + 64 * n then some (s.descriptorTrap 0x01)
    else
      let bad := (s.records off 64 n).zipIdx.find? fun (r, _) => !s.bargeOk s.me.asid (Barge.ofBytes r)
      bad.map fun (_, i) => s.trapHere 0x17 (BitVec.ofNat 32 i)
  | _, _ => none

/-- Fork the barge threads of a `kick` and write its promise, a free value no earlier than 64 cycles from now (R185). -/
def kickAct (s : State) (d a b : BitVec 6) : State :=
  let n := (s.operand b).getD 0
  let rs := s.records (s.commandOff a) 64 n
  let t := s.fork .barge (rs.map fun r => (r, (Barge.ofBytes r).barrier))
  let t := rs.foldl (fun t r =>
    let q := Barge.ofBytes r
    if q.kind = 5 ∧ q.summary then t.clearSummary s.me.core q.slot q.entry q.rows else t) t
  t.write64 0 d.toNat fun _ => BitVec.ofNat 64 (s.now + 64 + (s.freeWord 10).toNat)

end State

/-- R184. -/
def execKick (h : Hd0) (d a b : BitVec 6) (s : State) : Out :=
  s.issueWord (.kick h d a b) (fun s => s.kickTrap a b) fun s =>
    s.enqueue (.kick h d a b) fun s => s.kickAct d a b

/-! ### Barrier words (R186–R188) -/

namespace State

/-- A barrier fault at the word; `tinfo2` holds the fault word of a barrier whose fault bit is set (Table 10-2). -/
def barrierTrap (s : State) (n : Nat) : TrapInfo :=
  let b := s.barrier s.me.core n
  let w : Word := if n < Config.barriers ∧ b.fault then b.stamp else 0
  { rank := 7, cause := 0x14, slot := s.cur.slot, imp := false,
    who := s.cur.slices.map fun k => ⟨k, (s.sl k).mask, BitVec.ofNat 32 n, w, s.cur.widx⟩ }

/-- The faults of `binit` (R186, R203). -/
def binitTrap (s : State) (d a : BitVec 6) : Option TrapInfo :=
  match s.operand d, s.operand a with
  | some n, some v =>
    let b := s.barrier s.me.core n
    let idle := b.pending == 0 && b.remain == b.expect
    if v / 2 ^ 24 ≠ 0 then some (s.descriptorTrap 0x03)
    else if Config.barriers ≤ n then some (s.barrierTrap n)
    else trapIf (b.armed && !idle && !(b.fault && !s.counting s.me.core n)) (s.barrierTrap n)
  | _, _ => none

/-- Initialise a barrier and record its launch. -/
def binitAct (s : State) (d a : BitVec 6) : State :=
  match s.operand d, s.operand a with
  | some n, some v =>
    let b : Barrier := { pending := 0, expect := v % 2 ^ 16, remain := v % 2 ^ 16, group := bitsOf v 16 8, fault := false,
                         armed := true, phase := false, stamp := s.cyc.truncate 32 }
    (s.setBarrier s.me.core n b).modCore s.me.core fun c => { c with barrierLaunch := c.barrierLaunch.put n s.me.launch }
  | _, _ => s

/-- Whether a gang is a member of the group bound to a barrier (R187). -/
def memberOf (s : State) (y : Gang) (n : Nat) : Bool :=
  let b := s.barrier y.core n
  b.group == 0xFF ||
    ((s.core y.core).barrierLaunch.find n == some y.launch &&
      ((s.launch y.launch).img.any fun i => i.groups.any fun q => q.id == b.group && q.members.contains y.index))

/-- The faults of `barr` that leave the barrier unchanged. -/
def barrTrap (s : State) (d : BitVec 6) : Option TrapInfo :=
  (s.operand d).bind fun n =>
    trapIf (decide (Config.barriers ≤ n) || !(s.barrier s.me.core n).armed) (s.barrierTrap n)

/-- Record a fault on a barrier and take the barrier fault. -/
def barrFail (s : State) (n code : Nat) : State :=
  let s := s.setBarrier s.me.core n ((s.barrier s.me.core n).fail code 0 0)
  s.takeTrap (s.barrierTrap n)

/-- ONE UPDATE of a barrier by `barr` (R187, Table 9-3): a release first where it arrives. -/
def barrAct (s : State) (n bytes k : Nat) : State :=
  if k ≠ 0 ∧ !s.memberOf s.me n then s.barrFail n 3
  else
    let s := if k = 0 then s else s.releaseAll s.cur.gang s.cur.widx.toNat s.cur.slices
    let b := s.barrier s.me.core n
    if 2 ^ 32 ≤ b.pending + bytes ∨ b.remain < k then s.barrFail n 4
    else
      let b := { b with pending := b.pending + bytes, remain := b.remain - k }
      s.setBarrier s.me.core n (if bytes = 0 ∧ k = 0 then b else b.settle s.now)

end State

/-- R186. -/
def execBinit (h : Hd0) (d a : BitVec 6) (s : State) : Out :=
  s.issueWord (.binit h d a) (fun s => s.binitTrap d a) fun s => s.binitAct d a

/-- R187. -/
def execBarr (h : Hd0) (d a b : BitVec 6) (s : State) : Out :=
  s.issueWord (.barr h d a b) (fun s => s.barrTrap d) fun s =>
    match s.operand d, s.operand a, s.operand b with
    | some n, some bytes, some k => s.barrAct n bytes k
    | _, _, _ => s

/-- The field of a barrier that `btest` reads. -/
def Barrier.field (b : Barrier) (f : Nat) : Word :=
  match f with
  | 0 => if b.phase then 1 else 0
  | 1 => BitVec.ofNat 32 (recNat b.bytes 0 4)
  | 2 => BitVec.ofNat 32 (recNat b.bytes 4 4)
  | 3 => BitVec.ofNat 32 (recNat b.bytes 8 4)
  | _ => b.stamp

/-- R188. -/
def execBtest (h : Hd0) (d a f : BitVec 6) (s : State) : Out :=
  s.issueWord (.btest h d a f)
    (fun s => (s.operand a).bind fun n => State.trapIf (decide (Config.barriers ≤ n)) (s.barrierTrap n)) fun s =>
    match s.operand a with
    | some n => s.writeLanes 0 d.toNat (fun _ => (s.barrier s.me.core n).field f.toNat) fun _ => .u32
    | none => s

/-! ### trst (R189, R277) -/

/-- R189. -/
def execTrst (h : Hd0) (a : BitVec 6) (s : State) : Out :=
  s.issueWord (.trst h a)
    (fun s => (s.operand a).bind fun off =>
      if off % 64 ≠ 0 ∨ Config.basinTop ≤ off then some (s.descriptorTrap 0x01)
      else State.trapIf (!(TrestleCmd.ofBytes (s.recordBytes off 64)).ok) (s.trapHere 0x18 0)) fun s =>
    s.enqueue (.trst h a) fun s =>
      let r := s.recordBytes (s.commandOff a) 64
      s.fork .trestle [(r, (TrestleCmd.ofBytes r).barrier)]

/-! ### legal (R190) -/

namespace State

/-- A lane's read of the Basin. -/
def basinRead (s : State) (k off n : Nat) : Got := s.fetch s.cur.gang k ⟨keyAt basinSpace s.me.core off, 0, 0, false, off, 0⟩ n true

/-- A lane's read of the Basin that logs the uncorrectable errors it meets, each at its word (R168). -/
def basinNoted (s : State) (k off n : Nat) : Got :=
  let got := s.basinRead k off n
  let core := s.me.core
  let words := ((List.range ((off + n - 1) / 4 + 1 - off / 4)).map fun i => keyAt basinSpace core (4 * (off / 4 + i))).filter fun w => s.poisoned w 4
  { got with st := if got.bad then words.foldl (fun t w => t.noteBad core s.me.asid w) got.st else got.st }

/-- The header of the legal-mask table, and its words per state and states. -/
def legalRead (s : State) (k : Nat) : Got := s.basinRead k s.me.lgl.toNat 8
def legalHead (s : State) (k : Nat) : Nat × Nat :=
  let v := (s.legalRead k).value
  (v % 2 ^ 32, v / 2 ^ 32)

/-- The offset of a lane's word, when the table has it. -/
def legalOff (s : State) (a b : BitVec 6) (l : Nat) : Option Nat :=
  let (w, n) := s.legalHead (l / 4)
  let st := (s.V a.toNat l).toNat
  let i := (s.V b.toNat l).toNat
  if n ≤ st ∨ w ≤ i then none else some (s.me.lgl.toNat + 16 + 4 * (st * w + i))

/-- The faults of `legal`. -/
def legalTrap (s : State) (g : BitVec 3) (a b : BitVec 6) : Option TrapInfo :=
  match s.lowest g with
  | none => none
  | some _ =>
    let out (k : Nat) : Bool :=
      let (w, n) := s.legalHead k
      decide (s.act g k ≠ 0 ∧ (w = 0 ∨ 4096 < w ∨ n = 0 ∨ 256 < n))
    let top := s.me.lgl.toNat + 16
    if Config.basinTop < top then
      s.trapLanes 7 0x06 s.cur.chain (s.act g) fun _ => addrInfo s.me.lgl.toNat
    else if s.cur.slices.any out then some (s.descriptorTrap 0x04)
    else
      let bad (j : Nat) : Bool := (s.legalOff a b j).any fun o => decide (Config.basinTop < o + 4)
      let lanes (k : Nat) : BitVec 4 := nibOf fun j => nib (s.act g k) j && bad (4 * k + j)
      s.trapLanes 7 0x06 s.cur.chain lanes fun k => addrInfo ((s.legalOff a b (4 * k + lowBit (lanes k))).getD 0)

/-- Read for lanes by `rd`, and write the values to `d`. -/
def readBasinLanes (s : State) (d : Nat) (t : Tag) (rd : State → Nat → Got) : List Nat → State
  | [] => s
  | l :: r =>
    let got := rd s l
    let s := (got.st.write (l / 4) d (1#4 <<< (l % 4)) (fun _ => BitVec.ofNat 32 got.value) t).poisonReg (l / 4) d
      (if got.bad then 1#4 <<< (l % 4) else 0)
    s.readBasinLanes d t rd r

/-- The bank cycles of Basin words that lanes read (R169). -/
def bankStall (s : State) (offs : List Nat) : State :=
  let words := (offs.map (· / 4)).foldl addSorted []
  let n := ((List.range 32).map fun b => (words.filter fun w => w % 32 == b).length).foldl max 0
  { s with cur := { s.cur with delay := max s.cur.delay (n - 1) } }

end State

/-- R190. -/
def execLegal (h : Hdr) (d a b : BitVec 6) (s : State) : Out :=
  s.issueWord (.legal h d a b) (fun s => s.legalTrap h.guard a b) fun s =>
    let offs := (s.actLanes h.guard).filterMap (s.legalOff a b)
    (s.bankStall offs).readBasinLanes d.toNat .u32
      (fun t l =>
        let head := t.basinNoted (l / 4) s.me.lgl.toNat 8
        match s.legalOff a b l with
        | some o => let got := head.st.basinNoted (l / 4) o 4; { got with bad := got.bad || head.bad }
        | none => ⟨head.st, 0, head.bad, false⟩) (s.actLanes h.guard)

/-! ### dist (R191) -/

/-- A `dist` descriptor (Table 6-10). -/
structure DistDesc where
  elems : Nat
  etag : Nat
  metric : Nat
  high : Nat
  base : Nat
  stride : Nat
  query : Nat
  deriving DecidableEq, Repr

def DistDesc.elemBytes (c : DistDesc) : Nat := if c.etag ≤ 1 then 2 else 1
def DistDesc.rowSize (c : DistDesc) : Nat := c.elems * c.elemBytes + (if c.metric = 2 then 4 else 0)
def DistDesc.fmt (c : DistDesc) : Option Fmt :=
  match c.etag with | 0 => some fmtF16 | 1 => some fmtBF16 | 3 => some fmtE4M3 | _ => none

/-- A field out of range. -/
def DistDesc.bad (c : DistDesc) : Bool :=
  c.high != 0 || c.elems == 0 || decide (4096 < c.elems) || c.elems % (4 / c.elemBytes) != 0 || c.metric == 3 ||
    c.base % 4 != 0 || c.stride % 4 != 0 || decide (c.stride < c.rowSize) || c.query % 4 != 0

/-- The elements of a row. -/
def DistDesc.row (c : DistDesc) (v : Nat) : List Nat := (List.range c.elems).map fun i => bitsOf v (8 * c.elemBytes * i) (8 * c.elemBytes)

/-- (q − r)², its difference exact; a NaN of q comes first (R25). -/
def sqTerm (f : Fmt) (carry : Bool → Nat → Nat) (newNan q r : Nat) : Term :=
  match f.decode q, f.decode r with
  | .nan s x, _ => .nan (carry s x)
  | _, .nan s x => .nan (carry s x)
  | .inf s, .inf t => if s = t then .nan newNan else .inf false
  | .inf _, .fin .. => .inf false
  | .fin .., .inf _ => .inf false
  | .fin s m e, .fin t n g => let (x, y) := dyadicAdd s m e (!t) n g; .num false (x.natAbs * x.natAbs) (2 * y)

/-- A distance as F32 bits: `q` and `r` are the bytes of the rows, `nan` the bits of a new NaN (R191, Table 1-6). -/
def DistDesc.value (c : DistDesc) (q r nan : Nat) : Nat :=
  let qs := c.row q
  let rs := c.row r
  let s := match c.fmt with
    | some f =>
      let carry := nanCarry f fmtF32
      let α := if c.metric = 0 then 2 * max (f.emaxSet qs) (f.emaxSet rs) + 4 else f.emaxSet qs + f.emaxSet rs + 2
      let term (x : Nat × Nat) : Term := if c.metric = 0 then sqTerm f carry nan x.1 x.2 else prodTerm f carry nan x.1 x.2
      (anchorSum α ((qs.zip rs).map term)).toFmt fmtF32 α nan
    | none =>
      let term (x : Nat × Nat) : Int :=
        let a := signedOf x.1 8
        let b := signedOf x.2 8
        if c.metric = 0 then (a - b) * (a - b) else a * b
      let t := ((qs.zip rs).map term).sum
      fmtF32.round .ne (decide (t < 0)) t.natAbs 0
  if c.metric = 2 then
    let v : FEnv := ⟨.ne, false, nan⟩
    let norm (x : Nat) : Nat := bitsOf x (8 * c.elems * c.elemBytes) 32
    fmtF32.mul v s (fmtF32.mul v (norm q) (norm r))
  else s

namespace State

/-- The descriptor at the lowest active lane. -/
def distDesc (s : State) (g : BitVec 3) (a : BitVec 6) : Option DistDesc :=
  (s.lowest g).map fun l =>
    let w (i : Nat) : Nat := (s.V (a.toNat + i) l).toNat
    ⟨bitsOf (w 0) 4 13, bitsOf (w 0) 2 2, bitsOf (w 0) 0 2, bitsOf (w 0) 17 15, w 1, w 2, w 3⟩

/-- The offset of a lane's row. -/
def distRow (s : State) (c : DistDesc) (b : BitVec 6) (l : Nat) : Nat := c.base + c.stride * (s.V b.toNat l).toNat

/-- The faults of `dist`. -/
def distTrap (s : State) (g : BitVec 3) (a b : BitVec 6) : Option TrapInfo :=
  match s.distDesc g a with
  | none => none
  | some c =>
    if c.bad then some (s.descriptorTrap 0x05)
    else
      let out (o : Nat) : Bool := decide (Config.basinTop < o + c.rowSize)
      let lanes (k : Nat) : BitVec 4 := nibOf fun j => nib (s.act g k) j && (out c.query || out (s.distRow c b (4 * k + j)))
      s.trapLanes 7 0x06 s.cur.chain lanes fun k =>
        addrInfo (if out c.query then c.query else s.distRow c b (4 * k + lowBit (lanes k)))

end State

/-- R191. -/
def execDist (h : Hdr) (d a b : BitVec 6) (s : State) : Out :=
  s.issueWord (.dist h d a b) (fun s => s.distTrap h.guard a b) fun s =>
    match s.distDesc h.guard a with
    | some c =>
      let t := s.modMe fun g => { g with energy := g.energy + ceilDiv c.elems 16 * (s.actLanes h.guard).length }
      t.readBasinLanes d.toNat .f32
        (fun t l =>
          let q := t.basinNoted (l / 4) c.query c.rowSize
          let r := q.st.basinNoted (l / 4) (s.distRow c b l) c.rowSize
          ⟨r.st, c.value q.val r.val (fmtF32.nanOf l s.hash), q.bad || r.bad, false⟩) (s.actLanes h.guard)
    | none => s

/-! ### topk (R192) -/

/-- Whether entry x stands before entry y: descending score, then ascending identifier. -/
def keyLe (x y : Word × Word) : Bool :=
  let a := fmtF32.decode x.1.toNat
  let b := fmtF32.decode y.1.toNat
  if fLt false b a then true else if fLt false a b then false else decide (x.2.toNat ≤ y.2.toNat)

/-- Insert an entry behind those that stand before or beside it. -/
def keyInsert (x : Word × Word) : List (Word × Word) → List (Word × Word)
  | [] => [x]
  | y :: r => if keyLe y x then y :: keyInsert x r else x :: y :: r

def isNanWord (w : Word) : Bool := match fmtF32.decode w.toNat with | .nan _ _ => true | _ => false

namespace State

/-- The merged list: the old one and the candidates that are numbers, in key order. -/
def bestList (s : State) (g : BitVec 3) (d a b : BitVec 6) : List (Word × Word) :=
  let old := s.issLanes.map fun l => (s.V d.toNat l, s.V (d.toNat + 1) l)
  let new := (s.actLanes g).map fun l => (s.V a.toNat l, s.V b.toNat l)
  (old ++ new.filter fun x => !isNanWord x.1).foldl (fun m x => keyInsert x m) []

end State

/-- R192: a list that holds a NaN score has no stated order, and its new entries are free values (log 13). -/
def execTopk (h : Hdr) (d a b : BitVec 6) (s : State) : Out :=
  s.issueWord (.topk h d a b) State.noFault fun s =>
    let best := s.bestList h.guard d a b
    let free := s.issLanes.any fun l => isNanWord (s.V d.toNat l)
    let put (t : State) (n : Nat) (f : Word × Word → Word) (tag : Tag) : State :=
      s.cur.slices.zipIdx.foldl (fun t (k, i) =>
        t.write k n 15 (fun j => if free then s.freeWord (256 + 64 * n + 4 * k + j) else ((best[4 * i + j]?).map f).getD 0) tag) t
    put (put s d.toNat Prod.fst .f32) (d.toNat + 1) Prod.snd .u32

/-! ### rng (R193) -/

/-- The 16 input bytes of a draw. -/
def drawInput (rngs : BitVec 64) (pos : Word) (purpose block : Nat) : List Nat :=
  let c := rngs.toNat * 2 ^ 64 + pos.toNat * 2 ^ 32 + purpose * 2 ^ 28 + block * 2 ^ 26
  (List.range 16).map fun i => bitsOf c (120 - 8 * i) 8

/-- The random key of a context as of its last restore (R193, R360). -/
def State.randomKey (s : State) (asid : Nat) : List Nat :=
  ((s.ctx asid).key.getD (leBytes 32 (s.ctxField asid 0x20 32))).map BitVec.toNat

/-- R193. -/
def execRng (h : Hdr) (d a : BitVec 6) (b : BitVec 2) (p : BitVec 4) (s : State) : Out :=
  s.issueWord (.rng h d a b p) State.noFault fun s =>
    let ks := s.cur.slices.filter fun k => s.act h.guard k != 0
    let t := s.modMe fun g => { g with energy := g.energy + 4 * ks.length }
    ks.foldl (fun t k =>
      let out := aes256 (s.randomKey s.me.asid) (drawInput s.me.rngs (s.V a.toNat (4 * k)) p.toNat b.toNat)
      let word (j : Nat) : Word :=
        BitVec.ofNat 32 (((List.range 4).map fun i => (out[4 * j + i]?).getD 0 * 2 ^ (24 - 8 * i)).sum)
      t.write k d.toNat (s.act h.guard k) word .u32) t

/-! ### sload and nsend (R194, R195) -/

namespace State

/-- The descriptor faults of a word that reads `n` descriptors of 32 bytes. -/
def descTrap (s : State) (a : BitVec 6) (n : Nat) (code : List Byte → Option Nat) : Option TrapInfo :=
  (s.operand a).bind fun off =>
    if off % 32 ≠ 0 ∨ Config.basinTop < off + 32 * n then some (s.descriptorTrap 0x01)
    else ((s.records off 32 n).findSome? code).map s.descriptorTrap

end State

/-- R194. -/
def execSload (h : Hd0) (a n : BitVec 6) (s : State) : Out :=
  s.issueWord (.sload h a n)
    (fun s => s.descTrap a (n.toNat + 1) fun r => s.driveReadCode s.me.reach (DriveRead.ofBytes r)) fun s =>
    s.enqueue (.sload h a n) fun s =>
      s.fork .quay ((s.records (s.commandOff a) 32 (n.toNat + 1)).map fun r => (r, (DriveRead.ofBytes r).barrier))

/-- R195. -/
def execNsend (h : Hd0) (a n : BitVec 6) (s : State) : Out :=
  s.issueWord (.nsend h a n) (fun s => s.descTrap a (n.toNat + 1) fun r => (Message.ofBytes r).code) fun s =>
    s.enqueue (.nsend h a n) fun s =>
      s.fork .send ((s.records (s.commandOff a) 32 (n.toNat + 1)).map fun r => (r, (Message.ofBytes r).barrier))

end Sys2Proof.Machine
end

