-- ==== Sys2Proof/Machine/Variant.lean ====
section
/-! DEFINITION. Variant calls (R141, R142, R335–R347): the table, selection, the frame's block, the gauges' update. -/

namespace Sys2Proof.Machine

/-- A variant table's header (Table 14-1). -/
structure VHeader where
  count : Nat
  flags : Nat
  ksh : Nat
  msh : Nat
  horizon : Nat
  pint : Nat
  pcount : Nat
  calls : Nat
  deriving DecidableEq, Repr

/-- An entry (Table 14-2). -/
structure VEntry where
  word : Word
  t : Nat
  e : Nat
  q : Nat
  samples : Nat
  stamp : Nat
  dt : Nat
  de : Nat
  dq : Nat
  deriving DecidableEq, Repr

def VHeader.ofBytes (r : List Byte) : VHeader :=
  ⟨recNat r 0 1, recNat r 1 1, recNat r 2 1, recNat r 3 1, recNat r 4 4, recNat r 8 2, recNat r 10 2, recNat r 12 4⟩

def VEntry.ofBytes (r : List Byte) : VEntry :=
  ⟨BitVec.ofNat 32 (recNat r 0 4), recNat r 4 4, recNat r 8 4, recNat r 12 2, recNat r 14 1, recNat r 16 4, recNat r 20 4,
   recNat r 24 4, recNat r 28 2⟩

def VHeader.frozen (h : VHeader) : Bool := bitOf h.flags 0
def VHeader.explore (h : VHeader) : Bool := bitOf h.flags 1

/-- A header that R141 or R336 refuses. -/
def VHeader.bad (h : VHeader) : Bool :=
  h.count == 0 || decide (8 < h.count) || decide (4 ≤ h.flags) || h.ksh == 0 || decide (7 < h.ksh) || h.msh == 0 ||
    decide (7 < h.msh) || (h.explore && h.pint == 0)

/-- Effective limits (R340). -/
structure VLimits where
  t : Nat
  e : Nat
  q : Nat
  deriving DecidableEq, Repr

/-- The effective limits of an objective, from the reduced limits and the calling frames' budgets (R340). -/
def effective (obj l1 l2 tb eb qf : Nat) : VLimits :=
  match obj with
  | 0 => ⟨tb, min l1 eb, max (min l2 0xFFFF) qf⟩
  | 1 => ⟨min l1 tb, eb, max (min l2 0xFFFF) qf⟩
  | 2 => ⟨min l1 tb, min l2 eb, qf⟩
  | 3 => ⟨tb, min l1 eb, qf⟩
  | 4 => ⟨min l1 tb, eb, qf⟩
  | 5 => ⟨min l1 tb, eb, qf⟩
  | _ => ⟨tb, eb, qf⟩

/-- The age of an entry's tags. -/
def VEntry.age (x : VEntry) (now : Nat) : Nat := (now + 2 ^ 32 - x.stamp) % 2 ^ 32

/-- Whether an entry is stale, and the tags it is judged on (R341). -/
def VEntry.stale (x : VEntry) (h : VHeader) (now : Nat) : Bool :=
  x.samples == 0 || (!h.frozen && h.horizon != 0 && decide (h.horizon < x.age now))
def VEntry.judged (x : VEntry) (h : VHeader) (now : Nat) : VLimits :=
  let ⟨t, e, q⟩ : VLimits := if x.samples = 0 then ⟨x.dt, x.de, x.dq⟩ else ⟨x.t, x.e, x.q⟩
  if x.stale h now then
    ⟨min (t + t / 2 ^ h.msh) (2 ^ 32 - 1), min (e + e / 2 ^ h.msh) (2 ^ 32 - 1), q - q / 2 ^ h.msh⟩
  else ⟨t, e, q⟩

def VEntry.eligible (x : VEntry) (h : VHeader) (lim : VLimits) (now : Nat) : Bool :=
  let j := x.judged h now
  decide (j.t ≤ lim.t) && decide (j.e ≤ lim.e) && decide (lim.q ≤ j.q)

/-- The first of some entries that no later one betters (every tie: lowest index). -/
def bestEntry (better : Nat × VEntry → Nat × VEntry → Bool) : List (Nat × VEntry) → Option Nat
  | [] => none
  | x :: r => some (r.foldl (fun b y => if better y b then y else b) x).1

/-- Whether one entry ranks before another under an objective (R340). -/
def ranks (obj : Nat) (h : VHeader) (now : Nat) (x y : Nat × VEntry) : Bool :=
  let a := x.2.judged h now
  let b := y.2.judged h now
  match obj with
  | 0 | 3 => decide (a.t < b.t)
  | 1 | 4 => decide (a.e < b.e)
  | _ => decide (b.q < a.q)

/-- A selection (R342): the entry, whether it is a fallback, whether it is a probe. -/
structure VChoice where
  entry : Nat
  fallback : Bool
  probe : Bool
  deriving DecidableEq, Repr

/-- Whether this call is due for a probe, by the header's counters (R342). -/
def VHeader.due (h : VHeader) : Bool := !h.frozen && h.explore && decide (h.pint ≤ (h.pcount + 1) % 2 ^ 16)

/-- SELECT an entry (R342). A pinned call keeps the probe that its counters give; a fallback clears it (log 42). -/
def selectEntry (h : VHeader) (es : List VEntry) (obj l1 : Nat) (lim : VLimits) (now : Nat) : VChoice :=
  let all := (List.range es.length).zip es
  let ok := all.filter fun x => x.2.eligible h lim now
  let older (x y : Nat × VEntry) : Bool := decide (y.2.age now < x.2.age now)
  if obj = 6 then (if l1 < h.count then ⟨l1, false, h.due⟩ else ⟨0, true, false⟩)
  else if ok = [] then ⟨0, true, false⟩
  else if h.due then ⟨(((ok.find? fun x => x.2.samples == 0).map Prod.fst).or (bestEntry older ok)).getD 0, false, true⟩
  else ⟨(bestEntry (ranks obj h now) ok).getD 0, false, false⟩

/-- What a `callv` comes to before its call: a trap, a fault of translation, or an entry (R141). -/
inductive VPlan where
  | idle
  | trap (t : TrapInfo)
  | park (kind : Nat) (x : XFail) (va : Nat)
  | go (hdr : Xlat) (head : VHeader) (c : VChoice) (word : Word) (lim : VLimits)

namespace State

/-- The translation of a byte of a variant table for a gang. -/
def tableXlat (s : State) (g : Gang) (va : Nat) (use : Use) (pick : Nat) : Except XFail Xlat :=
  s.translate (clusterOfCore g.core) g.asid g.reach va use (256 + pick)

/-- 32 bytes of a table at their home (R244). -/
def table32 (s : State) (x : Xlat) : List Byte := leBytes 32 (s.homeRead x.pa x.kid 32)

/-- Read the entries of a table, or meet the first page that faults. -/
def tableEntries (s : State) (g : Gang) (va : Nat) : Nat → Except (XFail × Nat) (List VEntry)
  | 0 => .ok []
  | n + 1 =>
    match s.tableEntries g va n with
    | .error e => .error e
    | .ok es =>
      let at_ := va + 32 * (n + 1)
      match s.tableXlat g at_ .read (n + 1) with
      | .error e => .error (e, at_)
      | .ok x => .ok (es ++ [VEntry.ofBytes (s.table32 x)])

/-- The least and the greatest of some lane values. -/
def leastLane (s : State) (a : BitVec 6) (ls : List Nat) : Nat := (ls.map fun l => (s.V a.toNat l).toNat).foldl min (2 ^ 32 - 1)
def greatestLane (s : State) (a : BitVec 6) (ls : List Nat) : Nat := (ls.map fun l => (s.V a.toNat l).toNat).foldl max 0

/-- The budgets of the calling frames of an instance (R340). -/
def callingBudget (s : State) (ks : List Nat) (frozen : Bool) : VLimits :=
  let of (k : Nat) : VLimits :=
    let x := s.sl k
    let q := (s.qflr x).toNat
    if frozen then
      match x.budget with
      | none => ⟨x.tb0.toNat, x.eb0.toNat, q⟩
      | some v => ⟨v.tb0.toNat, v.eb0.toNat, q⟩
    else ⟨(s.tbud s.me x).toNat, (s.ebud s.me x).toNat, q⟩
  (ks.map of).foldl (fun a b => ⟨min a.t b.t, min a.e b.e, max a.q b.q⟩) ⟨2 ^ 32 - 1, 2 ^ 32 - 1, 0⟩

/-- The earlier fences of the issuing slices complete, before a table is read (R141). -/
def fenced (s : State) : State :=
  s.cur.slices.foldl (fun s k => if (s.sl k).pend.any fun p => decide (p.kind = .release) then s.drain s.cur.gang k else s) s

/-- The steps of R141, in order. -/
def vplan (s : State) (h : Hdr) (o : BitVec 3) (va vb : BitVec 6) (sg : BitVec 3) (off : BitVec 29) : VPlan :=
  let ls := s.actLanes h.guard
  match ls with
  | [] => .idle
  | l₀ :: _ =>
    let g := s.me
    let sgm := g.seg sg.toNat
    let o32 := 32 * off.toNat
    let base := sgm.base.toNat + o32
    let outside (n : Nat) : Bool := decide (sgm.limit.toNat < o32 + n) || decide (2 ^ 57 ≤ base)
    let trap (cause : Nat) (tpc : Word) : VPlan :=
      .trap { rank := 7, cause := cause, slot := s.cur.slot, imp := false,
              who := s.cur.slices.map fun k => ⟨k, (s.sl k).mask, (addrInfo base).1, (addrInfo base).2, tpc⟩ }
    if outside 32 then trap 0x06 s.cur.chain
    else match s.tableXlat g base .read 0 with
    | .error e => .park 1 e base
    | .ok x =>
      let head := VHeader.ofBytes (s.table32 x)
      if head.bad then trap 0x11 s.cur.widx
      else if outside (32 + 32 * head.count) then trap 0x06 s.cur.chain
      else match (if head.frozen then .ok x else s.tableXlat g base .write 0), s.tableEntries g base head.count with
      | .error e, _ => .park 3 e base
      | _, .error (e, at_) => .park 1 e at_
      | .ok _, .ok es =>
        let b := s.callingBudget (s.cur.slices.filter fun k => decide (s.act h.guard k ≠ 0)) head.frozen
        let l1 := if o = 6 then (s.V va.toNat l₀).toNat else s.leastLane va ls
        let l2 := if o = 0 ∨ o = 1 then s.greatestLane vb ls else s.leastLane vb ls
        let lim := effective o.toNat l1 l2 b.t b.e b.q
        let c := selectEntry head es o.toNat l1 lim (bitsOf s.now 16 32)
        .go x head c ((es[c.entry]?.map VEntry.word).getD 0) lim

/-- The trap of a `callv`. -/
def vTrap (s : State) (h : Hdr) (l o : BitVec 3) (va vb : BitVec 6) (sg : BitVec 3) (off : BitVec 29) : Option TrapInfo :=
  let d := 8 * l.toNat
  match s.vplan h o va vb sg off with
  | .trap t => some t
  | .go _ _ _ w _ => s.callTrap h.guard (16 * d + roundUp d 16 + 48) fun _ => w
  | _ => none

/-- The Atomic on a table's header at its home: CALLS and PCOUNT (R342, R344). -/
def countCall (s : State) (x : Xlat) (va : Nat) : State :=
  let g := s.me
  let h := VHeader.ofBytes (s.table32 x)
  if h.frozen then s
  else
    let n := if h.explore then (if h.due then 0 else (h.pcount + 1) % 2 ^ 16) else h.pcount
    (s.homePut g.core s.cur.gang ⟨x.pa + 10, x.kid, x.policy, x.counted, va + 10, g.asid⟩ 6
      (n + (h.calls + 1) % 2 ^ 32 * 2 ^ 16)).countIf (dieOfCore g.core) g.asid x.pa s.cur.gang x.counted

/-- Park every issuing slice on a table's page, with one record (R141, R391). -/
def parkTable (s : State) (kind : Nat) (x : XFail) (va : Nat) (g : BitVec 3) : State :=
  let id := s.nextPark (dieOfCore s.me.core)
  let ls := s.actLanes g
  let s' := s.newPark s.cur.gang (ls.headD 0 / 4) s.cur.widx.toNat kind va x (lanesWord ls)
  s.cur.slices.foldl (fun s' k => s'.parkSlice s.cur.gang k s.cur.widx s.cur.next (s.act g k) [id] .table) s'

/-- `vsel` (Table 5-7). -/
def vselOf (c : VChoice) : Word := BitVec.ofNat 32 (c.entry % 8 + flagBit c.fallback 8 + flagBit c.probe 9)

end State

/-- R141; the checks see the budgets after the word's own charge, as its effect does (R378), and the table after the slices' earlier
fences. -/
def execCallv (h : Hdr) (l o : BitVec 3) (va vb : BitVec 6) (sg : BitVec 3) (off : BitVec 29) (s : State) : Out :=
  s.issueWord (.callv h l o va vb sg off)
    (fun s => (s.chargeWord (.callv h l o va vb sg off) 0).fenced.vTrap h l o va vb sg off) fun s =>
    let s := s.fenced
    match s.vplan h o va vb sg off with
    | .park kind x a => s.parkTable kind x a h.guard
    | .go x head c w lim =>
      let at_ := (s.me.seg sg.toNat).base.toNat + 32 * off.toNat
      let block : VBlock :=
        { table := at_, tb0 := BitVec.ofNat 32 lim.t, eb0 := BitVec.ofNat 32 lim.e, start := s.now, energy := s.me.energy,
          qf := BitVec.ofNat 32 lim.q, reported := none, entry := c.entry, frozen := head.frozen, probe := c.probe,
          away := s.me.away, hot := false }
      s.enterCallee h.guard .callv (8 * l.toNat) 1 (fun _ => some block) (fun _ => w) fun t =>
        (t.cur.slices.filter fun k => decide (t.act h.guard k ≠ 0)).foldl
          (fun t k => t.modSl k fun x => { x with vsel := State.vselOf c }) (t.countCall x at_)
    | _ => s.cur.slices.foldl (fun s' k => s'.goTo k (s.cur.widx + 2)) s

/-- Report a quality in the frame a slice stands in, when a `callv` entered it and its table is not frozen (R142). -/
def reportQ (q : Nat) (x : Slice) : Slice :=
  match x.frames with
  | f :: r => match f.vb with
    | some v => if v.frozen then x else { x with frames := { f with vb := some { v with reported := some q, hot := f.spilled } } :: r }
    | none => x
  | [] => x

/-- R142. -/
def execVqual (h : Hd0) (a : BitVec 6) (s : State) : Out :=
  s.issueWord (.vqual h a) State.noFault fun s =>
    match s.actLanes 0 with
    | [] => s
    | ls => s.eachSl fun _ => reportQ (min (s.leastLane a ls) 0xFFFF)

/-- An entry after one update (R347). -/
def VEntry.update (x : VEntry) (k mt me : Nat) (rq : Option Nat) : Nat × Nat × Nat :=
  let ease (old new : Nat) : Nat := old - old / 2 ^ k + new / 2 ^ k
  if x.samples = 0 then (mt, me, rq.getD x.dq)
  else (ease x.t mt, ease x.e me, (rq.map (ease x.q)).getD x.q)

namespace State

/-- The translations of the update of an instance's entry, none for a frozen table (R347). -/
def updateXlat (s : State) (g : Gang) (v : VBlock) : Except (XFail × Nat) (Option (Xlat × Xlat)) :=
  let e := v.table + 32 * (v.entry + 1)
  match s.tableXlat g v.table .read 0 with
  | .error x => .error (x, v.table)
  | .ok a =>
    if (VHeader.ofBytes (s.table32 a)).frozen then .ok none
    else match s.tableXlat g e .write 1 with
      | .error x => .error (x, e)
      | .ok b => .ok (some (a, b))

/-- The update Atomic of an instance that returns now, in which its slices reported `rq`, at the table's home (R346, R347). -/
def updateEntry (s : State) (gi : Nat) (v : VBlock) (a b : Xlat) (rq : Option Nat) : State :=
  let g := s.gang gi
  let h := VHeader.ofBytes (s.table32 a)
  if h.frozen then s
  else
    let va := v.table + 32 * (v.entry + 1)
    let old := s.homeRead b.pa b.kid 32
    let x := VEntry.ofBytes (leBytes 32 old)
    let mt := min (s.elapsed g v) (2 ^ 32 - 1)
    let me := min (g.energy - v.energy) (2 ^ 32 - 1)
    let (t, e, q) := x.update h.ksh mt me rq
    let new := t % 2 ^ 32 + e % 2 ^ 32 * 2 ^ 32 + q % 2 ^ 16 * 2 ^ 64 + min (x.samples + 1) 255 * 2 ^ 80 +
      bitsOf old 120 8 * 2 ^ 88 + bitsOf s.now 16 32 * 2 ^ 96
    (s.homePut g.core gi ⟨b.pa + 4, b.kid, b.policy, b.counted, va + 4, g.asid⟩ 16 new).countIf (dieOfCore g.core) g.asid b.pa gi b.counted

end State

end Sys2Proof.Machine
end

