-- ==== Sys2Proof/Machine/EvIssue.lean ====
section
/-! DEFINITION. Events of issue: imprecise traps, breakpoints, the meetings of slices, the ends of waits, the tow engine and
the deadlock checker (R138, R139, R151–R153, R182, R221, R289, R295, R298–R300). An event that its state does not enable
changes nothing (log 1). -/

namespace Sys2Proof.Machine

namespace State

/-- An event: its effect where the state enables it. -/
def onlyIf (s : State) (b : Bool) (f : State → State) : Out := .next (if b then f s else s)

/-! ### What the events share -/

/-- A gang that a stop does not hold. -/
def running (s : State) (g : Nat) : Bool := (s.gangs.find g).any fun y => y.stop.isNone

/-- A waiting slice that neither a stop nor a pre-emption holds. -/
def awake (s : State) (g k : Nat) : Bool :=
  s.running g && decide ((s.slice g k).live ≠ 0) && !s.preempting (s.gang g).asid

/-- The slices of one issuing set that wait as slice `k` does. -/
def mates (s : State) (g k : Nat) : List Nat :=
  let x := s.slice g k
  (s.liveSlices g).filter fun j =>
    let y := s.slice g j
    y.stream == x.stream && y.pc == x.pc && decide (y.wait = x.wait)

/-- Slices go on after a wait. -/
def wakeAll (s : State) (g : Nat) (ks : List Nat) : State :=
  ks.foldl (fun s k => s.modSlice g k fun x => x.resume s.now) s

/-- The packet slot of the word at which a slice stands. -/
def slotOf (s : State) (g k : Nat) : Nat := (s.slice g k).pc.toNat % 3

/-- A trap that some slices of a gang meet at the words they wait at, each in its own slot. -/
def waitTrap (s : State) (g cause : Nat) (ks : List Nat) (tinfo tinfo2 : Word) : TrapInfo :=
  { rank := 7, cause := cause, slot := s.slotOf g (ks.headD 0), imp := false,
    who := ks.map fun k => ⟨k, (s.slice g k).mask, tinfo, tinfo2, (s.slice g k).pc⟩,
    each := ks.map fun k => (k, cause, s.slotOf g k) }

/-- The barrier of a gang's core. -/
def barrierOf (s : State) (g n : Nat) : Barrier := s.barrier (s.gang g).core n

/-! ### Traps outside an issue (R139, R180, R295) -/

/-- The slices of a gang that hold a failed release. -/
def failedSlices (s : State) (g : Nat) : List Nat :=
  ((s.gang g).slices.filter fun (_, x) => x.failed.isSome).map Prod.fst

/-- The slices that a mismatch of regang points traps with no new arrival. -/
def unmatched (s : State) (g : Nat) : List Nat := s.mismatch g fun k => if s.awake g k then (s.slice g k).point else none

/-- Whether a gang has a trap to take outside an issue. -/
def trapDue (s : State) (g : Nat) : Bool :=
  (s.gangs.find g).any fun y =>
    (s.failedSlices g != [] && (y.stop.all fun t => !resumable t.reason)) || (y.stop.isNone && s.unmatched g != [])

/-- Forget the failed releases of slices. -/
def clearFailed (s : State) (g : Nat) (ks : List Nat) : State :=
  ks.foldl (fun s k => s.modSlice g k fun x => { x with failed := none }) s

/-- The region to which a failed release of a slice is attributed, with its START: the one open when its word issued, while a
region of that level is open (R145, R294, R295; log 66). -/
def blamed (x : Slice) : Option (Word × Region) :=
  match x.failed.bind Failed.region with
  | some (n, start, r) => if n = x.levels.length ∧ x.region.isSome then some (start, r) else none
  | none => none

/-- The imprecise trap of slices whose release failed: at the start of the region of each, or a region-loss stop (R295). -/
def impreciseTrap (s : State) (g : Nat) (ks : List Nat) : State :=
  let fail (k : Nat) : Failed := (s.slice g k).failed.getD ⟨0, 0, 0, none⟩
  let start (k : Nat) : Word := ((blamed (s.slice g k)).map Prod.fst).getD 0
  let info (k : Nat) : Word × Word :=
    ((addrInfo (fail k).va).1, BitVec.ofNat 32 (bitsOf (fail k).va 32 25 + wordHash (fail k).store % 128 * 2 ^ 25))
  let s' := s.clearFailed g ks
  match ks.find? fun k => (blamed (s.slice g k)).isNone with
  | some k => s'.stopGang g (s.stopAt g k 10)
  | none =>
    (ks.foldl (fun t k => t.modSlice g k fun x =>
      { x with region := (blamed (s.slice g k)).map Prod.snd, tregion := (x.tregion &&& 0xFF000000) ||| start k }) s').trapGang g
      { rank := 7, cause := 0x1B, slot := (fail (ks.headD 0)).widx % 3, imp := true,
        who := ks.map fun k => ⟨k, (s.slice g k).mask, (info k).1, (info k).2, start k⟩,
        each := ks.map fun k => (k, 0x1B, (fail k).widx % 3) }

/-- Take what `trapDue` names: a failed release first. -/
def takeDue (s : State) (g : Nat) : State :=
  let ks := s.failedSlices g
  let live := ks.filter fun k => (s.slice g k).live != 0
  if (s.gang g).stop.isSome then ks.foldl (fun s k => s.lateFault g k) s
  else
    let s := (ks.filter fun k => !live.contains k).foldl (fun s k => s.lateFault g k) s
    if live ≠ [] then s.impreciseTrap g live
    else if ks ≠ [] then s
    else
      s.trapGang g (s.waitTrap g 0x0F (s.unmatched g) 0 0)

end State

/-- R289, R295: a gang takes the trap of a release that failed, or of regang points that can no longer meet. -/
def execTrapEntry (g : Nat) (s : State) : Out := s.onlyIf (s.trapDue g) fun s => s.takeDue g

/-! ### Breakpoints (R300) -/

namespace State

/-- The words of the chain that a slice is about to issue: a waiting word that it issues again alone; none while it performs the
rest of a chain, replays a parked word or runs a microprogram. -/
def nextChain (s : State) (g k : Nat) : List Nat :=
  let x := s.slice g k
  if x.again then [x.pc.toNat]
  else if x.replay.isSome ∨ x.macroAt.isSome ∨ x.rest ≠ [] then []
  else match s.packet (s.gang g) x.pc.toNat with
    | .ok p => (p.chain (x.pc.toNat % 3)).map (x.pc.toNat - x.pc.toNat % 3 + ·)
    | .error _ => []

/-- The breakpoint of a slice's next chain, by its index. -/
def breakAt (s : State) (g k : Nat) : Option Nat :=
  let c := s.ctx (s.gang g).asid
  if !c.debugger || decide ((s.gang g).passBreak = some (s.slice g k).pc) then none
  else
    let ws := s.nextChain g k
    (List.range c.breaks.length).find? fun i => ws.contains ((c.breaks[i]?).getD 0)

/-- Whether a slice stands inside a chain: it still performs single words of one, or the operations of a `macro`. -/
def midChain (x : Slice) : Bool := x.rest != [] || x.replay.isSome || x.macroAt.isSome

/-- Whether a pre-emption has stopped a slice: at a `hint`, at a waiting or a parked word, or past the deadline between chains
(R373). -/
def haltedAt (s : State) (g k : Nat) : Bool :=
  let x := s.slice g k
  s.preempting (s.gang g).asid &&
    (x.halted || x.wait.isSome || x.park.isSome || ((s.preempt.any Preempt.forced) && !midChain x))

/-- Whether a slice could issue, its queue and its timing apart. -/
def canIssue (s : State) (g k : Nat) : Bool :=
  let x := s.slice g k
  s.running g && x.live != 0 && x.wait.isNone && x.park.isNone && (s.gang g).gwait.isNone && (s.gang g).started && !s.haltedAt g k

end State

/-- R300: the quarter stops before the chain issues. -/
def execBreakpointStop (g k : Nat) (s : State) : Out :=
  s.onlyIf (s.canIssue g k && (s.breakAt g k).isSome) fun s =>
    s.stopGang g { s.stopAt g k 2 with info := BitVec.ofNat 32 ((s.breakAt g k).getD 0) }

/-! ### Meetings (R138, R139) -/

namespace State

/-- Whether every live slice of a gang waits, as `p` says, at one word and one depth. -/
def allMeet (s : State) (g : Nat) (p : Wait → Bool) : Bool :=
  let ks := s.liveSlices g
  let x₀ := s.slice g (ks.headD 0)
  ks != [] && ks.all fun k =>
    let x := s.slice g k
    s.awake g k && x.wait.any p && x.pc == x₀.pc && x.relDepth == x₀.relDepth

/-- Whether a call instance may return. -/
def instanceMeets (s : State) (g inst : Nat) : Bool :=
  let ks := s.instanceOf g inst
  ks != [] && ks.all fun k => s.awake g k && decide ((s.slice g k).point = some (1, inst % 2 ^ 16))

/-- Park a slice at the `ret` it waits at (R222, R347). -/
def parkRet (s : State) (g k kind : Nat) (pk : ParkKind) (e : XFail) (va : Nat) : State :=
  let id := s.nextPark (dieOfCore (s.gang g).core)
  let x := s.slice g k
  (s.newPark g k x.pc.toNat kind va e (laneWord k (s.linkMask g k))).parkSlice g k x.pc x.next (s.linkMask g k) [id] pk

/-- A slice returns from its innermost frame (R138, R217). -/
def leaveFrame (ring now : Nat) (x : Slice) : Slice :=
  match x.frames with
  | [] => x
  | f :: _ =>
    let y := (x.slideOut ring).closeRegion
    { y with
      mask := f.mask &&& x.live, pc := f.ret, wait := none, dix := x.dix + 1, rest := [], replay := none, again := false, alone := false,
      olds := [], readySince := now, ready := max x.ready now }

/-- The quality that the slices of an instance reported, those that have ended included (R346). -/
def instanceQ (s : State) (g inst : Nat) (ks : List Nat) : Option Nat :=
  let mine := ks.filterMap fun k => ((s.slice g k).frames.head?.bind Frame.vb).bind VBlock.reported
  let all := (((s.gang g).instReports.find inst).toList ++ mine)
  match all with
  | [] => none
  | q :: r => some (r.foldl min q)

/-- Every slice of an instance leaves its frame, and they go on as one stream. -/
def returnAll (s : State) (g inst : Nat) (ks : List Nat) : State :=
  let ring := (s.gang g).ring
  let s := ks.foldl (fun s k => s.modSlice g k (leaveFrame ring s.now)) s
  (s.modGang g fun y => { y with instReports := y.instReports.del inst }).newStream g ks

/-- The slice of an instance whose `ret` came last, which gauges it (R346, R347). -/
def lastReturner (s : State) (g : Nat) (ks : List Nat) : Nat :=
  ks.foldl (fun m k => if (s.slice g m).issuedAt < (s.slice g k).issuedAt then k else m) (ks.headD 0)

/-- RETURN OF A CALL INSTANCE: the frames are refilled where they must be, the gauges of a variant call are updated, and
the slices return; a transfer or an update that faults parks its slice with nothing performed (R138, R222, R347). -/
def returnInstance (s : State) (g inst : Nat) : State :=
  let ks := s.instanceOf g inst
  let k₀ := ks.headD 0
  match s.towAll (fun s k => s.needFrame g k) ks with
  | (.fault e va, who) => s.parkRet g who 5 .tow e va
  | (.broken b, who) => s.towBroken g who b
  | (.fine s, _) =>
    let full := ((s.slice g k₀).frames.head?.map Frame.inst).getD inst
    match (s.slice g k₀).frames.head?.bind Frame.vb with
    | none => s.returnAll g full ks
    | some v =>
      match s.updateXlat (s.gang g) v with
      | .error (e, va) => s.parkRet g (s.lastReturner g ks) 3 .table e va
      | .ok none => s.returnAll g full ks
      | .ok (some (a, b)) => (s.updateEntry g v a b (s.instanceQ g full ks)).returnAll g full ks

end State

/-- R139: the slices go on as one stream; the release closes their regions (R294). -/
def execRegangRelease (g : Nat) (s : State) : Out :=
  s.onlyIf (s.allMeet g fun w => decide (w = .regang)) fun s =>
    let ks := s.liveSlices g
    (ks.foldl (fun s k => s.modSlice g k fun x => (x.resume s.now).closeRegion) s).newStream g ks

/-- R138, R347. -/
def execRetRendezvous (g inst : Nat) (s : State) : Out := s.onlyIf (s.instanceMeets g inst) fun s => s.returnInstance g inst

/-! ### The ends of waits (R151–R153, R182, R298) -/

namespace State

/-- Whether a sleeping slice wakes now. -/
def sleepOver (s : State) (g k : Nat) : Bool :=
  s.awake g k && match (s.slice g k).wait with
    | some (.sleep w) => decide (w ≤ s.now)
    | some (.sleepC w n spanned) =>
      (s.barrierOf g n).fault || (s.barrierOf g n).pending == 0 || (!spanned && decide (w ≤ s.now))
    | _ => false

/-- The barrier a waiting slice waits on. -/
def waitsOn : Wait → Option Nat
  | .wait n _ => some n
  | .waitCnt n => some n
  | _ => none

/-- Whether a slice's wait on a barrier is over. -/
def waitOver (s : State) (g k : Nat) : Bool :=
  s.awake g k && match (s.slice g k).wait with
    | some (.wait n p) => (s.barrierOf g n).fault || (s.barrierOf g n).phase != p
    | some (.waitCnt n) => (s.barrierOf g n).fault || (s.barrierOf g n).pending == 0
    | _ => false

/-- Whether a `fence.eng` is over: every thread forked by its slices has ended. -/
def fenceOver (s : State) (g k : Nat) : Bool :=
  s.awake g k && decide ((s.slice g k).wait = some .fenceEng) &&
    (s.mates g k).all fun j => (s.slice g j).forked.all fun t => (s.thread t).ended.isSome

/-- The barriers of the faulted threads in a slice's set. -/
def faultedBarriers (s : State) (g k : Nat) : List Nat :=
  (s.slice g k).forked.filterMap fun t => if (s.thread t).ended = some 0 then none else some (s.thread t).barrier

/-- The fault that ends a slice's wait: its cause, its barrier, its `tinfo2`, its `tpc`. A barrier fault stands at the word (R151, R152,
R298); a missed promise is taken after the word, whatever its chain goes on to (R122, R151, R297; log 11). -/
def waitFault (s : State) (g k : Nat) : Option (Nat × Nat × Word × Word) :=
  let x := s.slice g k
  let hit (n : Nat) : Nat × Nat × Word × Word :=
    (0x14, n, if (s.barrierOf g n).fault then (s.barrierOf g n).stamp else 0, x.pc)
  match x.wait with
  | some (.sleepC _ n _) =>
    if !s.sleepOver g k then none
    else if (s.barrierOf g n).fault then some (hit n)
    else if (s.barrierOf g n).pending = 0 then none
    else some (0x13, n, BitVec.ofNat 32 (s.barrierOf g n).pending, x.pc + 1)
  | some .fenceEng =>
    if s.fenceOver g k then (((s.mates g k).flatMap (s.faultedBarriers g)).foldl addSorted []).head?.map hit else none
  | some w => (waitsOn w).bind fun n => if s.waitOver g k && (s.barrierOf g n).fault then some (hit n) else none
  | none => none

/-- What a fault of its wait leaves of a slice besides the trap: a missed promise retires its word, a `fence.eng` forgets the threads it
reports. -/
def afterFault (s : State) (cause n : Nat) (x : Slice) : Slice :=
  if cause = 0x13 then x.resume s.now
  else if x.wait = some .fenceEng then { x with forked := x.forked.filter fun t => (s.thread t).barrier != n }
  else x

/-- Every slice of a gang whose wait ends in a fault takes it, each with its own cause (R287); `pmiss` counts each `sleep.c` that
missed its promise. -/
def faultWaits (s : State) (g : Nat) : State :=
  let fs := (s.liveSlices g).filterMap fun k => (s.waitFault g k).map fun f => (k, f)
  let missed := fs.filter fun f => f.2.1 == 0x13 && decide ((s.mates g f.1).head? = some f.1)
  let t := fs.foldl (fun t f => t.modSlice g f.1 (s.afterFault f.2.1 f.2.2.1)) s
  (t.modGang g fun y => { y with pmiss := y.pmiss + BitVec.ofNat 32 missed.length }).trapGang g
    { rank := 7, cause := (fs.head?.map fun f => f.2.1).getD 0, slot := s.slotOf g ((fs.map Prod.fst).headD 0), imp := false,
      who := fs.map fun (k, _, n, w, at_) => ⟨k, (s.slice g k).mask, BitVec.ofNat 32 n, w, at_⟩,
      each := fs.map fun (k, c, _) => (k, c, s.slotOf g k) }

/-- A sleeper wakes: to a fault, or to a join. -/
def sleepEnds (s : State) (g k : Nat) : State :=
  let ks := s.mates g k
  if (s.waitFault g k).isSome then s.faultWaits g
  else match (s.slice g k).wait with
    | some (.sleepC _ n _) => (ks.foldl (fun s j => s.joinBarrier g j n) s).wakeAll g ks
    | _ => s.wakeAll g ks

/-- Whether a pause has run out. -/
def pauseOver (s : State) (g k : Nat) : Bool :=
  s.awake g k && match (s.slice g k).wait with
    | some (.pause t) => decide (t ≤ s.now)
    | _ => false

/-- The state in which slices of a gang are about to issue a word, outside an issue. -/
def facing (s : State) (g : Nat) (ks : List Nat) (w : Nat) : State :=
  { s with cur := { Issue.idle with gang := g, slices := ks, widx := BitVec.ofNat 32 w, chain := BitVec.ofNat 32 w } }

/-- Whether the engine queues have room for the word at which a slice waits (R182). -/
def roomNow (s : State) (g k : Nat) : Bool :=
  s.awake g k && decide ((s.slice g k).wait = some .queue) &&
    match s.packet (s.gang g) (s.slice g k).pc.toNat with
    | .error _ => true
    | .ok p => match p.instr (s.slotOf g k) with
      | .ok i => (s.facing g (s.mates g k) (s.slice g k).pc.toNat).room i
      | .error _ => true

/-- A `fence.eng` ends: it reports the lowest faulted barrier and forgets its threads, or joins every thread (R298, R253). -/
def fenceEnds (s : State) (g k : Nat) : State :=
  let ks := s.mates g k
  let c := (s.gang g).core
  if (s.waitFault g k).isSome then s.faultWaits g
  else (ks.foldl (fun s j => (s.modSlice g j fun x => { x with forked := [] }).acquire c (dieOfCore c) g) s).wakeAll g ks

end State

/-- R151. -/
def execSleepWake (g k : Nat) (s : State) : Out := s.onlyIf (s.sleepOver g k) fun s => s.sleepEnds g k

/-- R152: a join and an acquire, or a barrier fault. -/
def execWaitRelease (g k : Nat) (s : State) : Out :=
  s.onlyIf (s.waitOver g k) fun s =>
    match (s.slice g k).wait.bind State.waitsOn with
    | none => s
    | some n =>
      if (s.waitFault g k).isSome then s.faultWaits g
      else
        let ks := s.mates g k
        (ks.foldl (fun s j => s.joinBarrier g j n) s).wakeAll g ks

/-- R153. -/
def execPauseEnd (g k : Nat) (s : State) : Out := s.onlyIf (s.pauseOver g k) fun s => s.wakeAll g (s.mates g k)

/-- R182: the word issues, alone. -/
def execEngineQueueRoom (g k : Nat) (s : State) : Out :=
  s.onlyIf (s.roomNow g k) fun s =>
    (s.mates g k).foldl (fun s j => s.modSlice g j fun x =>
      { x with wait := none, replay := some x.mask, again := true, readySince := s.now }) s

/-- R298, R253. -/
def execFenceEngJoin (g k : Nat) (s : State) : Out := s.onlyIf (s.fenceOver g k) fun s => s.fenceEnds g k

/-! ### The deadlock checker (R299) -/

namespace State

/-- The gangs of a launch that may still wait on a barrier bound to a group: each member that is placed and has not ended,
and none for a member still to be placed. -/
def memberGangs (s : State) (core n : Nat) : Option (List Nat) :=
  (s.core core).barrierLaunch.find n |>.bind fun l =>
    (s.launch l).img.bind fun i =>
      (i.groups.find? fun q => q.id == (s.barrier core n).group).bind fun q =>
        let mine := s.gangs.filter fun (_, y) => y.launch == l && q.members.contains y.index
        if q.members.any fun m => decide ((s.launch l).placed ≤ m) && ((s.launch l).cores.find m).isNone then none else some (mine.map Prod.fst)

/-- A slice that waits on a barrier for its phase. -/
def phaseWaiter (s : State) (g k n : Nat) : Bool :=
  match (s.slice g k).wait with
  | some (.wait m _) => m == n
  | _ => false

/-- Whether a bound barrier's phase cannot complete. -/
def deadlocked (s : State) (core n : Nat) : Bool :=
  let b := s.barrier core n
  b.armed && b.group != 0xFF && decide (0 < b.remain) && !s.counting core n &&
    match s.memberGangs core n with
    | none => false
    | some gs =>
      gs != [] && gs.all fun g =>
        (s.gang g).core == core && s.running g && (s.liveSlices g).all fun k => s.awake g k && s.phaseWaiter g k n && !s.waitOver g k

end State

/-- R299: every waiting slice takes the cause; the barrier is unchanged. -/
def execBarrierDeadlock (core n : Nat) (s : State) : Out :=
  s.onlyIf (s.deadlocked core n) fun s =>
    let w := BitVec.ofNat 32 (s.barrier core n).remain
    ((s.memberGangs core n).getD []).foldl (fun s g =>
      s.trapGang g (s.waitTrap g 0x1C (s.liveSlices g) (BitVec.ofNat 32 n) w)) s

/-! ### The tow engine in the background (R218, R221, R225) -/

/-- Whether the newest spilled frame of a slice finds free ring positions. -/
def State.refillFits (s : State) (g k : Nat) : Bool :=
  let x := s.slice g k
  match x.frames[(x.frames.takeWhile fun f => !f.spilled).length]? with
  | some f => (s.gang g).fits { x with frames := { f with spilled := false } :: x.frames }
  | none => false

/-- R218, R221: a spill that faults is abandoned. -/
def execTowSpill (g k : Nat) (s : State) : Out :=
  match s.spill g k with
  | .fine t => .next t
  | _ => .next s

/-- R221, R225: a refill that faults is abandoned; a header that does not agree stops the gang. -/
def execTowRefill (g k : Nat) (s : State) : Out :=
  s.onlyIf (s.refillFits g k) fun s =>
    match s.refill g k with
    | .fine t => t
    | .fault _ _ => s
    | .broken b => s.towBroken g k b

end Sys2Proof.Machine
end

