-- ==== Sys2Proof/Machine/EvOrder.lean ====
section
/-! DEFINITION. The moves of the ordering machine that run by themselves: Register, Atomic, the completion of a release,
Write-back, Fill, Drop (R242, R243, R245, R247, R248). -/

namespace Sys2Proof.Machine

/-- The oldest entry of PEND that a test names, with the entries older than it (newest of them first), and those younger. -/
def splitPend (p : Pend → Bool) : List Pend → List Pend → Option (List Pend × Pend × List Pend)
  | _, [] => none
  | older, q :: r => if p q then some (older, q, r) else splitPend p (q :: older) r

/-- The entry a move may take: the oldest of its kind, with no older release and no older entry that overlaps it (R242); with it the
entries older than it, the oldest first, and those younger. -/
def movable (p : Pend → Bool) (ps : List Pend) : Option (List Pend × Pend × List Pend) :=
  (splitPend p [] ps).bind fun (older, q, r) =>
    if older.any fun o => decide (o.kind = .release) || overlap o.pa o.size q.pa q.size then none
    else some (older.reverse, q, r)

namespace State

def pendOf (s : State) (g k : Nat) : List Pend := (s.slice g k).pend

/-- Whether a lane of a lower slice comes before an entry by the order of the lanes of its word (R167). -/
def laneBlocked (s : State) (g k : Nat) (q : Pend) : Bool := (List.range k).any fun j => s.lanesBefore g j q != 0

/-- Take an entry of PEND out and perform it. -/
def takeEntry (s : State) (g k : Nat) (p : Pend → Bool) (f : State → Pend → State) : State :=
  match movable p (s.pendOf g k) with
  | none => s
  | some (older, q, r) =>
    if s.laneBlocked g k q then s
    else f (s.modSlice g k fun x => { x with pend := older ++ r }) q

/-- The place of a context's line that a core may bring in: mapped CACHED (R245). -/
def fillPlace (s : State) (core asid va : Nat) : Option (Xlat × Place) :=
  if !s.ctxValid asid then none
  else match s.translate (clusterOfCore core) asid (s.ctxReach asid) va .read 0 with
    | .error _ => none
    | .ok x => if x.policy = 0 then some (x, ⟨x.pa, x.kid, x.policy, false, va, asid⟩) else none

end State

/-- R242. -/
def execMoveRegister (g k : Nat) (s : State) : Out :=
  .next (s.takeEntry g k Pend.isStore fun s q => s.performStore g k q)

/-- R243. -/
def execMoveAtomic (g k : Nat) (s : State) : Out :=
  .next (s.takeEntry g k Pend.isRmw fun s q => s.performRmw g k q)

/-- R247: a release at the head of PEND completes. -/
def execMoveReleaseComplete (g k : Nat) (s : State) : Out :=
  s.onlyIf ((s.pendOf g k).head?.any fun p => decide (p.kind = .release)) fun s => s.takeOldest g k

/-- R248: the dirty word that holds the byte `key`. -/
def execMoveWriteBack (die key : Nat) (s : State) : Out := .next (s.writeBack die (key / 4))

/-- R245. -/
def execMoveFill (core asid va : Nat) (s : State) : Out :=
  match s.fillPlace core asid va with
  | none => .next s
  | some (x, p) => .next (((s.keepXlat (clusterOfCore core) asid x).dropAlias core p).fillL1 core (dieOfCore core) p)

/-- R245: the line that holds the byte `key` leaves an L1, a path cache, or (its clean bytes) an aqueduct. -/
def execMoveDrop (cache : CacheName) (unit key : Nat) (s : State) : Out :=
  match cache with
  | .l1 => .next (s.modCore unit fun c => { c with l1 := State.dropLine c.l1 key })
  | .path => .next (s.modCore unit fun c => { c with pc := State.dropLine c.pc key })
  | .tile => .next (s.modCore unit fun c => { c with pt := State.dropLine c.pt key })
  | .aqueduct => .next (s.modDie unit fun d => { d with aq := State.dropClean d.aq key })

end Sys2Proof.Machine
end

