-- ==== Sys2Proof/Machine/EvEngine.lean ====
section
/-! DEFINITION. Engine threads (R195, R251, R252, R257–R266, R281–R283, R370, R396): their accesses word by word, landings
unit by unit, summaries, follow-on commands, drive reads, messages. A thread holds the bytes it has read, numbered from 0
through the rows of its request; a command those that it needs, under the keys of its words. -/

namespace Sys2Proof.Machine

/-- A row of an engine's source or destination: its space (0 flat, 1 Basin, 2 deck), its address, its bytes, the number of its
first byte. -/
structure Row where
  space : Nat
  base : Nat
  len : Nat
  first : Nat
  deriving DecidableEq, Repr

/-- The part of a row in the aligned word that holds byte `n`: its first byte's number, its address, its length (R252). -/
def Row.word (r : Row) (n : Nat) : Nat × Nat × Nat :=
  let w := (r.base + (n - r.first)) / 4 * 4
  let lo := max r.base w
  let hi := min (r.base + r.len) (w + 4)
  (r.first + (lo - r.base), lo, hi - lo)

/-- The bytes a thread moves: those of its request, or of the output it has formed. -/
def Thread.size (t : Thread) : Nat :=
  match t.kind with
  | .barge => (Barge.ofBytes t.record).total
  | .send => (Message.ofBytes t.record).bytes
  | _ => t.buffer.length

/-- A byte a thread has to write: a pattern's, or one that it has read or formed. -/
def Thread.byte (t : Thread) (n : Nat) : Option Byte :=
  let q := Barge.ofBytes t.record
  if t.kind = .barge ∧ q.kind = 5 then some (BitVec.ofNat 8 (bitsOf q.src (8 * (n % max q.rowBytes 1 % 8)) 8)) else t.buffer.find n

/-- The key under which a command keeps a word of the Basin or of flat memory. -/
def srcKey (space core addr : Nat) : Nat := if space = 0 then 2 ^ 130 + addr else keyAt basinSpace core addr

namespace State

/-! ### Ends of threads (R261, R345) -/

/-- The bytes that a thread's accesses are numbered by. -/
def extent (s : State) (t : Thread) : Nat :=
  match t.kind with
  | .quay => let q := DriveRead.ofBytes t.record; q.total (s.drive q.drive)
  | _ => t.size

/-- The bytes of one row of what a thread writes. -/
def rowLen (s : State) (t : Thread) : Nat :=
  match t.kind with
  | .barge => (Barge.ofBytes t.record).rowBytes
  | .matrix => let o := s.shape t.core (MatCmd.ofBytes t.record).out; o.cols * outBytes o.format
  | _ => t.size

/-- The units of one row, and all (R265); those of a drive read are its commands. -/
def rowUnits (s : State) (t : Thread) : Nat := ceilDiv (s.rowLen t) 64
def units (s : State) (t : Thread) : Nat :=
  match t.kind with
  | .quay => let q := DriveRead.ofBytes t.record; q.commands (s.drive q.drive)
  | _ => t.size / max (s.rowLen t) 1 * s.rowUnits t

/-- The bytes of a unit: the number of the first, and how many. -/
def unitBytes (s : State) (t : Thread) (u : Nat) : Nat × Nat :=
  match t.kind with
  | .quay => let q := DriveRead.ofBytes t.record; (u * (s.drive q.drive).most, q.bytesOf (s.drive q.drive) u)
  | _ =>
    let c := u % max (s.rowUnits t) 1
    (u / max (s.rowUnits t) 1 * s.rowLen t + 64 * c, min 64 (s.rowLen t - 64 * c))

/-- The charge of a thread as it ends (Table 14-3). -/
def threadCharge (s : State) (t : Thread) : Nat :=
  match t.kind with
  | .barge => ceilDiv ((t.landed.map fun u => (s.unitBytes t u).2).sum) 64
  | .matrix => 8 * (s.shape t.core (MatCmd.ofBytes t.record).a).rows * t.steps
  | .trestle => ceilDiv (TrestleCmd.ofBytes t.record).len 32
  | .quay =>
    let q := DriveRead.ofBytes t.record
    ceilDiv ((t.landed.map (q.bytesOf (s.drive q.drive))).sum) 4096
  | .send => 0

/-- A thread ends: its charge goes to the gang that forked it, its fault to its barrier; its command leaves the queue, and the slot of one
that has formed its output is CLOSED (R271). Commands of a drive read that an error of another ends not keep the faults they wait at
(R283). -/
def endThread (s : State) (i code index detail : Nat) : State :=
  let t := s.thread i
  let s := s.modGang t.gang fun y => { y with energy := y.energy + s.threadCharge t }
  let s := s.modThread i fun t => { t with ended := some code, parks := if code = 0x40 then t.parks else [], todo := [] }
  let s := if code = 0 then s else s.setBarrier t.core t.barrier ((s.barrier t.core t.barrier).fail code index detail)
  if t.kind = .matrix then
    s.modCore t.core fun c =>
      { c with slots := if t.fired then c.slots.put (MatCmd.ofBytes t.record).slot Slot.blank else c.slots
               matrixStep := if c.matrixQueue.head? = some i then 0 else c.matrixStep,
               matrixQueue := c.matrixQueue.filter fun j => decide (j ≠ i) }
  else s

/-- Count `n` bytes on a thread's barrier (Table 9-3). -/
def landBytes (s : State) (t : Thread) (n : Nat) : State :=
  s.setBarrier t.core t.barrier ((s.barrier t.core t.barrier).land n t.index s.now)

/-! ### Places (R252, R262, R264, R269) -/

/-- The key of the word of the index list that chooses the row of byte `n` (Table 9-6), a word that the thread reads by an access of its own
(R252). -/
def indexKey (t : Thread) (n : Nat) : Nat :=
  let q := Barge.ofBytes t.record
  srcKey 1 t.core (q.list + 4 * (n / max q.rowBytes 1))

/-- Whether a request has an index list, of whose word for byte `n` the thread holds nothing yet. -/
def indexDue (t : Thread) (n : Nat) : Bool :=
  let q := Barge.ofBytes t.record
  decide (t.kind = .barge) && (q.kind == 3 || q.kind == 4) && (t.buffer.find (indexKey t n)).isNone

/-- The index that chooses the row of byte `n`, as the thread read it. -/
def rowIndex (t : Thread) (n : Nat) : Nat := leNat ((List.range 4).map fun j => t.buffer.getOr (indexKey t n + j) 0)

/-- The row that holds byte `n` on the source or the destination side, when that side has addresses that are known (Table 9-6). -/
def rowOf (s : State) (t : Thread) (dst : Bool) (n : Nat) : Option Row :=
  let len := s.rowLen t
  let ρ := n / max len 1
  if indexDue t n then none
  else match t.kind, dst with
  | .barge, false =>
    let q := Barge.ofBytes t.record
    if q.kind = 5 then none
    else some ⟨q.sspace, q.src + (if q.kind = 3 then rowIndex t n else ρ) * q.srcStride, len, ρ * len⟩
  | .barge, true =>
    let q := Barge.ofBytes t.record
    if q.kind = 6 then some ⟨2, (deckTarget q.dst + ρ) * 2 ^ 16 + deckOff q.dst, len, ρ * len⟩
    else some ⟨q.dspace, q.dst + (if q.kind = 4 then rowIndex t n else ρ) * q.dstStride, len, ρ * len⟩
  | .matrix, true => let o := s.shape t.core (MatCmd.ofBytes t.record).out; some ⟨o.space, o.base + ρ * o.stride, len, ρ * len⟩
  | .trestle, true => some ⟨0, (TrestleCmd.ofBytes t.record).out, len, 0⟩
  | .send, false => let m := Message.ofBytes t.record; some ⟨1, m.off, m.bytes, 0⟩
  | .quay, true =>
    let q := DriveRead.ofBytes t.record
    let (a, k) := s.unitBytes t (n / max (s.drive q.drive).most 1)
    some ⟨0, q.dst + a, k, a⟩
  | _, _ => none

/-- A range that an engine may not reach: beyond its space, in the Basin's barrier area, or on a towpath (R224, R262). -/
def reachBad (s : State) (asid space base n : Nat) : Bool :=
  match space with
  | 0 => decide (2 ^ 57 < base + n) || s.inTowpath asid base n
  | 1 => decide (Config.basinTop < base + n)
  | _ => false

/-- Where an engine access goes. -/
def enginePlace (s : State) (t : Thread) (space addr : Nat) (use : Use) : Except XFail Xlat :=
  match space with
  | 0 => s.translate (clusterOfCore t.core) t.asid (s.ctxReach t.asid) addr use 512
  | 1 => .ok ⟨keyAt basinSpace t.core addr, 0, 0, false, 0, 0, 0⟩
  | _ => .ok ⟨keyAt deckSpace t.core addr, 0, 0, false, 0, 0, 0⟩

/-- Keep the translation of an access, and count it once for each 64-byte unit of a counted granule (R364, R370). -/
def noteEngine (s : State) (i space : Nat) (x : Xlat) : State :=
  let t := s.thread i
  if space ≠ 0 then s
  else
    let s := s.keepXlat (clusterOfCore t.core) t.asid x
    if !x.counted || t.counted.contains (x.pa / 64) then s
    else (s.modThread i fun t => { t with counted := addSorted t.counted (x.pa / 64) }).countAccess (dieOfCore t.core) t.asid x.pa none

/-- Hold an access at a translation fault: under the park id of the thread's access to the same page, or a new one with a
fault record (R265, R367). -/
def holdEngine (s : State) (i n va : Nat) (e : XFail) : State :=
  let t := s.thread i
  let d := dieOfCore t.core
  match t.parks.find? fun p => p.2.2 == e.page with
  | some p => s.modThread i fun t => { t with parks := t.parks.put n p.2 }
  | none =>
    let id := s.nextPark d
    let f : FaultInfo :=
      { va := va, asid := t.asid, kind := 6, cause := e.cause, reach := s.ctxReach t.asid, quarter := t.quarter,
        core := s.denseCore t.core, launch := (s.launch t.launch).id.toNat, gang := t.gindex, widx := t.widx,
        slice := t.slice, level := e.level, barrier := t.barrier, lanes := 0 }
    ((s.faultRecord d id f).takePark d).modThread i fun t => { t with parks := t.parks.put n (id, e.page) }

end State

/-! ### Summaries (R266) -/

/-- An entry raised to at least an emax. -/
def raise (m : FMap Int) (k : Nat) (e : Int) : FMap Int := m.put k (max ((m.find k).getD e) e)

/-- The emax of a block of a scale tile, none for a NaN block (R19, R24, R266): `at_` reads the tile's bytes. -/
def tileEmax (size row blk : Nat) (at_ : Nat → Nat) : Option Int :=
  let pos := 64 * (row / 8) + 8 * (row % 8) + (blk ^^^ (row % 8))
  let e := at_ pos
  if e = 0xFF then none
  else
    let halves := if size = 512 then [0] else [0, 1]
    let τs := halves.flatMap fun h => (List.range 4).map fun j => bitsOf (at_ (256 + 256 * h + pos)) (2 * j) 2
    some ((e : Int) - 127 - (τs.foldl min 3 : Nat))

namespace State

/-- The tile size of a block-format summary (R266; log 22). -/
def tileOf (i : Nat) (q : Barge) : Nat :=
  match q.fitTiles with
  | [n] => n
  | _ => if Config.summaryTile i then 512 else 768

/-- The bytes that a unit's merge reads: its own, or the whole tiles it stands in. -/
def mergeBytes (s : State) (i u : Nat) : Nat × Nat :=
  let t := s.thread i
  let q := Barge.ofBytes t.record
  let (a, n) := s.unitBytes t u
  if q.summary && blockCode q.format then
    let z := tileOf i q
    (a / z * z, (a + n - 1) / z * z + z - a / z * z)
  else (a, n)

/-- Merge the elements of a unit into the summary (R266). -/
def mergeUnit (s : State) (i u : Nat) : State :=
  let t := s.thread i
  let q := Barge.ofBytes t.record
  let (a, n) := s.mergeBytes i u
  let byte (j : Nat) : Nat := ((t.byte j).getD 0).toNat
  let put (f : FMap Int → FMap Int) : State := s.modCore t.core fun c => { c with summary := f c.summary }
  if t.kind ≠ .barge ∨ !q.summary then s
  else match codeFmt q.format with
    | some (f, z) =>
      let elem (j : Nat) : Nat := leNat ((List.range z).map fun k => BitVec.ofNat 8 (byte (a + z * j + k)))
      let es := (List.range (n / z)).filterMap fun j => match f.decode (elem j) with
        | .fin .. => some (f.emax (elem j))
        | _ => none
      put fun m => es.foldl (fun m e => raise m (128 * q.slot + q.entry + a / max q.rowBytes 1) e) m
    | none =>
      let z := tileOf i q
      let tiles := (List.range (n / z)).map (a / z + ·)
      let merge (m : FMap Int) (j ρ blk : Nat) : FMap Int :=
        match tileEmax z ρ blk (fun k => byte (z * j + k)) with
        | some e => raise m (128 * q.slot + q.tileEntry z j ρ) e
        | none => m
      put fun m => tiles.foldl (fun m j => (List.range 32).foldl (fun m ρ => (List.range 8).foldl (fun m b => merge m j ρ b) m) m) m

/-! ### Landings and follow-on commands (R260, R265) -/

/-- The id under which a drive has a command of a thread. -/
def commandId (s : State) (i c : Nat) : Option Nat :=
  ((s.driveQueue (DriveRead.ofBytes (s.thread i).record).drive).out.find? fun x => x.2.1 == i && x.2.2.1 == c).map Prod.fst

/-- Whether every unit of a thread has landed. -/
def allLanded (s : State) (i : Nat) : Bool :=
  let t := s.thread i
  (List.range (s.units t)).all t.landed.contains

/-- Whether a unit may land: its bytes are written, and those of its merge are there. -/
def landReady (s : State) (i u : Nat) : Bool :=
  let t := s.thread i
  let range (x : Nat × Nat) : List Nat := (List.range x.2).map (x.1 + ·)
  (if t.kind = .quay then (s.commandId i u).isSome && (t.status.find u).isSome else t.ended.isNone) &&
    !t.landed.contains u && decide (u < s.units t) &&
    (range (s.unitBytes t u)).all t.wrote.contains && (range (s.mergeBytes i u)).all fun j => (t.byte j).isSome

/-- Whether a barge request carries a follow-on command. -/
def follows (t : Thread) : Bool := decide (t.kind = .barge) && (Barge.ofBytes t.record).follow

/-- Whether a thread has nothing left to land, and is no command still to form its output. -/
def drained (s : State) (i : Nat) : Bool :=
  let t := s.thread i
  t.ended.isNone && s.allLanded i && match t.kind with
    | .barge => true
    | .matrix | .trestle => t.fired
    | _ => false

/-- A thread that has landed everything completes; one with a follow-on waits until it fires. -/
def complete (s : State) (i : Nat) : State :=
  if s.drained i && !follows (s.thread i) then s.endThread i 0 0 0 else s

/-- A unit lands: the merge, then the count. -/
def landUnit (s : State) (i u : Nat) : State :=
  let t := s.thread i
  let s := (s.mergeUnit i u).landBytes t (s.unitBytes t u).2
  (s.modThread i fun t => { t with landed := addSorted t.landed u }).complete i

/-- INDEX of a thread's fault (Table 9-4): the record's place within the forking word, or a matrix command's within its run. -/
def faultIndex (s : State) (t : Thread) : Nat :=
  match t.kind with
  | .matrix => ((s.core t.core).slots.getOr (MatCmd.ofBytes t.record).slot Slot.blank).cmds.length - min (s.core t.core).matrixStep 1
  | _ => t.index

/-- A thread ends by a fault of an access: the units whose bytes are written land first (R262, R265). -/
def failThread (s : State) (i code : Nat) : State :=
  let s := (List.range (s.units (s.thread i))).foldl (fun s u =>
    if decide ((s.thread i).kind ≠ .quay) && s.landReady i u then s.landUnit i u else s) s
  if (s.thread i).ended.isSome then s else s.endThread i code (s.faultIndex (s.thread i)) 0

/-- A follow-on fires: every byte of its request and of the earlier ones has landed, and the span array's queue has room. -/
def fireReady (s : State) (i : Nat) : Bool :=
  let t := s.thread i
  follows t && s.drained i && t.earlier.all s.allLanded &&
    decide ((s.core t.core).matrixQueue.length < Config.matrixQueue)

/-- A follow-on that can never fire: an earlier request ended by a fault with bytes that will not land. -/
def fireLost (s : State) (i : Nat) : Bool :=
  let t := s.thread i
  follows t && s.drained i && t.earlier.any fun j => !s.allLanded j && (s.thread j).ended.isSome

/-- Fork the matrix thread of a request (R251, R265); the slices that forked the request have forked it too. -/
def fireFollow (s : State) (i : Nat) : State :=
  let t := s.thread i
  let n := s.threadNo
  let m : Thread :=
    { t with
      kind := .matrix, record := (Barge.ofBytes t.record).cmd, earlier := [], buffer := [], poisoned := [], wrote := [],
      landed := [], counted := [], parks := [], ended := none, started := s.now, fired := false, todo := [], steps := 0,
      asked := 0, status := [] }
  let s := { s with threads := s.threads.put n m, threadNo := n + 1 }
  let s := s.modCore t.core fun c => { c with matrixQueue := c.matrixQueue ++ [n] }
  let s := s.modGang t.gang fun y =>
    { y with slices := y.slices.mapAll fun _ x => if x.forked.contains i then { x with forked := x.forked ++ [n] } else x }
  s.endThread i 0 0 0

end State


/-! ### Drive reads (R282, R283) -/

namespace State

/-- The pages of 4 KiB that a command's bytes stand in, each by the first byte in it. -/
def dataPages : Nat → Nat → Nat → List Nat
  | 0, _, _ => []
  | f + 1, a, n => if n = 0 then [] else let k := min n (4096 - a % 4096); a :: dataPages f (a + k) (n - k)

/-- The places of some pages for a thread to write, or the first that faults. -/
def pagePlaces (s : State) (t : Thread) : List Nat → Except (XFail × Nat) (List Nat)
  | [] => .ok []
  | a :: r =>
    match s.enginePlace t 0 a .write, s.pagePlaces t r with
    | .error e, _ => .error (e, a)
    | _, .error e => .error e
    | .ok x, .ok xs => .ok (keyAddr x.pa :: xs)

/-- The bytes of a PRP list at an address: a page of it ends with the address of the next where more are to come. -/
def prpList (at_ : Nat) : Nat → List Nat → List Byte
  | 0, _ => []
  | f + 1, ps => if ps.length ≤ 512 then ps.flatMap (leBytes 8)
                 else (ps.take 511).flatMap (leBytes 8) ++ leBytes 8 (at_ + 4096) ++ prpList (at_ + 4096) f (ps.drop 511)

/-- Write bytes of the engine's own at a device address, a word at a time. -/
def devWords (s : State) (die at_ : Nat) : List Byte → State
  | a :: b :: c :: d :: r => (s.engineWrite die (keyAt devSpace 0 at_) 0 4 (leNat [a, b, c, d])).devWords die (at_ + 4) r
  | _ => s

/-- Whether a thread lives, or is a drive read whose other commands an error has not ended (R283). -/
def reads (t : Thread) : Bool := t.ended.isNone || (decide (t.kind = .quay) && t.ended == some 0x40)

/-- Whether a drive may be handed the next command of a thread: its queue has room, it has not failed, and no fault holds the command. -/
def mayAsk (s : State) (i : Nat) : Bool :=
  let t := s.thread i
  let q := DriveRead.ofBytes t.record
  let d := s.drive q.drive
  decide (t.kind = .quay) && reads t && decide (t.asked < q.commands d) &&
    decide ((s.driveQueue q.drive).out.length + 1 < d.entries) && !s.quay.failed.contains q.drive &&
    (t.parks.find (s.unitBytes t t.asked).1).isNone

/-- HAND A DRIVE the next command of a thread, when its queue has room: the PRP list, the submission entry, the doorbell (R282). A page
that faults holds the command as an access. -/
def askDrive (s : State) (i : Nat) : State :=
  let t := s.thread i
  let q := DriveRead.ofBytes t.record
  let d := s.drive q.drive
  let u := s.driveQueue q.drive
  let c := t.asked
  let (a, n) := s.unitBytes t c
  if !s.mayAsk i then s
  else if s.reachBad t.asid 0 (q.dst + a) n then s.failThread i 0x11
  else match s.pagePlaces t (dataPages (n / 4096 + 2) (q.dst + a) n) with
    | .error (e, va) => s.holdEngine i a va e
    | .ok ps =>
      let die := dieOfCore t.core
      let cid := ((List.range d.entries).find? fun k => (u.out.find k).isNone).getD 0
      let list := Config.prpArea + 2 ^ 20 * (4096 * q.drive + cid)
      let two := if ps.length ≤ 2 then (ps[1]?).getD 0 else list
      let s := if ps.length ≤ 2 then s else s.devWords die list (prpList list 256 (ps.drop 1))
      let s := s.devWords die (d.sq + 64 * u.tail)
        (readEntry cid q.space (ps.headD 0) two (q.lba + a / d.block) (n / d.block))
      let tail := (u.tail + 1) % max d.entries 1
      ((s.ringBell d.bell tail).setDriveQueue q.drive { u with tail := tail, out := u.out.put cid (i, c, s.now) }).modThread i
        fun t => { t with asked := c + 1 }

/-- Whether a drive has a command of a thread and has not reported it. -/
def outstanding (s : State) (i c : Nat) : Bool :=
  let t := s.thread i
  decide (t.kind = .quay) && (s.commandId i c).isSome && (t.status.find c).isNone

/-- Whether a thread still has something to do: it lives, or a drive read that an error has ended has commands that can still count. -/
def goesOn (s : State) (i : Nat) : Bool :=
  let t := s.thread i
  let q := DriveRead.ofBytes t.record
  t.ended.isNone || (reads t && (List.range (q.commands (s.drive q.drive))).any fun c =>
    !t.landed.contains c && (t.status.find c).all (· == 0) &&
      if c < t.asked then (s.commandId i c).isSome else !s.quay.failed.contains q.drive)

/-- The charge for the bytes of a drive read (Table 14-3). -/
def driveCharge (n : Nat) : Nat := ceilDiv n 4096

/-- The bytes of a command have been written: the drive writes its completion entry, whose phase tag tells the engine, and the engine
rings the completion doorbell; on success the bytes count, else the thread ends (R282, R283). -/
def driveDone (s : State) (i c : Nat) : State :=
  let t := s.thread i
  let q := DriveRead.ofBytes t.record
  let d := s.drive q.drive
  let u := s.driveQueue q.drive
  let cid := (s.commandId i c).getD 0
  let status := t.status.getOr c 0
  let s := s.devWords (dieOfCore t.core) (d.cq + 16 * u.head) (doneEntry u.tail cid status u.phase)
  let head := (u.head + 1) % max d.entries 1
  let s := (s.ringBell (d.bell + 4) head).setDriveQueue q.drive
    { u with head := head, phase := if head = 0 then !u.phase else u.phase, out := u.out.del cid }
  if status ≠ 0 then (if t.ended.isNone then s.endThread i 0x40 t.index (status % 2 ^ 15) else s)
  else
    let n := (t.landed.map (q.bytesOf d)).sum
    let more := if t.ended.isNone then 0 else driveCharge (n + q.bytesOf d c) - driveCharge n
    let s := (s.landBytes t (q.bytesOf d c)).modThread i fun t => { t with landed := addSorted t.landed c }
    let s := s.modGang t.gang fun y => { y with energy := y.energy + more }
    if t.ended.isNone && s.allLanded i then s.endThread i 0 0 0 else s

/-- Whether a drive read waits for a command beyond its drive's time, or still has to hand one to a drive that has failed (R283). -/
def driveLate (s : State) (i : Nat) : Bool :=
  let t := s.thread i
  let q := DriveRead.ofBytes t.record
  decide (t.kind = .quay) &&
    ((t.ended.isNone && s.quay.failed.contains q.drive && decide (t.asked < q.commands (s.drive q.drive))) ||
      (s.driveQueue q.drive).out.any fun x =>
        x.2.1 == i && (t.status.find x.2.2.1).isNone && decide (x.2.2.2 + (s.drive q.drive).timeout * 65536 ≤ s.now))

end State

/-- R260, R265: a unit lands; a request of no bytes completes without one (R263). -/
def execLanding (i u : Nat) (s : State) : Out :=
  .next (if s.landReady i u then (if (s.thread i).kind = .quay then s.driveDone i u else s.landUnit i u) else s.complete i)

/-- R265. -/
def execFollowOnFire (i : Nat) (s : State) : Out :=
  .next (if s.fireReady i then s.fireFollow i else if s.fireLost i then s.endThread i 0 0 0 else s)

/-! ### Accesses (R252, R396) -/

namespace State

/-- Whether a thread may take an access: it goes on, no fault holds the access, and its command is not one that its context's save or
absence has stopped (R373). -/
def mayAccess (s : State) (t : Thread) (n : Nat) : Bool :=
  reads t && (t.parks.find n).isNone && !(decide (t.kind = .matrix) && !t.fired && s.leaving t.asid)

/-- An uncorrectable error that an access of a thread meets is logged (R394, R397). -/
def noteWord (s : State) (t : Thread) (x : Xlat) (bad : Bool) : State :=
  if bad then s.noteBad t.core t.asid x.pa else s

/-- Whether the power controller holds an engine's traffic (R332; log 54): `power.throttled` names the engines of a core as
`2 ^ 20 +` the core. -/
def slowed (s : State) (t : Thread) : Bool :=
  (decide (t.kind = .barge) || decide (t.kind = .matrix) || decide (t.kind = .trestle)) && s.power.throttled.contains (2 ^ 20 + t.core)

/-- Read the word of a row that holds byte `n`. -/
def readWord (s : State) (i n : Nat) (r : Row) : State :=
  let t := s.thread i
  let (m, a, k) := r.word n
  if s.reachBad t.asid r.space r.base r.len then s.failThread i 0x11
  else match s.enginePlace t r.space a .read with
    | .error e => s.holdEngine i n a e
    | .ok x =>
      let v := s.engineRead (dieOfCore t.core) x.pa x.kid k
      let bad := s.poisoned x.pa k
      ((s.noteEngine i r.space x).noteWord t x bad).modThread i fun t =>
        { t with buffer := (List.range k).foldl (fun b j => b.put (m + j) (BitVec.ofNat 8 (v / 2 ^ (8 * j)))) t.buffer,
                 poisoned := if bad then (List.range k).foldl (fun p j => addSorted p (m + j)) t.poisoned else t.poisoned }

/-- Read a word that a command has still to read, under its key. -/
def readTodo (s : State) (i n : Nat) : State :=
  let t := s.thread i
  let flat := decide (2 ^ 130 ≤ n)
  let a := if flat then n - 2 ^ 130 else keyAddr n
  if s.reachBad t.asid (if flat then 0 else 1) a 4 then s.failThread i 0x11
  else match s.enginePlace t (if flat then 0 else 1) a .read with
    | .error e => s.holdEngine i n a e
    | .ok x =>
      let v := s.engineRead (dieOfCore t.core) x.pa x.kid 4
      let bad := s.poisoned x.pa 4
      ((s.noteEngine i (if flat then 0 else 1) x).noteWord t x bad).modThread i fun t =>
        { t with buffer := (List.range 4).foldl (fun b j => b.put (n + j) (BitVec.ofNat 8 (v / 2 ^ (8 * j)))) t.buffer,
                 poisoned := if bad then (List.range 4).foldl (fun p j => addSorted p (n + j)) t.poisoned else t.poisoned,
                 todo := t.todo.erase n }

/-- Write the word of a row that holds byte `n`; bytes from a poisoned word, or whose row a poisoned index chose (log 23), leave it
poisoned. -/
def writeWord (s : State) (i n : Nat) (r : Row) : State :=
  let t := s.thread i
  let (m, a, k) := r.word n
  let at_ := (List.range k).map (m + ·)
  if at_.any fun j => (t.byte j).isNone then s
  else if s.reachBad t.asid r.space r.base r.len then s.failThread i 0x11
  else match s.enginePlace t r.space a .write with
    | .error e => s.holdEngine i n a e
    | .ok x =>
      let s := (s.noteEngine i r.space x).engineWrite (dieOfCore t.core) x.pa x.kid k (leNat (at_.map fun j => (t.byte j).getD 0))
      let s := if (indexKey t n :: at_).any fun j => t.poisoned.contains j then s.setPoison x.pa k else s
      s.modThread i fun t => { t with wrote := at_.foldl addSorted t.wrote }

end State

/-- R252: the word that holds byte `n` of a thread is read, or once read written, the word of the index list that places it before; a drive
read hands its drive the next command. -/
def execEngineAccess (i n : Nat) (s : State) : Out :=
  let t := s.thread i
  s.onlyIf (s.mayAccess t n && !s.slowed t && (t.todo.contains n || decide (n < s.extent t))) fun s =>
    if t.todo.contains n then s.readTodo i n
    else if State.indexDue t n then s.readTodo i (State.indexKey t n)
    else if (t.byte n).isNone then
      match s.rowOf t false n with
      | some r => s.readWord i n r
      | none => s.askDrive i
    else if t.wrote.contains n then s
    else match s.rowOf t true n with
      | some r => s.writeWord i n r
      | none => s

/-- R282, R283: the drive has moved the bytes of command `c` and reports it; where the status is not zero the bytes it left are
undefined, and stand in the event as the drive left them. With bit 16 of `status` set the data arrived poisoned (R396; log 39). -/
def execNvmeCompletion (i c status : Nat) (data : List (BitVec 8)) (s : State) : Out :=
  let t := s.thread i
  let q := DriveRead.ofBytes t.record
  s.onlyIf (s.outstanding i c && decide (data.length = q.bytesOf (s.drive q.drive) c)) fun s =>
    let (a, _) := s.unitBytes t c
    s.modThread i fun t =>
      { t with buffer := data.zipIdx.foldl (fun b x => b.put (a + x.2) x.1) t.buffer, status := t.status.put c (status % 2 ^ 16),
               poisoned := if bitOf status 16 then (List.range data.length).foldl (fun p j => addSorted p (a + j)) t.poisoned
                           else t.poisoned }

/-- R283: a command is not completed in time, or its drive has failed before. -/
def execQuayTimeout (i : Nat) (s : State) : Out :=
  s.onlyIf (s.driveLate i) fun s =>
    let n := (DriveRead.ofBytes (s.thread i).record).drive
    let u := s.driveQueue n
    let s := if (s.thread i).ended.isNone then s.endThread i 0x41 (s.thread i).index 0 else s
    let s := s.setDriveQueue n { u with out := u.out.keep fun _ x => x.1 != i }
    { s with quay := { s.quay with failed := addSorted s.quay.failed n } }

/-! ### Messages (R195, R404) -/

/-- Whether a message has left: its payload is read. -/
def State.messageOut (s : State) (i : Nat) : Bool :=
  let t := s.thread i
  decide (t.kind = .send) && t.ended.isNone && (List.range t.size).all fun n => (t.byte n).isSome

/-- Whether the Ethernet port of a thread's message has link (R404): a port that none has told of is up (log 3). -/
def State.portUp (s : State) (i : Nat) : Bool := !s.link.ports.any fun p => p.1 == (Config.sendPort i).toNat && !p.2.1

/-- R195: the destination acknowledges the message, and its bytes count; a port that has lost link holds it (R404). -/
def execMessageAcknowledged (i : Nat) (s : State) : Out :=
  s.onlyIf (s.messageOut i && s.portUp i) fun s =>
    let t := s.thread i
    let m := Message.ofBytes t.record
    let bytes := (List.range t.size).map fun n => (t.byte n).getD 0
    ({ s with sent := s.sent ++ [(m.node, leBytes 4 m.tag ++ bytes)] }.landBytes t m.bytes).endThread i 0 0 0

/-- R404: the transport's retries end. -/
def execMessageUndeliverable (i : Nat) (s : State) : Out :=
  s.onlyIf (s.messageOut i) fun s => s.endThread i 0x50 (s.thread i).index 0

end Sys2Proof.Machine
end

