-- ==== Sys2Proof/Machine/Device.lean ====
section
/-! DEFINITION. Accesses that the device makes for a launch, a sluice or a Lock (R312, R367, R408): translated by the tables
of the context, a page at a time, and held at a fault record of KIND 8. -/

namespace Sys2Proof.Machine

/-- The parts of a range that stand in one 64 KiB page each. -/
def pieces : Nat → Nat → Nat → List (Nat × Nat)
  | 0, _, _ => []
  | f + 1, va, n =>
    let k := min n (2 ^ 16 - va % 2 ^ 16)
    if n = 0 then [] else (va, k) :: pieces f (va + k) (n - k)

/-- The parts of a range of `n` bytes. -/
def parts (va n : Nat) : List (Nat × Nat) := pieces (n / 2 ^ 16 + 2) va n

namespace State

/-- Translate an access of the device under a context. -/
def unitXlat (s : State) (asid va : Nat) (use : Use) : Except XFail Xlat :=
  (s.walk asid va).bind fun (e, lo, lv) => s.useLeaf (s.ctxReach asid) asid va e lo lv use

/-- The places of the parts of a range, or the first address that does not translate. -/
def unitPlaces (s : State) (asid : Nat) (use : Use) : List (Nat × Nat) → Except (XFail × Nat) (List (Xlat × Nat))
  | [] => .ok []
  | (va, n) :: r =>
    match s.unitXlat asid va use with
    | .error e => .error (e, va)
    | .ok x => (s.unitPlaces asid use r).map fun xs => (x, n) :: xs

/-- Read a range for the device. -/
def unitRead (s : State) (asid va n : Nat) : Except (XFail × Nat) (List Byte) :=
  (s.unitPlaces asid .read (parts va n)).map fun xs => xs.flatMap fun (x, k) => leBytes k (s.engineRead 0 x.pa x.kid k)

/-- Write bytes at places already translated, from die 0 (log 68). -/
def unitPut (s : State) : List (Xlat × Nat) → List Byte → State
  | [], _ => s
  | (x, k) :: r, bs => (s.engineWrite 0 x.pa x.kid k (leNat (bs.take k))).unitPut r (bs.drop k)

/-- Write a range for the device. -/
def unitWrite (s : State) (asid va : Nat) (bs : List Byte) : Except (XFail × Nat) State :=
  (s.unitPlaces asid .write (parts va bs.length)).map fun xs => s.unitPut xs bs

/-- Write a device access's fault record in a die's buffer, under a new park id (Table 16-5). -/
def unitFault (s : State) (die asid launch : Nat) (e : XFail) (va : Nat) : State × Nat :=
  let id := s.nextPark die
  let f : FaultInfo :=
    { va := va, asid := asid, kind := 8, cause := e.cause, reach := s.ctxReach asid, quarter := 0, core := 0xFFFF,
      launch := launch, gang := 0, widx := 0, slice := 0, level := e.level, barrier := 0, lanes := 0 }
  ((s.faultRecord die id f).takePark die, id)

end State

end Sys2Proof.Machine
end

