-- ==== Sys2Proof/Machine/Image.lean ====
section
/-! DEFINITION. Launch images: their fields, their checks, the group table (R209, R210, R312, R315, R354, Tables 7-1, 13-1
to 13-3). -/

namespace Sys2Proof.Machine

/-- Whether `n` bytes of a record are zero. -/
def zeroAt (r : List Byte) (off n : Nat) : Bool := ((r.drop off).take n).all fun b => decide (b = 0)

/-- A power of two between bounds. -/
def powerIn (n lo hi : Nat) : Bool := decide (lo ≤ n) && decide (n ≤ hi) && (List.range 33).any fun k => n == 2 ^ k

/-! ### Entries -/

def Role.ofBytes (r : List Byte) : Role :=
  let pound (n : Nat) : Option Nat := if n = 0xFF then none else some n
  { entry := recNat r 0 4, allot := recNat r 4 2, cls := recNat r 6 1, gangs := recNat r 7 1, inp := pound (recNat r 8 1),
    out := pound (recNat r 9 1), tags := recNat r 12 4,
    args := (List.range 8).map fun k => BitVec.ofNat 32 (recNat r (16 + 4 * k) 4) }

def PoundDesc.ofBytes (r : List Byte) : PoundDesc :=
  { ring := recNat r 0 8, cap := recNat r 8 4, init := recNat r 12 4, valid := bitOf (recNat r 16 1) 0 }

/-- The limits of Table 13-3. -/
def poundOk (r : List Byte) : Bool :=
  let d := PoundDesc.ofBytes r
  if d.valid then
    d.ring % 16 == 0 && powerIn d.cap 2 (2 ^ 20) && decide (d.init ≤ d.cap) && recNat r 16 1 == 1 && zeroAt r 17 15
  else zeroAt r 0 32

/-- The limits of Table 13-2; a role names valid pounds only. -/
def roleOk (limit : Nat) (ps : List PoundDesc) (r : List Byte) : Bool :=
  let x := Role.ofBytes r
  let named (p : Option Nat) : Bool := p.all fun n => (ps[n]?).any PoundDesc.valid
  decide (x.entry < limit) && [64, 128, 256, 512, 1024].contains x.allot && decide (x.cls ≤ 3) && zeroAt r 10 2 &&
    zeroAt r 48 16 && ((List.range 8).all fun k => bitsOf x.tags (4 * k) 4 != 15) && named x.inp && named x.out

/-- An entry of the group table (Table 7-1): its number, its list's offset, its members' count, LOCAL. -/
structure GroupEntry where
  id : Nat
  list : Nat
  count : Nat
  together : Bool

/-- Whether entry `e` of the group table breaks Table 7-1. -/
def groupBad (e : Nat) : Bool :=
  if bitOf e 0 then bitsOf e 2 14 != 0 || bitsOf e 24 8 != 0 || bitsOf e 16 8 == 0 || decide (64 < bitsOf e 16 8) || bitsOf e 32 32 % 4 != 0
  else e != 0

/-- The first `n` 8-byte words of some bytes. -/
def wordsOf : Nat → List Byte → List Nat
  | 0, _ => []
  | n + 1, b => leNat (b.take 8) :: wordsOf n (b.drop 8)

/-- The words of the group table of an image's first 0xB00 bytes. -/
def groupTable (b : List Byte) : List Nat := wordsOf 256 (b.drop 0x300)

/-- The valid entries of the group table. -/
def groupEntries (b : List Byte) : List GroupEntry :=
  (groupTable b).zipIdx.filterMap fun (e, i) =>
    if bitOf e 0 then some ⟨i, bitsOf e 32 32, bitsOf e 16 8, bitOf e 1⟩ else none

/-- The end of the last member list. -/
def listsEnd (b : List Byte) : Nat := (groupEntries b).foldl (fun n g => max n (g.list + 4 * g.count)) 0xB00

/-! ### The image -/

def roleBytes (b : List Byte) (k : Nat) : List Byte := (b.drop (0x100 + 64 * k)).take 64
def poundBytes (b : List Byte) (k : Nat) : List Byte := (b.drop (0x200 + 32 * k)).take 32

/-- An image's fields (Table 13-1), its groups apart. -/
def Image.ofBytes (b : List Byte) : Image :=
  { frag := bitOf (recNat b 2 2) 0, gangs := recNat b 4 4, slices := recNat b 8 1, cls := recNat b 10 1,
    basin := recNat b 12 4, codeBase := recNat b 0x10 8, codeLimit := recNat b 0x18 4, handler := recNat b 0x1C 4,
    towBase := recNat b 0x20 8, towSize := recNat b 0x28 4,
    segs := (List.range 6).map fun k =>
      (k, { base := BitVec.ofNat 64 (recNat b (0x30 + 16 * k) 8), limit := BitVec.ofNat 64 (recNat b (0x38 + 16 * k) 8) }),
    seed := BitVec.ofNat 64 (recNat b 0x90 8), rngs := BitVec.ofNat 64 (recNat b 0x98 8),
    basinImage := recNat b 0xA0 8, basinBytes := recNat b 0xA8 4,
    roles := (List.range (min 4 (recNat b 9 1))).map fun k => Role.ofBytes (roleBytes b k),
    pounds := (List.range 8).map fun k => PoundDesc.ofBytes (poundBytes b k), groups := [] }

/-- The gangs of one instance (R315). -/
def Image.instanceGangs (i : Image) : Nat := (i.roles.map Role.gangs).sum

/-- A segment of an image, as numbers. -/
def Image.seg (i : Image) (k : Nat) : Nat × Nat := ((i.segs.getOr k Seg.zero).base.toNat, (i.segs.getOr k Seg.zero).limit.toNat)

/-- The gang count as started (R54). -/
def Image.started (i : Image) (grid : Nat) : Nat := if grid = 0 then i.gangs else grid

/-- The limits of Tables 13-1 to 13-3 on the first 0xB00 bytes. -/
def headerOk (b : List Byte) : Bool :=
  let i := Image.ofBytes b
  let n := recNat b 9 1
  recNat b 0 2 == 1 && decide (recNat b 2 2 ≤ 1) && decide (1 ≤ i.gangs) && decide (i.gangs ≤ 2 ^ 24) &&
    decide (1 ≤ i.slices) && decide (i.slices ≤ 8) && decide (1 ≤ n) && decide (n ≤ 4) && decide (i.cls ≤ 3) && zeroAt b 11 1 &&
    i.basin % 64 == 0 && decide (i.basin ≤ Config.basinTop) && i.codeBase % 4096 == 0 && decide (1 ≤ i.codeLimit) &&
    decide (i.codeLimit ≤ 2 ^ 28) && (decide (i.handler < i.codeLimit) || i.handler == 0xFFFFFFFF) &&
    i.towBase % 2 ^ 16 == 0 && i.towSize % 2 ^ 16 == 0 && decide (2 ^ 16 ≤ i.towSize) && decide (0xB00 ≤ recNat b 0x2C 4) &&
    decide (listsEnd b ≤ recNat b 0x2C 4) && ((List.range 6).all fun k => decide ((i.seg k).1 < 2 ^ 57)) &&
    decide ((i.seg 4).1 + (i.seg 4).2 ≤ i.basin) && (i.seg 5).2 % 4 == 0 && i.basinImage % 64 == 0 &&
    decide (i.basinBytes ≤ i.basin) && zeroAt b 0xAC 84 &&
    ((List.range 8).all fun k => poundOk (poundBytes b k)) &&
    ((List.range 4).all fun k => if k < n then roleOk i.codeLimit i.pounds (roleBytes b k) else zeroAt b (0x100 + 64 * k) 64) &&
    decide (1 ≤ i.instanceGangs) && i.gangs % max i.instanceGangs 1 == 0

/-- The groups of an image, given the bytes up to the end of its member lists. -/
def groupsOf (b : List Byte) : List Group :=
  (groupEntries b).map fun g => ⟨g.id, g.together, (List.range g.count).map fun k => recNat b (g.list + 4 * k) 4⟩

/-- A strictly rising list. -/
def rising : List Nat → Bool
  | a :: b :: r => decide (a < b) && rising (b :: r)
  | _ => true

/-- Whether the group table of a launch of `n` gangs is refused (R209). -/
def groupsBad (b : List Byte) (n : Nat) : Bool :=
  let gs := groupsOf b
  let all := gs.flatMap Group.members
  (groupTable b).any groupBad ||
    (gs.any fun g => !rising g.members || g.members.any fun m => decide (n ≤ m)) ||
    all.any fun m => decide (4 < all.count m)

/-- A step image's own limits (R354). -/
def Image.stepOk (i : Image) : Bool := (i.roles.all fun r => r.gangs == 1) && (i.pounds.all fun p => !p.valid) && !i.frag

/-- What a read of an image comes to: an image that passed its checks, or the code that refuses it (R326). -/
abbrev Parsed := Except Nat Image

/-- Check an image whose bytes are known up to the end of its member lists. -/
def checkImage (b : List Byte) (grid : Nat) (step : Bool) : Parsed :=
  let i := Image.ofBytes b
  if !headerOk b || (step && !i.stepOk) then .error 1
  else if groupsBad b (i.started grid) then .error 2
  else .ok { i with groups := groupsOf b }

/-- Read and check an image under a context; the outer error is a fault of a read (R312). -/
def State.readImage (s : State) (asid va grid : Nat) (step : Bool) : Except (XFail × Nat) Parsed :=
  (if va % 64 = 0 then s.unitRead asid va 0xB00 else .ok []).bind fun b =>
    if va % 64 ≠ 0 ∨ !headerOk b then .ok (.error 1)
    else (s.unitRead asid (va + 0xB00) (listsEnd b - 0xB00)).map fun c => checkImage (b ++ c) grid step

/-! ### Roles and groups of a gang (R210, R315) -/

/-- The role whose cumulative GANGS first exceeds `k`. -/
def roleAt : List Role → Nat → Nat
  | [], _ => 0
  | r :: rs, k => if k < r.gangs then 0 else 1 + roleAt rs (k - r.gangs)

/-- The initial role of gang `g`. -/
def Image.firstRole (i : Image) (g : Nat) : Nat := roleAt i.roles (g % max i.instanceGangs 1)

/-- A role of an image. -/
def Role.blank : Role :=
  { entry := 0, allot := 64, cls := 0, gangs := 0, inp := none, out := none, tags := 0, args := [] }
def Image.role (i : Image) (n : Nat) : Role := (i.roles[n]?).getD Role.blank

/-- `grp` of gang `g` (R210). -/
def Image.grp (i : Image) (g : Nat) : Word :=
  let ids := (i.groups.filter fun q => q.members.contains g).map Group.id
  BitVec.ofNat 32 (((List.range 4).map fun k => (ids[k]?).getD 0xFF * 2 ^ (8 * k)).sum)

/-- The registers a role gives a slice: v0–v7 hold ARGS under TAGS, uniform (R148, R315). -/
def Role.regs (r : Role) : FMap Reg :=
  (List.range 8).map fun n =>
    let w := (r.args[n]?).getD 0
    (n, Reg.splat w (Tag.ofCode (bitsOf r.tags (4 * n) 4)) 0)

end Sys2Proof.Machine
end

