-- ==== Sys2Proof/Machine/Fences.lean ====
section
/-! DEFINITION. Fences (R179, R180, R246–R249, R253, R254). -/

namespace Sys2Proof.Machine

namespace State

/-- The Acquire of the issuing slices. -/
def acquireMe (s : State) : State := s.acquire s.me.core (dieOfCore s.me.core) s.cur.gang

/-- Put a release behind the older entries of a slice (R247). -/
def pushRelease (s : State) (k : Nat) : State :=
  s.pushPend s.cur.gang k
    [{ kind := .release, pa := 0, size := 0, data := 0, data2 := 0, va := 0, kid := 0, counted := false,
       widx := s.cur.widx.toNat, lane := 0, dst := 0, tag := .raw,
       region := attributed (s.sl k), stamp := s.fresh }]

end State

/-- R179, R246. -/
def execFenceAcq (h : Hd0) (s : State) : Out := s.issueWord (.fenceAcq h) State.noFault State.acquireMe

/-- R179, R247: the release completes behind the slice's older entries. -/
def execFenceRel (h : Hd0) (s : State) : Out :=
  s.issueWord (.fenceRel h) State.noFault fun s => s.cur.slices.foldl State.pushRelease s

/-- R179: the release, then the acquire. -/
def execFenceAcqrel (h : Hd0) (s : State) : Out :=
  s.issueWord (.fenceAcqrel h) State.noFault fun s =>
    (s.releaseAll s.cur.gang s.cur.widx.toNat s.cur.slices).acquireMe

/-- R179, R249. -/
def execFencePath (h : Hd0) (m : BitVec 2) (s : State) : Out :=
  s.issueWord (.fencePath h m) State.noFault fun s => s.pathFence s.me.core (m.getLsbD 0) (m.getLsbD 1)

/-- R179, R253: the slices wait for the threads they forked. -/
def execFenceEng (h : Hd0) (s : State) : Out := s.issueWord (.fenceEng h) State.noFault fun s => s.waitAll .fenceEng

end Sys2Proof.Machine
end

