-- ==== Sys2Proof/Machine/System.lean ====
section
/-! DEFINITION. Special registers, pounds, segments, invalidation and the control store (R53, R54, R60–R62, R150, R154,
R155, R158–R160, R313, R365). -/

namespace Sys2Proof.Machine

/-! ### Special registers -/

/-- R154, R53, R54. -/
def execCsrr (h : Hdr) (d : BitVec 6) (i : BitVec 12) (s : State) : Out :=
  s.issueWord (.csrr h d i) State.noFault fun s =>
    (s.writeLanes h.guard d.toNat (fun l => s.csrVal s.me (s.sl (l / 4)) l i.toNat) fun _ => csrTag i.toNat).eachSl
      fun k x => s.latch k x i.toNat

/-- R155: the lowest active lane's word, in the scope of Table 5-9. -/
def execCsrw (h : Hd0) (d : BitVec 6) (i : BitVec 12) (s : State) : Out :=
  s.issueWord (.csrw h d i) State.noFault fun s =>
    match s.lowest 0 with
    | none => s
    | some l => s.cur.slices.foldl (fun t k => t.csrSet t.cur.gang k i.toNat (s.V d.toNat l)) s

/-! ### Pounds (R150, R313) -/

/-- A pound of the gang's launch, when it is declared. -/
def State.poundOf (s : State) (n : Nat) : Option (PoundDesc × Pound) :=
  let l := s.launch s.me.launch
  (l.img.bind fun i => i.pounds[n]?).bind fun d => if d.valid then some (d, l.pounds.getOr n Pound.blank) else none

/-- The pound fault. -/
def State.poundTrap (n : BitVec 3) (s : State) : Option TrapInfo :=
  State.trapIf (s.poundOf n.toNat).isNone (s.trapHere 0x15 (n.zeroExtend 32))

namespace State

/-- The places of `n` ring items from count `from_`, or the first that does not translate. -/
def ringItems (s : State) (asid reach cluster : Nat) (d : PoundDesc) (use : Use) (from_ : Nat) :
    Nat → Except (XFail × Nat) (List Xlat)
  | 0 => .ok []
  | n + 1 =>
    let va := d.ring + 16 * (from_ % d.cap)
    match s.translate cluster asid reach va use (n % 32), s.ringItems asid reach cluster d use (from_ + 1) n with
    | .error e, _ => .error (e, va)
    | _, .error e => .error e
    | .ok x, .ok xs => .ok (x :: xs)

/-- Park the issuing set on a word whose pound ring does not translate (log 12). -/
def parkRing (s : State) (kind : Nat) (e : XFail) (va : Nat) (g : BitVec 3) : State :=
  let id := s.nextPark (dieOfCore s.me.core)
  let ls := s.actLanes g
  let t := s.newPark s.cur.gang (ls.headD 0 / 4) s.cur.widx.toNat kind va e (lanesWord ls)
  s.cur.slices.foldl (fun t k => t.parkSlice s.cur.gang k s.cur.widx s.cur.next (s.act g k) [id] .lanes) t

/-- The 16 bytes of lane `l`'s item. -/
def itemOf (s : State) (a : BitVec 6) (l : Nat) : Nat :=
  ((List.range 4).map fun i => (s.V (a.toNat + i) l).toNat * 2 ^ (32 * i)).sum

/-- Change a pound of the gang's launch. -/
def setPound (s : State) (n : Nat) (p : Pound) : State :=
  s.modLaunch s.me.launch fun l => { l with pounds := l.pounds.put n p }

end State

/-- R150: a release, then the items of the lowest active lanes, up to the free places. -/
def execQpush (h : Hdr) (a : BitVec 6) (p n : BitVec 3) (s : State) : Out :=
  s.issueWord (.qpush h a p n) (State.poundTrap n) fun s =>
    match s.poundOf n.toNat with
    | none => s
    | some (d, c) =>
      let ls := (s.actLanes h.guard).take (d.cap - (c.tail - c.head))
      match s.ringItems s.me.asid s.me.reach (clusterOfCore s.me.core) d .write c.tail ls.length with
      | .error (e, va) => s.parkRing 2 e va h.guard
      | .ok xs =>
        let t := s.releaseAll s.cur.gang s.cur.widx.toNat s.cur.slices
        let die := dieOfCore s.me.core
        let t := (xs.zip ls).foldl (fun t x => t.engineWrite die x.1.pa x.1.kid 16 (s.itemOf a x.2)) t
        (t.setPound n.toNat { c with tail := c.tail + ls.length }).writePred h.guard p fun l => ls.contains l

/-- R150: the lowest active lanes receive items in order; an acquire when one is received. -/
def execQpop (h : Hdr) (d : BitVec 6) (p n : BitVec 3) (s : State) : Out :=
  s.issueWord (.qpop h d p n) (State.poundTrap n) fun s =>
    match s.poundOf n.toNat with
    | none => s
    | some (q, c) =>
      let ls := (s.actLanes h.guard).take (c.tail - c.head)
      match s.ringItems s.me.asid s.me.reach (clusterOfCore s.me.core) q .read c.head ls.length with
      | .error (e, va) => s.parkRing 1 e va h.guard
      | .ok xs =>
        let items := ls.zip xs
        let word (l i : Nat) : State.Got :=
          ((items.find? fun x => x.1 == l).map fun (_, x) =>
            ⟨s, s.homeRead (x.pa + 4 * i) x.kid 4, s.poisoned (x.pa + 4 * i) 4, false⟩).getD ⟨s, 0, false, false⟩
        let bad (k i : Nat) : BitVec 4 := State.lanesOf (ls.filter fun l => (word l i).bad) k
        let t := (List.range 4).foldl (fun t i =>
          s.cur.slices.foldl (fun t k =>
            (t.write k (d.toNat + i) (State.lanesOf ls k) (fun j => BitVec.ofNat 32 (word (4 * k + j) i).value) .raw).poisonReg k (d.toNat + i) (bad k i)) t) s
        let t := items.foldl (fun t (_, x) =>
          (List.range 4).foldl (fun t i =>
            if s.poisoned (x.pa + 4 * i) 4 then t.noteBad t.me.core t.me.asid (x.pa + 4 * i) else t) t) t
        let t := (t.setPound n.toNat { c with head := c.head + ls.length }).writePred h.guard p fun l => ls.contains l
        if ls = [] then t else t.acquireMe

/-! ### Segments (R158) -/

/-- Write a segment register of the gang. -/
def State.setSeg (s : State) (e : Nat) (f : Seg → Seg) : State :=
  s.modMe fun g => { g with segs := g.segs.put e (f (g.seg e)) }

/-- The 64-bit value of a pair at the lowest active lane. -/
def State.pairOf (s : State) (a : BitVec 6) : Option (BitVec 64) := (s.lowest 0).map fun l => s.V64 a.toNat l

/-- A segment value that `segw` refuses. -/
def State.segTrap (s : State) (a : BitVec 6) (bad : Nat → Bool) : Option TrapInfo :=
  (s.pairOf a).bind fun v =>
    if bad v.toNat then
      some { rank := 7, cause := 0x06, slot := s.cur.slot, imp := false,
             who := s.cur.slices.map fun k => ⟨k, (s.sl k).mask, (addrInfo v.toNat).1, (addrInfo v.toNat).2, s.cur.chain⟩ }
    else none

/-- R158. With no active lane `segw` writes nothing (DESIGN CHOICE, log 69). -/
def execSegwBase (h : Hd0) (a : BitVec 6) (e : BitVec 3) (s : State) : Out :=
  s.issueWord (.segwBase h a e) (fun s => s.segTrap a fun v => decide (2 ^ 57 ≤ v)) fun s =>
    match s.pairOf a with
    | none => s
    | some v => s.setSeg e.toNat fun g => { g with base := v }

/-- R158. -/
def execSegwLimit (h : Hd0) (a : BitVec 6) (e : BitVec 3) (s : State) : Out :=
  s.issueWord (.segwLimit h a e) (fun s => s.segTrap a fun v => e == 4 && decide (Config.basinTop < v)) fun s =>
    match s.pairOf a with
    | none => s
    | some v => s.setSeg e.toNat fun g => { g with limit := v }

/-- R158. -/
def execSegrBase (h : Hdr) (d : BitVec 6) (e : BitVec 3) (s : State) : Out :=
  s.issueWord (.segrBase h d e) State.noFault fun s => s.write64 h.guard d.toNat fun _ => (s.me.seg e.toNat).base

/-- R158. -/
def execSegrLimit (h : Hdr) (d : BitVec 6) (e : BitVec 3) (s : State) : Out :=
  s.issueWord (.segrLimit h d e) State.noFault fun s => s.write64 h.guard d.toNat fun _ => (s.me.seg e.toNat).limit

/-! ### Invalidation (R159, R365) -/

/-- What an invalidation covers: scope 0 the page of a VA in a context, 1 a context, 2 everything. -/
structure InvScope where
  scope : Nat
  va : Nat
  asid : Nat
  deriving DecidableEq, Repr

/-- Whether a TLB entry is covered. -/
def InvScope.hits (v : InvScope) (e : TlbEntry) : Bool :=
  match v.scope with
  | 0 => e.asid == v.asid && decide (e.va ≤ v.va) && decide (v.va < e.va + e.size)
  | 1 => e.asid == v.asid
  | _ => true

/-- Whether the page of an address of a context may be one that is covered: under scope 0, one of the GiB that the largest page takes, whether
or not its entry is still held (R362; log 21). -/
def InvScope.covers (v : InvScope) (asid va : Nat) : Bool :=
  match v.scope with
  | 0 => asid == v.asid && va / 2 ^ 30 == v.va / 2 ^ 30
  | 1 => asid == v.asid
  | _ => true

namespace State

/-- What R365 requires before an invalidation completes in some clusters: entries of PEND and dirty aqueduct words of
their dies that may have used a covered translation are taken. -/
def settleCovered (s : State) (cs : List Nat) (v : InvScope) : State :=
  let gangs := (s.gangs.filter fun (_, y) => cs.contains (clusterOfCore y.core)).map fun (g, y) => (g, y.asid, y.slices)
  let s := gangs.foldl (fun s (g, asid, xs) =>
    xs.foldl (fun s (k, x) => if x.pend.any fun p => v.covers asid p.va then s.drain g k else s) s) s
  s.dies.keys.foldl (fun s d =>
    if cs.any fun c => dieOfCore (4 * c) == d then
      s.writeBackAll d (((s.die d).aq.filter fun (_, a) => decide (a.dirty ≠ 0) && a.dirtied.any fun x => v.covers x.asid x.va).map Prod.fst)
    else s) s

/-- Remove the covered entries of a cluster's TLB and the virtually tagged lines that they may have brought into its L1s (R159). -/
def invCluster (s : State) (c : Nat) (v : InvScope) : State :=
  let s := s.setTlb c ((s.tlb c).filter fun e => !v.hits e)
  { s with cores := s.cores.mapAll fun k x =>
      if clusterOfCore k = c then { x with l1 := x.l1.keep fun _ e => !(v.covers v.asid e.va) } else x }

/-- An invalidation of some clusters. -/
def invalidate (s : State) (cs : List Nat) (v : InvScope) : State :=
  cs.foldl (fun s c => s.invCluster c v) (s.settleCovered cs v)

/-- `tlbi` of the issuing cluster, after every older entry of the issuing slices has been taken (R388). -/
def tlbiWord (s : State) (v : InvScope) : State :=
  (s.cur.slices.foldl (fun s k => s.drain s.cur.gang k) s).invalidate [clusterOfCore s.me.core] v

end State

/-- R159: the page of an address in the current context. With no active lane `tlbi` and `tlbi.asid` do nothing (DESIGN CHOICE, log 69). -/
def execTlbi (h : Hd0) (a : BitVec 6) (s : State) : Out :=
  s.issueWord (.tlbi h a) State.noFault fun s =>
    match s.pairOf a with
    | none => s
    | some v => s.tlbiWord ⟨0, v.toNat % 2 ^ 57, s.me.asid⟩

/-- R159: every entry of one context. -/
def execTlbiAsid (h : Hd0) (a : BitVec 6) (s : State) : Out :=
  s.issueWord (.tlbiAsid h a) State.noFault fun s =>
    match s.operand a with
    | none => s
    | some v => s.tlbiWord ⟨1, 0, v % 2 ^ 16⟩

/-- R159: every entry. -/
def execTlbiAll (h : Hd0) (s : State) : Out := s.issueWord (.tlbiAll h) State.noFault fun s => s.tlbiWord ⟨2, 0, 0⟩

/-! ### The control store (R60–R62, R160) -/

/-- Fields of an operation (Table 2-10): whether it is the last, a field's mark, its word. -/
def opLast (o : BitVec 64) : Bool := o.getLsbD 41
def opMark (o : BitVec 64) (lo : Nat) : Option Nat := if o.getLsbD (lo + 2) then some (o.extractLsb' lo 2).toNat else none

/-- Whether a primary opcode's format has a d, an a, a b field (Table 2-6). -/
def opHasD (o : Nat) : Bool := o != 0
def opHasA (o : Nat) : Bool := o != 0 && o != 0x0B && o != 0x53 && o != 0x54
def opHasB (o : Nat) : Bool :=
  (decide (0x01 ≤ o) && decide (o ≤ 0x07)) || (decide (0x0C ≤ o) && decide (o ≤ 0x17)) || o == 0x1E || o == 0x21 || o == 0x22 ||
    o == 0x30 || o == 0x36 || o == 0x39 || o == 0x3E || o == 0x70 || o == 0x72 || (decide (0x75 ≤ o) && decide (o ≤ 0x77))

/-- The word of an operation with its marked fields replaced by parameter registers (R62). -/
def opWord (o : BitVec 64) (ps : List (BitVec 6)) : Word :=
  let w := o.extractLsb' 0 32
  let put (w : Word) (lo : Nat) (m : Option Nat) : Word :=
    match m with
    | none => w
    | some k => (w &&& ~~~((63#32) <<< lo)) ||| (((ps[k]?).getD 0).zeroExtend 32 <<< lo)
  put (put (put w 12 (opMark o 32)) 6 (opMark o 35)) 0 (opMark o 38)

/-- Whether a word that a microprogram may hold breaks a check of R65: a field that Table 2-2 or Table 2-6 marks zero, its guard,
an odd pair (R49), a segment (R59), a register group (R191). A function code or value that only R64 or R53 refuses traps when
the operation runs. -/
def encodingBad (w : Word) : Bool :=
  let op := (field w 21 7).toNat
  let g := field w 18 3
  let odd (lo : Nat) : Bool := w.getLsbD lo
  let e := (field w 3 3).toNat
  let mem := decide (0x60 ≤ op) && decide (op ≤ 0x6D)
  (op == 0x00 && field w 0 18 != 0#18) || (op == 0x0C && field w 0 6 != 0#6) || (op == 0x6E && field w 12 6 != 0#6) ||
    (decide (0x66 ≤ op) && decide (op ≤ 0x69) && field w 0 3 != 0#3) ||
    (op == 0x0D && g == 0#3) || ([0x00, 0x54, 0x6E, 0x70, 0x71, 0x72, 0x73, 0x74, 0x79, 0x7A].contains op && g != 0#3) ||
    ([0x0F, 0x26, 0x63, 0x69, 0x6B, 0x70, 0x77].contains op && odd 12) || ([0x0F, 0x27].contains op && odd 6) ||
    (op == 0x0F && odd 0) || (op == 0x37 && field w 0 6 == 1#6 && odd 12) || (op == 0x76 && field w 6 2 != 0#2) ||
    (mem && (e == 6 || (e == 5) != (op == 0x64) || (e == 4 && op == 0x65) || (e == 7 && odd 6)))

/-- Whether `mcsld` refuses an operation (R61). Register value 0 meets every alignment, so an operation is refused after
every substitution where it is refused after that one (DESIGN CHOICE, log 65: `any` read as `every`). -/
def opRefused (o : BitVec 64) : Bool :=
  let w := o.extractLsb' 0 32
  let op := (field w 21 7).toNat
  let reserved := op == 0x1F || (decide (0x29 ≤ op) && decide (op ≤ 0x2F)) || op == 0x3F || op == 0x5E || op == 0x5F || op == 0x6F || decide (0x7E ≤ op)
  opChain w || opLits w != 0 || (opPipe w == .k && op != 0x53 && op != 0x54) || reserved ||
    ((opMark o 32).isSome && !opHasD op) || ((opMark o 35).isSome && !opHasA op) || ((opMark o 38).isSome && !opHasB op) ||
    o.extractLsb' 42 22 != 0 || encodingBad (opWord o [0, 0, 0, 0])

/-- The operations of a microprogram that are run: up to the first marked last (R60). -/
def opsRun : List (BitVec 64) → List (BitVec 64)
  | [] => []
  | o :: r => if opLast o then [o] else o :: opsRun r

namespace State

/-- Whether a slice of a core is inside a microprogram. -/
def insideMicro (s : State) (c p : Nat) : Bool :=
  s.gangs.any fun (_, g) => g.core == c && g.slices.any fun (_, x) =>
    let at_ (m : Option (Word × Nat)) : Bool := m.any fun m => match s.codeWord g m.1.toNat with
      | .ok w => (field w 12 6).toNat == p
      | .error _ => true
    at_ x.macroAt || x.levels.any fun v => at_ v.macroAt

/-- Replace the microprograms of a core that no slice is inside (R160). -/
def replaceMicro (s : State) (c : Nat) : State :=
  (s.core c).loading.foldl (fun s (p, m) =>
    if s.insideMicro c p then s
    else s.modCore c fun x => { x with store := x.store.put p m, loading := x.loading.del p }) s

/-- The places of a range of a few bytes, one for each page that it stands in, or the first address that faults. -/
def pagesOf (s : State) (lane : Nat) : Nat → Nat → Nat → Except (XFail × Nat) (List (Place × Nat))
  | 0, _, _ => .ok []
  | f + 1, at_, n =>
    let k := min n (2 ^ 16 - at_ % 2 ^ 16)
    match s.translate (clusterOfCore s.me.core) s.me.asid s.me.reach at_ .read lane with
    | .error e => .error (e, at_)
    | .ok x =>
      let p : Place := ⟨x.pa, x.kid, x.policy, x.counted, at_, s.me.asid⟩
      if n ≤ k then .ok [(p, n)] else (s.pagesOf lane f ((at_ + k) % 2 ^ 57) (n - k)).map fun ps => (p, k) :: ps

/-- The places of the first operations of a microprogram for the issuing slices, or the first page that faults. -/
def readOps (s : State) (va : Nat) : Nat → Except (XFail × Nat) (List (List (Place × Nat)))
  | 0 => .ok []
  | n + 1 =>
    match s.readOps va n, s.pagesOf n 2 ((va + 8 * n) % 2 ^ 57) 8 with
    | .error e, _ => .error e
    | _, .error e => .error e
    | .ok ps, .ok p => .ok (ps ++ [p])

/-- The parts of an operation as loads of a slice. -/
def loadParts (s : State) (k : Nat) : List (Place × Nat) → State × Nat
  | [] => (s, 0)
  | (p, n) :: r =>
    let got := s.fetch s.cur.gang k p n true
    let (s, v) := got.st.loadParts k r
    (s, got.val + 2 ^ (8 * n) * v)

/-- The operations as loads of a slice. -/
def loadOps (s : State) (k : Nat) : List (List (Place × Nat)) → State × List (BitVec 64)
  | [] => (s, [])
  | p :: r =>
    let (s, v) := s.loadParts k p
    let (s, os) := s.loadOps k r
    (s, BitVec.ofNat 64 v :: os)

end State

/-- R160: a failed check traps and leaves the microprogram invalid. The VA is the low 57 bits of the lowest active lane's pair; with no
active lane nothing is loaded; a park's record is of kind 1 with every active lane (DESIGN CHOICE, log 65). -/
def execMcsld (h : Hd0) (a p : BitVec 6) (s : State) : Out :=
  s.issueWord (.mcsld h a p) State.noFault fun s =>
    match s.pairOf a, s.lowest 0 with
    | some v, some l =>
      match s.readOps (v.toNat % 2 ^ 57) 32 with
      | .error (e, va) => s.parkRing 1 e va 0
      | .ok ps =>
        let (s, os) := s.loadOps (l / 4) ps
        let c := s.me.core
        let set (m : Micro) : State := s.modCore c fun x => { x with loading := x.loading.put p.toNat m }
        if os.any opRefused then ((set ⟨false, os⟩).replaceMicro c).takeTrap (s.trapAll 7 0x02 s.cur.chain 0)
        else (set ⟨true, os⟩).replaceMicro c
    | _, _ => s

end Sys2Proof.Machine
end

