-- ==== Sys2Proof/Machine/EvLaunch.lean ====
section
/-! DEFINITION. Events of launches: dequeue, placement, compaction, gang start, `stage` and role switches, the end of a launch
(R54, R148, R149, R211–R214, R312–R319, R324, R326, R328). -/

namespace Sys2Proof.Machine

/-! ### The backing of a quarter (R213) -/

/-- The largest free blocks of a buddy region, in address order, when the blocks of `used` (base, size) are taken; `n`
halvings are possible. -/
def freeIn (used : List (Nat × Nat)) : Nat → Nat → Nat → List (Nat × Nat)
  | 0, b, z => if used.any fun u => overlap b z u.1 u.2 then [] else [(b, z)]
  | n + 1, b, z =>
    if used.all fun u => !overlap b z u.1 u.2 then [(b, z)]
    else if used.any fun u => decide (u.1 ≤ b) && decide (b + z ≤ u.1 + u.2) then []
    else freeIn used n b (z / 2) ++ freeIn used n (b + z / 2) (z / 2)

/-- The free blocks of a quarter. -/
def freeBlocks (used : List (Nat × Nat)) : List (Nat × Nat) := freeIn used 4 0 1024 ++ freeIn used 3 1024 512

/-- The smallest free block of at least `a` registers, the lowest of equal ones. -/
def findBlock (used : List (Nat × Nat)) (a : Nat) : Option Nat :=
  let take (m : Option (Nat × Nat)) (x : Nat × Nat) : Option (Nat × Nat) :=
    match m with
    | none => if a ≤ x.2 then some x else none
    | some y => if a ≤ x.2 ∧ x.2 < y.2 then some x else some y
  ((freeBlocks used).foldl take none).map Prod.fst

/-- Place allotments, given with their owners, one after the other; none where one finds no block. -/
def packAll : List (Nat × Nat) → List (Nat × Nat) → Option (List (Nat × Nat))
  | _, [] => some []
  | used, (o, a) :: r =>
    match findBlock used a with
    | none => none
    | some b => (packAll ((b, a) :: used) r).map fun m => (o, b) :: m

/-- Largest first; equal sizes in the order given (R214: which allotments move is the device's choice). -/
def bySize (xs : List (Nat × Nat)) : List (Nat × Nat) := [1024, 512, 256, 128, 64].flatMap fun z => xs.filter fun x => x.2 == z

namespace State

/-- The gangs of a quarter, but for one. -/
def quarterGangs (s : State) (c q : Nat) (but : Option Nat) : FMap Gang :=
  s.gangs.filter fun (g, y) => y.core == c && y.quarter == q && decide (but ≠ some g)

/-- The blocks taken in a quarter, and its free registers. -/
def usedBlocks (s : State) (c q : Nat) (but : Option Nat) : List (Nat × Nat) :=
  (s.quarterGangs c q but).map fun (_, y) => (y.base, y.allot)
def freeRegs (s : State) (c q : Nat) (but : Option Nat) : Nat := Config.backing - ((s.usedBlocks c q but).map Prod.snd).sum

/-- The lowest free gang place of a quarter. -/
def freePlace (s : State) (c q : Nat) : Option Nat :=
  (List.range Config.places).find? fun p => (s.quarterGangs c q none).all fun (_, y) => y.place != p

/-- Whether a core serves a context, or none (R320); a thread that still runs there holds it. -/
def serves (s : State) (c asid : Nat) : Bool :=
  (s.gangs.all fun (_, y) => y.core != c || y.asid == asid) &&
    s.threads.all fun (_, t) => t.core != c || t.ended.isSome || t.asid == asid || (s.saved.find t.asid).isSome

/-! ### Seats (R319) -/

/-- The quarters of some cores on which gang `i` of a launch finds a place and `fit` holds. -/
def seats (s : State) (l : Nat) (cores : List Nat) (fit : Nat → Nat → Bool) : List (Nat × Nat) :=
  cores.flatMap fun c => if s.serves c (s.launch l).asid then
    ((List.range 4).map fun q => (c, q)).filter fun x => (s.freePlace x.1 x.2).isSome && fit x.1 x.2 else []

/-- The preferred of some quarters: the core of a lower-numbered gang, the most free registers, the first. -/
def preferred (s : State) (l i : Nat) (qs : List (Nat × Nat)) : Option (Nat × Nat) :=
  let near (c : Nat) : Bool := s.gangs.any fun (_, y) => y.launch == l && y.core == c && decide (y.index < i)
  let key (x : Nat × Nat) : Nat := (if near x.1 then 2048 else 0) + s.freeRegs x.1 x.2 none
  qs.foldl (fun m x => match m with | none => some x | some y => if key y < key x then some x else some y) none

/-- The image and the role's allotment of gang `i` of a launch. -/
def imageOf (s : State) (l : Nat) : Image := (s.launch l).img.getD (Image.ofBytes [])
def gangAllot (s : State) (l i : Nat) : Nat := ((s.imageOf l).role ((s.imageOf l).firstRole i)).allot

/-- Where gang `i` of a launch goes among some cores. -/
def seatOf (s : State) (l i : Nat) (cores : List Nat) : Option (Nat × Nat) :=
  s.preferred l i (s.seats l cores fun c q => (findBlock (s.usedBlocks c q none) (s.gangAllot l i)).isSome)

/-- Gang `i` of a launch, in its place and not yet started (R54, R57, R210, R315, R354). -/
def newGang (s : State) (l i c q base : Nat) : Gang :=
  let y := s.launch l
  let m := s.imageOf l
  let n := m.firstRole i
  let r := m.role n
  let regs := match y.offset with
    | none => r.regs
    | some o => r.regs.put 1 (Reg.splat (BitVec.ofNat 32 o) .u32 0)
  let b := y.berths[i]?
  { Gang.blank with
    launch := l, asid := y.asid, reach := y.reach, system := s.ctxSystem y.asid, index := i, count := y.gangs,
    slices := (List.range m.slices).map fun k =>
      (k, { Slice.blank with pc := BitVec.ofNat 32 r.entry, mask := 15, live := 15, regs := regs, stream := 1 })
    role := n, cls := r.cls, base := base, allot := r.allot, core := c, quarter := q, place := (s.freePlace c q).getD 0,
    codeBase := m.codeBase, codeLimit := m.codeLimit, handler := m.handler, towBase := m.towBase, towSize := m.towSize,
    roles := m.roles.length, frag := m.frag, seed := m.seed,
    rngs := match b with | some x => BitVec.ofNat 64 x.2.2 | none => m.rngs
    grp := m.grp i, berth := match b with | some x => BitVec.ofNat 32 x.1 | none => 0xFFFFFFFF
    step := y.step, launchId := y.id, segs := m.segs, streamNo := 1, started := false }

/-! ### The Basin image (R312, R320) -/

/-- Write bytes of the Basin image on a core; poisoned source words stay poisoned (R396). -/
def putBasin (s : State) (c off : Nat) : List (Xlat × Nat) → State
  | [] => s
  | (x, k) :: r =>
    let at_ := keyAt basinSpace c off
    let t := s.engineWrite (dieOfCore c) at_ 0 k (s.engineRead (dieOfCore c) x.pa x.kid k)
    let bad := s.poison.filter fun w => decide (x.pa ≤ 4 * w) && decide (4 * w < x.pa + k)
    (bad.foldl (fun t w => t.setPoison (at_ + (4 * w - x.pa)) 4) t).putBasin c (off + k) r

/-- Bring a launch's Basin image to a core that has not had it; a fault holds the core's gangs. -/
def loadBasin (s : State) (l c : Nat) : State :=
  let y := s.launch l
  let m := s.imageOf l
  if y.loaded.contains c || y.lost.contains c || (y.held.find c).isSome then s
  else if m.basinImage = 0 then s.modLaunch l fun y => { y with loaded := c :: y.loaded }
  else match s.unitPlaces y.asid .read (parts m.basinImage m.basinBytes) with
    | .ok xs => (s.putBasin c (m.seg 4).1 xs).modLaunch l fun y => { y with loaded := c :: y.loaded }
    | .error (e, va) =>
      let (s, id) := s.unitFault 0 y.asid y.id.toNat e va
      s.modLaunch l fun y => { y with held := y.held.put c id }

/-- A core comes to serve a context: where it served another, or one created since, its barrier area is zero and its summaries are
EMPTY (R259, R266, R320). -/
def freshCore (s : State) (c asid : Nat) : State :=
  let now := some (asid, (s.ctx asid).created)
  if (s.core c).context = now then s
  else ({ s with mem := Memory.clear s.mem (keyAt basinSpace c Config.basinTop) (16 * Config.barriers) } : State).modCore c fun x =>
    { x with summary := [], slots := [], barrierLaunch := [], context := now }

/-- Put gang `i` of a launch in a quarter, at a block of its backing. -/
def seatGang (s : State) (l i c q base : Nat) : State :=
  let g := s.gangNo
  { s with gangs := s.gangs.put g (s.newGang l i c q base), gangNo := g + 1 }.freshCore c (s.launch l).asid

/-- Place a gang and bring its core the Basin image. -/
def putGang (s : State) (l i c q base : Nat) : State := (s.seatGang l i c q base).loadBasin l c

/-! ### The end of a launch (R254, R326, R328) -/

/-- The Lock disables itself, with or without an error (R354, R408). -/
def disableLock (s : State) (r : Nat) (err : Bool) : State :=
  s.modLock r fun x => { x with enable := false, state := .disabled, error := x.error || err, park := none, journal := [], waiting := false }

/-- The value a launch writes to DONE. -/
def doneValue (y : Launch) : Nat :=
  match y.state with
  | .finished 0 => y.doneVal.toNat
  | .finished c => 2 ^ 63 + c
  | _ => 0

/-- Perform a launch's DONE write: a store, or for a fired launch that did not fail an atomic add; held at a fault. -/
def writeDone (s : State) (l : Nat) : State :=
  let y := s.launch l
  let mark (s : State) : State := s.modLaunch l fun y => { y with reported := true }
  let add : Bool := match y.source with | .armed _ _ => decide (y.state = .finished 0) | _ => false
  if y.doneVa = 0 then mark s
  else match s.unitXlat y.asid y.doneVa .write with
    | .error e =>
      let (s, id) := s.unitFault 0 y.asid y.id.toNat e y.doneVa
      s.modLaunch l fun y => { y with park := some id }
    | .ok x => mark (s.engineWrite 0 x.pa x.kid 8 ((if add then s.engineRead 0 x.pa x.kid 8 else 0) + doneValue y))

/-- Whether a launch is over. -/
def isOver (s : State) (l : Nat) : Bool := match (s.launch l).state with | .finished _ => true | _ => false

/-- The DONE writes that a sluice may make: in packet order, up to a launch that runs or waits at a fault. -/
def flushDone (s : State) : List Nat → State
  | [] => s
  | l :: r =>
    if (s.launch l).reported then s.flushDone r
    else if !s.isOver l || (s.launch l).park.isSome then s
    else
      let t := s.writeDone l
      if (t.launch l).reported then t.flushDone r else t

/-- Report the end of a launch to who queued it. -/
def report (s : State) (l : Nat) : State :=
  match (s.launch l).source with
  | .sluice q _ =>
    let s := s.flushDone (s.sluice q).launches
    s.modSluice q fun x => { x with launches := x.launches.filter fun j => !(s.launch j).reported }
  | .armed _ _ => if (s.launch l).park.isSome || (s.launch l).reported then s else s.writeDone l
  | .lock _ => s.modLaunch l fun y => { y with reported := true }

/-- Free the slot of a fired launch (R328). -/
def freeSlot (s : State) (l : Nat) : State :=
  match (s.launch l).source with
  | .armed key slot =>
    s.modCtx (s.launch l).asid fun c =>
      { c with armed := c.armed.map fun a => if a.key = key then { a with busy := a.busy.filter fun k => decide (k ≠ slot) } else a }
  | _ => s

/-- A launch ends with a code. -/
def finishLaunch (s : State) (l code : Nat) : State :=
  let s := (s.modLaunch l fun y => { y with state := .finished code, park := none }).freeSlot l
  { s with placing := s.placing.filter fun j => decide (j ≠ l), queue := s.queue.filter fun j => decide (j ≠ l) }.report l

/-- A launch is refused: nothing of it starts; a Lock whose step is refused disables itself (R354). -/
def refuseLaunch (s : State) (l code : Nat) : State :=
  let s := s.finishLaunch l code
  match (s.launch l).source with
  | .lock r => if (s.lock r).launch = some l then s.disableLock r (code == 6) else s
  | _ => s

/-! ### LOCAL groups (R211, R319) -/

/-- Join a set of gangs to the sets it meets. -/
def joinSets (cs : List (List Nat)) (x : List Nat) : List (List Nat) :=
  let meets (c : List Nat) : Bool := c.any fun m => x.contains m
  ((cs.filter meets).foldl (fun a c => c.foldl addSorted a) (x.foldl addSorted [])) :: cs.filter fun c => !meets c

/-- The sets of gangs that must share a core, in ascending order of their lowest gangs. -/
def localSets (m : Image) : List (List Nat) :=
  let cs := ((m.groups.filter Group.together).map Group.members).foldl joinSets []
  let lows := (cs.map fun c => c.headD 0).foldl addSorted []
  lows.flatMap fun n => cs.filter fun c => c.headD 0 == n

/-- A list in falling order of a key, equal ones as they stood. -/
def fallingBy (key : Nat → Nat) (xs : List Nat) : List Nat :=
  xs.foldr (fun x m => m.takeWhile (fun y => decide (key x < key y)) ++ x :: m.dropWhile fun y => decide (key x < key y)) []

/-- PLACE A SET of gangs on one core, in any quarters in which each finds a place and a block, the preferred tried first, so that
`go` succeeds then. -/
def placeSet (s : State) (l c : Nat) (go : State → Option State) : List Nat → Option State
  | [] => go s
  | i :: r =>
    (fallingBy (fun q => s.freeRegs c q none) [0, 1, 2, 3]).findSome? fun q =>
      match s.freePlace c q, findBlock (s.usedBlocks c q none) (s.gangAllot l i) with
      | some _, some base => ((s.seatGang l i c q base).modLaunch l fun y => { y with cores := y.cores.put i c }).placeSet l c go r
      | _, _ => none

/-- Whether a core could hold a set by its free places and registers alone. -/
def roomFor (s : State) (l c : Nat) (x : List Nat) : Bool :=
  let sum (f : Nat → Nat) : Nat := ([0, 1, 2, 3].map f).sum
  s.serves c (s.launch l).asid && decide (x.length ≤ sum fun q => Config.places - (s.quarterGangs c q none).length) &&
    decide ((x.map (s.gangAllot l)).sum ≤ sum fun q => s.freeRegs c q none)

/-- The cores on which a set may be placed, the preferred first: that of a lower-numbered gang, that of the quarter with the most
free registers, the first. -/
def setCores (s : State) (l : Nat) (x : List Nat) : List Nat :=
  let near (c : Nat) : Bool := s.gangs.any fun (_, y) => y.launch == l && y.core == c && decide (y.index < x.headD 0)
  let best (c : Nat) : Nat := ([0, 1, 2, 3].map fun q => s.freeRegs c q none).foldl max 0
  fallingBy (fun c => (if near c then 2048 else 0) + best c) ((s.reachCores (s.launch l).reach).filter fun c => s.roomFor l c x)

/-- PLACE THE LOCAL GROUPS of a launch, every set on one core, where the free state of the reach allows it (R211). -/
def placeLocal (s : State) (l : Nat) : List (List Nat) → Option State
  | [] => some s
  | x :: r => (s.setCores l x).findSome? fun c => s.placeSet l c (fun t => t.placeLocal l r) x

/-- The first gang from `n` that no LOCAL group has placed. -/
def skipPlaced (y : Launch) : Nat → Nat → Nat
  | 0, n => n
  | f + 1, n => if (y.cores.find n).isSome then skipPlaced y f (n + 1) else n

/-- A launch whose image passed its checks begins to be placed; its LOCAL groups are placed at once, or it is refused. -/
def beginLaunch (s : State) (l : Nat) (m : Image) : State :=
  let grid := (s.launch l).grid
  let s := s.modLaunch l fun y =>
    { y with img := some m, gangs := m.started grid, state := .placing,
             pounds := ((List.range 8).zip m.pounds).map fun (k, d) => (k, ⟨0, d.init, false⟩) }
  match s.placeLocal l (localSets m) with
  | none => s.refuseLaunch l 3
  | some t =>
    let y := t.launch l
    let t := t.modLaunch l fun y => { y with placed := skipPlaced y (y.cores.length + 1) 0 }
    let t := if y.cores.length < y.gangs then { t with placing := t.placing ++ [l] } else t
    y.cores.foldl (fun t x => t.loadBasin l x.2) t

/-! ### Dequeue (R54, R312, R324) -/

/-- A new launch, queued. -/
def newLaunch (s : State) (y : Launch) : State := { s with launches := s.launches.put s.launchNo y, launchNo := s.launchNo + 1 }

/-- Assign a launch its id (R54). -/
def giveId (s : State) (l : Nat) : State :=
  let a := (s.launch l).asid
  let n := (s.ctx a).launchNo
  (s.modCtx a fun c => { c with launchNo := if n = 0xFFFFFFFF then 1 else n + 1 }).modLaunch l fun y => { y with id := n }

/-- The traffic class of a queued launch: that of an armed launch's image as validated (R327), else the class of its image's header as it
stands, 0 where it cannot be read. -/
def queuedClass (s : State) (l : Nat) : Nat :=
  match (s.launch l).img with
  | some m => m.cls
  | none =>
  match s.unitRead (s.launch l).asid ((s.launch l).image + 10) 1 with
  | .ok [b] => min b.toNat 3
  | _ => 0

/-- The launch that is dequeued next: highest class first, in queue order within a class; a step of the Lock follows the one
before it (R329). -/
def nextQueued (s : State) : Option Nat :=
  let runs (a : Nat) : Bool := s.launches.any fun (j, y) =>
    y.asid == a && !s.queue.contains j && !s.isOver j && (match y.source with | .lock _ => true | _ => false)
  let free (l : Nat) : Bool := match (s.launch l).source with | .lock _ => !runs (s.launch l).asid | _ => true
  let ls := s.queue.filter free
  [3, 2, 1, 0].findSome? fun c => ls.find? fun l => s.queuedClass l == c

/-- The image of a launch at its dequeue: that of a fired launch as ARM validated it (R327), else the one read and checked now (R312). -/
def imageNow (s : State) (y : Launch) : Except (XFail × Nat) Parsed :=
  match y.source with
  | .armed _ _ => .ok (.ok (y.img.getD (Image.ofBytes [])))
  | .lock _ => s.readImage y.asid y.image y.grid true
  | .sluice _ _ => s.readImage y.asid y.image y.grid false

/-- Take a launch's image, then begin it, refuse it, or wait at a fault. -/
def openLaunch (s : State) (l : Nat) : State :=
  let y := s.launch l
  match s.imageNow y with
  | .error (e, va) =>
    let (s, id) := s.unitFault 0 y.asid y.id.toNat e va
    s.modLaunch l fun y => { y with park := some id }
  | .ok (.error c) => s.refuseLaunch l c
  | .ok (.ok m) => s.beginLaunch l m

/-- A launch whose image the device may read again: its fault has been released. -/
def rereads (s : State) : Option Nat :=
  (s.launches.find? fun (_, y) => decide (y.state = .reading) && y.park.isNone).map Prod.fst

/-- Dequeue a launch. -/
def dequeue (s : State) (l : Nat) : State :=
  let a := (s.launch l).asid
  let s := { s with queue := s.queue.filter fun j => decide (j ≠ l) }
  let s := s.modCtx a fun c => { c with queue := c.queue.filter fun j => decide (j ≠ l) }
  if s.ctxValid a then ((s.giveId l).modLaunch l fun y => { y with state := .reading, reach := s.ctxReach a }).openLaunch l else s.refuseLaunch l 4

/-- Whether every launch dequeued before has been placed, or is off the device (R324). -/
def placedBefore (s : State) : Bool :=
  (s.placing.all fun l => s.leaving (s.launch l).asid) &&
    s.launches.all fun (_, y) => decide (y.state ≠ .reading) || s.leaving y.asid

/-- Whether a dequeue, or a second reading, is due. -/
def dequeueDue (s : State) : Bool := s.rereads.isSome || (s.placedBefore && s.nextQueued.isSome)

end State

/-- R324, R312: the released launch reads its image again, else the next launch of the queue is dequeued. -/
def execLaunchDequeue (s : State) : Out :=
  s.onlyIf s.dequeueDue fun s =>
    match s.rereads, s.nextQueued with
    | some l, _ => s.openLaunch l
    | none, some l => s.dequeue l
    | none, none => s

/-! ### Placement and compaction (R214, R319) -/

namespace State

/-- The launch to be placed: the first dequeued whose context is on the device. -/
def nextPlacing (s : State) : Option Nat := s.placing.find? fun j => !s.leaving (s.launch j).asid

/-- The gang that a launch places next, when it is the launch to be placed. -/
def nextGang (s : State) (l : Nat) : Option Nat :=
  if s.nextPlacing = some l ∧ (s.launch l).placed < (s.launch l).gangs then some (s.launch l).placed else none

/-- Place the next gang of a launch. -/
def placeNext (s : State) (l i c q base : Nat) : State :=
  let s := (s.putGang l i c q base).modLaunch l fun y => { y with placed := skipPlaced y (y.cores.length + 1) (i + 1) }
  if (s.launch l).placed < (s.launch l).gangs then s else { s with placing := s.placing.filter fun j => decide (j ≠ l) }

/-- Where the next gang of a launch goes. -/
def placeable (s : State) (l : Nat) : Option (Nat × Nat × Nat) :=
  (s.nextGang l).bind fun i => (s.seatOf l i (s.reachCores (s.launch l).reach)).map fun x => (i, x.1, x.2)

/-- The quarter that compaction would ready for the next gang of a launch: enough registers are free there, in no block. -/
def fragmented (s : State) (l : Nat) : Option (Nat × Nat × Nat) :=
  (s.nextGang l).bind fun i =>
    if (s.placeable l).isSome then none
    else (s.preferred l i (s.seats l (s.reachCores (s.launch l).reach) fun c q =>
      decide (s.gangAllot l i ≤ s.freeRegs c q none))).map fun x => (i, x.1, x.2)

/-! ### Role switches (R148, R149, R318) -/

/-- A slice begins a role: its registers, its stack and its window as the role gives them; it issues at the entry once its
older results are readable. -/
def enterRole (r : Role) (now : Nat) (x : Slice) : Slice :=
  { x.closeRegion with
    pc := BitVec.ofNat 32 r.entry, mask := x.live, stack := [], wb := 0, frames := [], towPtr := 0, regs := r.regs,
    wait := none, rest := [], replay := none, again := false, alone := false, olds := [], reserve := true, tb0 := 0xFFFFFFFF, eb0 := 0xFFFFFFFF, qf := 0,
    hint := none, hintBasin := 0, dix := x.dix + 1, readySince := now,
    ready := x.flights.foldl (fun m f => max m f.ready) (max x.ready now), flights := [] }

/-- The live slices of a gang take the moves of a role switch (R254). -/
def switchMoves (s : State) (g : Nat) : State :=
  let c := (s.gang g).core
  (s.acquire c (dieOfCore c) g).pathFence c true true

/-- A gang goes on as one stream, no slice before the others' results are readable. -/
def levelReady (s : State) (g : Nat) : State :=
  let ks := s.liveSlices g
  let t := ks.foldl (fun m k => max m (s.slice g k).ready) 0
  (ks.foldl (fun s k => s.modSlice g k fun x => { x with ready := t }) s).newStream g ks

/-- SWITCH A GANG to a role, at a block of its quarter (R148): results that are still to return land first. -/
def switchRole (s : State) (g n base : Nat) : State :=
  let r := (s.imageOf (s.gang g).launch).role n
  let ks := s.liveSlices g
  let s := ks.foldl (fun s k => s.drain g k) s
  let s := s.modGang g fun y => { y with role := n, cls := r.cls, base := base, allot := r.allot, fpmode := 0, gwait := none }
  let s := ks.foldl (fun s k => s.modSlice g k (enterRole r s.now)) s
  (s.switchMoves g).levelReady g

/-- A gang begins its role again with its registers as they are (R149). -/
def sameRole (s : State) (g : Nat) : State :=
  let r := (s.imageOf (s.gang g).launch).role (s.gang g).role
  let go (x : Slice) : Slice :=
    { x.closeRegion with
             pc := BitVec.ofNat 32 r.entry, wait := none, rest := [], replay := none, again := false, alone := false, olds := [], dix := x.dix + 1,
             readySince := s.now, ready := x.flights.foldl (fun m f => max m f.ready) (max x.ready s.now) }
  let ks := s.liveSlices g
  (ks.foldl (fun s k => s.modSlice g k go) (s.modGang g fun y => { y with gwait := none })).levelReady g

/-- v4–v7 receive an item's words, uniform and tagged U32; bit 128 + j of an item marks a word read poisoned, which is then the device's
marker (R168). -/
def putItem (s : State) (g item : Nat) : State :=
  (s.liveSlices g).foldl (fun s k => s.modSlice g k fun x =>
    { x with regs := (List.range 4).foldl (fun m j =>
        m.put (4 + j) (Reg.splat (BitVec.ofNat 32 (bitsOf item (32 * j) 32)) .u32 (if bitOf item (128 + j) then 15 else 0))) x.regs }) s

/-- The switch that a gang waits to make: its role, and the item it has taken. -/
def pendingRole (s : State) (g : Nat) : Option (Nat × Option Nat) :=
  if s.allMeet g (fun w => match w with | .stage _ => true | _ => false) then
    (s.gang g).gwait.map fun w => (w.role, some w.item)
  else if s.allMeet g (fun w => match w with | .rolesw _ => true | _ => false) then
    match (s.slice g ((s.liveSlices g).headD 0)).wait with
    | some (.rolesw n) => some (n, none)
    | _ => none
  else none

/-- The block a gang's new role finds in its quarter, its own allotment given back. -/
def roleBlock (s : State) (g n : Nat) : Option Nat :=
  let y := s.gang g
  findBlock (s.usedBlocks y.core y.quarter (some g)) ((s.imageOf y.launch).role n).allot

/-- Make a role switch with its item. -/
def takeRole (s : State) (g n base : Nat) (item : Option Nat) : State :=
  let s := s.switchRole g n base
  match item with | some v => s.putItem g v | none => s

/-- A gang whose role switch waits for backing that its quarter has, though in no block. -/
def switchFragmented (s : State) (c q : Nat) : Option (Nat × Nat × Option Nat) :=
  (s.quarterGangs c q none).findSome? fun (g, y) =>
    (s.pendingRole g).bind fun (n, item) =>
      if n ≠ y.role ∧ s.roleBlock g n = none ∧ ((s.imageOf y.launch).role n).allot ≤ s.freeRegs c q (some g) then
        some (g, n, item) else none

/-- Move the allotments of a quarter's other gangs, each paused for the copy at 256 bytes a cycle. -/
def moveAllots (s : State) (m : List (Nat × Nat)) : State :=
  m.foldl (fun s (g, b) =>
    if (s.gang g).base = b then s
    else s.modGang g fun y => { y with base := b, paused := max y.paused (s.now + y.allot / 2) }) s

/-- The repacked blocks of a quarter with a request of `a` registers, under the owner number `me`. -/
def repack (s : State) (c q : Nat) (but : Option Nat) (me a : Nat) : Option (List (Nat × Nat)) :=
  packAll [] (bySize ((me, a) :: (s.quarterGangs c q but).map fun (g, y) => (g, y.allot)))

/-- The launch whose next gang would be placed in a quarter after compaction. -/
def placeFragmented (s : State) (c q : Nat) : Option (Nat × Nat) :=
  s.nextPlacing.bind fun l => (s.fragmented l).bind fun (i, x) => if x = (c, q) then some (l, i) else none

/-- COMPACT a quarter for a role switch or a placement, and make it. -/
def compact (s : State) (c q : Nat) : State :=
  let others (g : Nat) (m : List (Nat × Nat)) : List (Nat × Nat) := m.filter fun x => x.1 != g
  let mine (g : Nat) (m : List (Nat × Nat)) : Nat := ((m.find? fun x => x.1 == g).map Prod.snd).getD 0
  match s.switchFragmented c q, s.placeFragmented c q with
  | some (g, n, item), _ =>
    match s.repack c q (some g) g ((s.imageOf (s.gang g).launch).role n).allot with
    | some m => (s.moveAllots (others g m)).takeRole g n (mine g m) item
    | none => s
  | none, some (l, i) =>
    match s.repack c q none s.gangNo (s.gangAllot l i) with
    | some m => (s.moveAllots (others s.gangNo m)).placeNext l i c q (mine s.gangNo m)
    | none => s
  | none, none => s

/-- Whether a quarter has something to compact for. -/
def compactDue (s : State) (c q : Nat) : Bool := (s.switchFragmented c q).isSome || (s.placeFragmented c q).isSome

/-- A gang's role switch can be made: to its own role, or into a block its quarter has. -/
def switchDue (s : State) (g : Nat) : Bool :=
  (s.pendingRole g).any fun (n, item) => (n == (s.gang g).role && item.isNone) || (s.roleBlock g n).isSome

end State

/-- R319. -/
def execGangPlacement (l : Nat) (s : State) : Out :=
  s.onlyIf (s.placeable l).isSome fun s =>
    match s.placeable l with
    | some (i, c, q) => s.placeNext l i c q ((findBlock (s.usedBlocks c q none) (s.gangAllot l i)).getD 0)
    | none => s

/-- R214: the request that only fragmentation keeps waiting is served. -/
def execCompaction (c q : Nat) (s : State) : Out := s.onlyIf (s.compactDue c q) fun s => s.compact c q

/-- R148, R318: to its current role a gang goes on at the next word. -/
def execRoleSwitchBacking (g : Nat) (s : State) : Out :=
  s.onlyIf (s.switchDue g) fun s =>
    match s.pendingRole g with
    | none => s
    | some (n, item) =>
      if n = (s.gang g).role ∧ item.isNone then
        let ks := s.liveSlices g
        (ks.foldl (fun s k => s.modSlice g k fun x => (x.resume s.now).closeRegion) s).newStream g ks
      else s.takeRole g n ((s.roleBlock g n).getD 0) item

/-! ### Gang start (R254, R315, R320) -/

namespace State

/-- Whether a placed gang may start, or may end because its core's Basin image was cancelled. -/
def startDue (s : State) (g : Nat) : Bool :=
  (s.gangs.find g).any fun y => !y.started && y.stop.isNone && !s.preempting y.asid && ((s.launch y.launch).held.find y.core).isNone

/-- Start a gang once its core holds the Basin image; the context's random key is then the one it had by its first gang (R360; log 8). -/
def startGang (s : State) (g : Nat) : State :=
  let y := s.gang g
  let s := s.loadBasin y.launch y.core
  if (s.launch y.launch).lost.contains y.core then s.endGang g
  else if !(s.launch y.launch).loaded.contains y.core then s
  else
    let s := s.modCtx y.asid fun c => { c with key := some (c.key.getD (leBytes 32 (s.ctxField y.asid 0x20 32))) }
    let s := s.modGang g fun y =>
      { y with started := true, slices := y.slices.mapAll fun _ x => { x with readySince := s.now, ready := max x.ready s.now } }
    s.switchMoves g

end State

/-- R315, R254. -/
def execGangStart (g : Nat) (s : State) : Out := s.onlyIf (s.startDue g) fun s => s.startGang g

/-! ### `stage` (R149, R316, R317) -/

namespace State

/-- The items of a pound of a launch, and its entry. -/
def poundAt (s : State) (l n : Nat) : PoundDesc × Pound :=
  (((s.imageOf l).pounds[n]?).getD ⟨0, 1, 0, false⟩, (s.launch l).pounds.getOr n Pound.blank)
def items (p : Pound) : Nat := p.tail - p.head

/-- Whether a role may be taken now. -/
def eligible (s : State) (l : Nat) (r : Role) : Bool :=
  (r.inp.any fun n => decide (0 < items (s.poundAt l n).2)) &&
    r.out.all fun n => decide (items (s.poundAt l n).2 < (s.poundAt l n).1.cap)

/-- The role that a gang takes: the fullest input pound, then the current role, then the lowest. -/
def chooseRole (s : State) (l cur : Nat) : Option Nat :=
  let m := s.imageOf l
  let frac (n : Nat) : Nat × Nat :=
    let (d, p) := s.poundAt l (((m.role n).inp).getD 0)
    (items p, max d.cap 1)
  let better (a b : Nat) : Bool :=
    let x := (frac a).1 * (frac b).2
    let y := (frac b).1 * (frac a).2
    decide (y < x) || (x == y && a == cur && b != cur)
  ((List.range m.roles.length).filter fun n => s.eligible l (m.role n)).foldl
    (fun w n => match w with | none => some n | some b => if better n b then some n else some b) none

/-- When a gang arrived at `stage`, when it waits there for an item. -/
def stageSince (s : State) (g : Nat) : Option Nat :=
  if s.allMeet g (fun w => match w with | .stage _ => true | _ => false) && (s.gang g).gwait.isNone then
    some ((s.liveSlices g).foldl (fun m k => match (s.slice g k).wait with | some (.stage t) => max m t | _ => m) 0)
  else none

/-- Whether a gang is the first of its launch that waits for an item (R316). -/
def stageFirst (s : State) (g : Nat) : Bool :=
  let y := s.gang g
  (s.stageSince g).any fun t => s.gangs.all fun (j, z) =>
    z.launch != y.launch || j == g || (s.stageSince j).all fun u => decide (t < u) || (t == u && decide (y.index < z.index))

/-- Whether a gang takes an item now. -/
def stageDue (s : State) (g : Nat) : Bool :=
  s.stageFirst g && (s.chooseRole (s.gang g).launch (s.gang g).role).isSome

/-- TAKE AN ITEM for a gang: the pop, an acquire, then the role switch that follows; a ring that does not translate parks
the gang at the word (log 12). Where the item goes into v4–v7 at once, what is still to return to them lands first (R241). -/
def takeItem (s : State) (g : Nat) : State :=
  let y := s.gang g
  let l := y.launch
  match s.chooseRole l y.role with
  | none => s
  | some n =>
    let k := (((s.imageOf l).role n).inp).getD 0
    let (d, p) := s.poundAt l k
    match s.ringItems y.asid y.reach (clusterOfCore y.core) d .read p.head 1 with
    | .ok [x] =>
      let at_ (j : Nat) : Place := ⟨x.pa + 4 * j, x.kid, 0, false, 0, y.asid⟩
      let word (j : Nat) : Got := ⟨s, s.homeRead (at_ j).pa x.kid 4, s.poisoned (at_ j).pa 4, false⟩
      let item := ([0, 1, 2, 3].map fun j => (word j).value % 2 ^ 32 * 2 ^ (32 * j) + flagBit (word j).bad (128 + j)).sum
      let s := ([0, 1, 2, 3].filter fun j => (word j).bad).foldl (fun s j => s.noteBad y.core y.asid (at_ j).pa) s
      let s := s.modLaunch l fun y => { y with pounds := y.pounds.put k { p with head := p.head + 1 } }
      let s := if n = y.role then (s.liveSlices g).foldl (fun s k => s.drainRegs g k [4, 5, 6, 7]) s else s
      let s := s.acquire y.core (dieOfCore y.core) g
      if n = y.role then (s.sameRole g).putItem g item
      else s.modGang g fun y => { y with gwait := some ⟨n, item⟩ }
    | .ok _ => s
    | .error (e, va) =>
      let ks := s.liveSlices g
      let pc := (s.slice g (ks.headD 0)).pc
      let id := s.nextPark (dieOfCore y.core)
      let t := s.newPark g (ks.headD 0) pc.toNat 1 va e (lanesWord (ks.flatMap fun k => (List.range 4).map (4 * k + ·)))
      ks.foldl (fun t k => t.parkSlice g k pc (s.slice g k).next (s.slice g k).live [id] .lanes) t

/-- Whether every gang of a launch that has not ended waits for an item that none can take. -/
def closeDue (s : State) (l : Nat) : Bool :=
  let y := s.launch l
  let gs := s.gangs.filter fun (_, z) => z.launch == l
  gs != [] && decide (y.state = .placing) && decide (y.gangs ≤ y.placed) && y.ended + gs.length == y.gangs &&
    (gs.all fun (g, _) => (s.stageSince g).isSome) && !((s.imageOf l).roles.any fun r => s.eligible l r)

/-- End a gang as by `exit`: the release of its slices, then its end (R140, R254). -/
def dropGang (s : State) (g : Nat) : State :=
  let all := (s.gang g).slices.keys
  let w := (s.slice g ((s.liveSlices g).headD 0)).pc.toNat
  let s := s.releaseAll g w all
  (all.foldl (fun s k => s.lateFault g k) s).endGang g

end State

/-- R316. -/
def execStageItemTaken (g : Nat) (s : State) : Out := s.onlyIf (s.stageDue g) fun s => s.takeItem g

/-- R317: the pounds close, and every gang ends. -/
def execPoundClose (l : Nat) (s : State) : Out :=
  s.onlyIf (s.closeDue l) fun s =>
    let gs := (s.gangs.filter fun (_, z) => z.launch == l).map Prod.fst
    (gs.foldl (fun s g => s.dropGang g) s).modLaunch l fun y => { y with pounds := y.pounds.mapAll fun _ p => { p with closed := true } }

/-! ### The end of a launch (R302, R326) -/

namespace State

/-- Every gang of a launch has ended. -/
def allEnded (s : State) (l : Nat) : Bool :=
  let y := s.launch l
  decide (y.state = .placing) && decide (y.gangs ≤ y.placed) && y.ended == y.gangs

/-- A launch that has ended and may make its DONE write: every earlier launch of its sluice has made its own. -/
def doneDue (s : State) (l : Nat) : Bool :=
  let y := s.launch l
  s.isOver l && !y.reported && y.park.isNone &&
    match y.source with
    | .sluice q _ => ((s.sluice q).launches.takeWhile fun j => j != l).all fun j => (s.launch j).reported
    | _ => true

/-- The gangs of a launch that stand at a stop that cannot be resumed. -/
def brokenGangs (s : State) (l : Nat) : List Nat :=
  (s.gangs.filter fun (_, z) => z.launch == l && z.stop.any fun t => !resumable t.reason).map Prod.fst

/-- System software ends the gangs that cannot be resumed (R302): the launch reports a context fault, a step of the Lock the
stop of the gang (R356). -/
def endBroken (s : State) (l : Nat) : State :=
  let step : Bool := match (s.launch l).source with | .lock _ => true | _ => false
  (s.brokenGangs l).foldl (fun s g =>
    let y := s.gang g
    let r := (y.stop.map Stop.reason).getD 0
    (s.dropGang g).modLaunch l fun x =>
      if step then { x with late := x.late.put y.index (0x80000100 + r) } else { x with code := if x.code = 0 then 4 else x.code }) s

/-- Whether a launch ends by itself. -/
def endDue (s : State) (l : Nat) : Bool := s.allEnded l || s.doneDue l

end State

/-- R326; where gangs stand at stops that cannot be resumed, system software ends them (R302). -/
def execLaunchEnd (l : Nat) (s : State) : Out :=
  .next (if s.allEnded l then s.finishLaunch l (s.launch l).code
         else if s.doneDue l then s.report l
         else s.endBroken l)

end Sys2Proof.Machine
end

