-- ==== Sys2Proof/Machine/EvSluice.lean ====
section
/-! DEFINITION. Sluices, their packets, rotation, armed launches (R321–R323, R325, R327, R328). -/

namespace Sys2Proof.Machine

/-! ### Packets (Table 13-6) -/

/-- A sluice packet. -/
structure Packet6 where
  kind : Nat
  waitSem : Bool
  ordered : Bool
  cond : Nat
  grid : Nat
  image : Nat
  sem : Nat
  operand : Nat
  doneVa : Nat
  doneVal : Nat
  buffer : Nat
  tag : Nat
  slotShift : Nat
  slotsShift : Nat
  seg : Nat

def Packet6.ofBytes (b : List Byte) : Packet6 :=
  { kind := recNat b 0 1, waitSem := bitOf (recNat b 1 1) 0, ordered := bitOf (recNat b 1 1) 1, cond := recNat b 2 1,
    grid := recNat b 4 4, image := recNat b 8 8, sem := recNat b 16 8, operand := recNat b 24 8, doneVa := recNat b 32 8,
    doneVal := recNat b 40 8, buffer := recNat b 48 8, tag := recNat b 56 4, slotShift := recNat b 60 1,
    slotsShift := recNat b 61 1, seg := recNat b 62 1 }

/-- Whether a packet waits for its semaphore. -/
def Packet6.waits (p : Packet6) : Bool := p.kind == 2 || (p.kind == 1 && p.waitSem)

/-- Whether a packet is well formed: its kind, condition and flags defined, its fields within limits and aligned, every
field that its kind leaves zero (R322). -/
def packetOk (b : List Byte) : Bool :=
  let p := Packet6.ofBytes b
  let arm := zeroAt b 48 16
  (match p.kind with
    | 1 => decide (recNat b 1 1 < 4) && (p.waitSem || zeroAt b 16 16) && arm
    | 2 => recNat b 1 1 == 0 && zeroAt b 4 12 && zeroAt b 32 16 && arm
    | 3 => (recNat b 1 1 == 0 || recNat b 1 1 == 2) && zeroAt b 4 12 && zeroAt b 32 16 && arm
    | 4 => recNat b 1 1 == 0 && zeroAt b 4 4 && zeroAt b 16 16 && p.buffer % 64 == 0 && decide (6 ≤ p.slotShift) &&
             decide (p.slotShift ≤ 13) && decide (p.slotsShift ≤ 12) && decide (p.seg ≤ 3) && zeroAt b 63 1
    | 5 => recNat b 1 1 == 0 && zeroAt b 4 52 && zeroAt b 60 4
    | _ => false) &&
    decide (p.cond ≤ 3) && (p.waits || p.cond == 0) && zeroAt b 3 1 && p.sem % 8 == 0 && p.doneVa % 8 == 0

/-- COND of Table 13-6. -/
def condHolds (c v o : Nat) : Bool :=
  match c with | 0 => decide (o ≤ v) | 1 => v == o | 2 => v != o | _ => decide (v < o)

/-- A packet that waits no more for its semaphore. -/
def passed (b : List Byte) : List Byte := (b.set 1 (BitVec.ofNat 8 (recNat b 1 1 / 2 * 2))).set 2 0

namespace State

/-- The context of a sluice. -/
def sluiceAsid (s : State) (q : Nat) : Nat := (s.sluice q).ctx.toNat % 2 ^ 16

/-- The packet at HEAD as memory holds it; none where the ring's settings are out of limits or it does not translate. -/
def fetchPacket (s : State) (q : Nat) : Option (List Byte) :=
  let x := s.sluice q
  if !powerIn x.size.toNat 16 65536 || x.base.toNat % 64 != 0 then none
  else match s.unitRead (s.sluiceAsid q) (x.base.toNat + 64 * (x.head.toNat % x.size.toNat)) 64 with
    | .ok b => some b
    | .error _ => none

/-- Whether a sluice processes packets. -/
def sluiceRuns (s : State) (q : Nat) : Bool :=
  let x := s.sluice q
  s.security.booted && x.mapped && x.error.isNone && !x.blocked && x.park.isNone && (x.held.isSome || x.head != x.tail)

/-- The packet a sluice processes next: one it holds has been checked, one it fetches is checked now. -/
def nextPacket (s : State) (q : Nat) : Option (List Byte) :=
  (s.sluice q).held.or ((s.fetchPacket q).filter packetOk)

/-- Its kind; 0 for a packet that R322 refuses. -/
def packetKind (s : State) (q : Nat) : Nat := ((s.nextPacket q).map fun b => (Packet6.ofBytes b).kind).getD 0

/-- Set ERROR (Table 13-5). -/
def sluiceError (s : State) (q code : Nat) : State := s.modSluice q fun x => { x with error := some code, blocked := false, blockCyc := 0, held := none }

/-- Go on to the next packet. -/
def nextOf (s : State) (q : Nat) : State :=
  s.modSluice q fun x => { x with head := x.head + 1, held := none, blocked := false, blockCyc := 0 }

/-- The semaphore word of a packet at its home. -/
def semWord (s : State) (q : Nat) (p : Packet6) : Option Nat :=
  match s.unitXlat (s.sluiceAsid q) p.sem .read with
  | .ok x => some (s.homeRead x.pa x.kid 8)
  | .error _ => none

/-- Eight bytes at a place after a write has reached its home: the write's key, its bytes, its value. -/
def wordAfter (pa v : Nat) (w : Nat × Nat × Nat) : Nat :=
  leNat ((List.range 8).map fun j =>
    if w.1 ≤ pa + j ∧ pa + j < w.1 + w.2.1 then BitVec.ofNat 8 (w.2.2 / 2 ^ (8 * (pa + j - w.1))) else BitVec.ofNat 8 (v / 2 ^ (8 * j)))

/-- The values that the semaphore word of a held packet has had at its home since it was tested, one for each write (R323). -/
def semValues (s : State) (q : Nat) (p : Packet6) : List Nat :=
  match s.unitXlat (s.sluiceAsid q) p.sem .read with
  | .error _ => []
  | .ok x =>
    let new := (s.co.take (s.co.length - (s.sluice q).seen)).reverse
    (new.foldl (fun (v, vs) w => let v' := wordAfter x.pa v w; (v', v' :: vs)) ((s.sluice q).semVal, [s.homeRead x.pa x.kid 8])).2

/-- Whether every earlier launch of a sluice has completed. -/
def launchesOver (s : State) (q : Nat) : Bool := (s.sluice q).launches.all fun l => s.isOver l

/-- Whether the packet at HEAD may be processed, its semaphore apart: an ORDERED one follows every earlier launch. -/
def packetDue (s : State) (q kind : Nat) : Bool :=
  s.sluiceRuns q && s.packetKind q == kind &&
    match s.nextPacket q with
    | some b => let p := Packet6.ofBytes b; p.waits || !p.ordered || s.launchesOver q
    | none => true

/-- Hold a packet until its semaphore's condition holds, or go on with it. -/
def holdPacket (s : State) (q : Nat) (b : List Byte) (go : State → State) : State :=
  let p := Packet6.ofBytes b
  match s.semWord q p with
  | none => s.sluiceError q 2
  | some v => if condHolds p.cond v p.operand then go s
              else s.modSluice q fun x =>
                { x with held := some b, blocked := true, blockCyc := 0, seen := s.co.length, semVal := v }

/-- Queue the launch of a packet (R323). -/
def queueLaunch (s : State) (q : Nat) (p : Packet6) : State :=
  let l := s.launchNo
  let x := s.sluice q
  let y : Launch :=
    { Launch.blank with
      asid := s.sluiceAsid q, reach := s.ctxReach (s.sluiceAsid q), source := .sluice q x.seq, image := p.image, grid := p.grid,
      state := .queued, doneVa := p.doneVa, doneVal := BitVec.ofNat 64 p.doneVal, reported := false }
  let s := s.newLaunch y
  { (s.modSluice q fun x => { x with launches := x.launches ++ [l], seq := x.seq + 1 }) with queue := s.queue ++ [l] }.nextOf q

/-- Go on with a LAUNCH packet whose semaphore holds: queue it, or hold it behind the earlier launches. -/
def goLaunch (s : State) (q : Nat) (b : List Byte) : State :=
  let p := Packet6.ofBytes b
  if p.ordered && !s.launchesOver q then
    s.modSluice q fun x => { x with held := some (passed b), blocked := false, blockCyc := 0 }
  else s.queueLaunch q p

end State

/-- R321: a write of TAIL. -/
def execSluiceDoorbell (q tail : Nat) (s : State) : Out :=
  s.onlyIf (s.security.booted && decide (q < 64)) fun s => s.modSluice q fun x => { x with tail := BitVec.ofNat 32 tail }

/-- R323; a packet that R322 refuses sets ERROR with code 2. -/
def execSluiceLaunch (q : Nat) (s : State) : Out :=
  s.onlyIf (s.packetDue q 1 || s.packetDue q 0) fun s =>
    match s.nextPacket q with
    | none => s.sluiceError q 2
    | some b => if (Packet6.ofBytes b).waits then s.holdPacket q b fun s => s.goLaunch q b else s.goLaunch q b

/-- R323. -/
def execSluiceWait (q : Nat) (s : State) : Out :=
  s.onlyIf (s.packetDue q 2) fun s =>
    match s.nextPacket q with
    | none => s
    | some b => s.holdPacket q b fun s => s.nextOf q

/-- R323. -/
def execSluiceSignal (q : Nat) (s : State) : Out :=
  s.onlyIf (s.packetDue q 3) fun s =>
    match s.nextPacket q with
    | none => s
    | some b =>
      let p := Packet6.ofBytes b
      match s.unitXlat (s.sluiceAsid q) p.sem .write with
      | .error _ => s.sluiceError q 2
      | .ok x => (s.engineWrite 0 x.pa x.kid 8 p.operand).nextOf q

/-! ### Armed launches (R327) -/

namespace State

/-- The armed launch of a tag. -/
def armedOf (s : State) (asid tag : Nat) : Option Armed := (s.ctx asid).armed.find? fun a => a.tag == tag

/-- An ARM whose image is refused reports the code at DONE as a refused launch does, in packet order (R326). -/
def refuseArm (s : State) (q code : Nat) (p : Packet6) : State :=
  let l := s.launchNo
  let a := s.sluiceAsid q
  let y : Launch :=
    { Launch.blank with
      asid := a, reach := s.ctxReach a, source := .sluice q (s.sluice q).seq, image := p.image, state := .finished code,
      doneVa := p.doneVa, doneVal := BitVec.ofNat 64 p.doneVal, reported := false }
  (((s.newLaunch y).modSluice q fun x => { x with launches := x.launches ++ [l], seq := x.seq + 1 }).nextOf q).report l

/-- Whether the armed buffer lies wholly inside its segment. -/
def bufferFits (m : Image) (p : Packet6) : Bool :=
  decide ((m.seg p.seg).1 ≤ p.buffer) && decide (p.buffer + 2 ^ (p.slotShift + p.slotsShift) ≤ (m.seg p.seg).1 + (m.seg p.seg).2)

/-- ARM. -/
def armPacket (s : State) (q : Nat) (p : Packet6) : State :=
  let a := s.sluiceAsid q
  if (s.armedOf a p.tag).isSome then s.sluiceError q 3
  else if !s.ctxValid a then s.refuseArm q 4 p
  else match s.readImage a p.image 0 false with
    | .error (e, va) =>
      let (s, id) := s.unitFault 0 a 0 e va
      s.modSluice q fun x => { x with park := some id }
    | .ok (.error c) => s.refuseArm q c p
    | .ok (.ok m) =>
      if !bufferFits m p then s.refuseArm q 1 p
      else
        let r : Armed :=
          { key := s.launchNo, tag := p.tag, image := p.image, buffer := p.buffer, slotShift := p.slotShift, slots := 2 ^ p.slotsShift,
            seg := p.seg, doneVa := p.doneVa, doneVal := BitVec.ofNat 64 p.doneVal, busy := [], reach := s.ctxReach a, img := m }
        { s.modCtx a fun c => { c with armed := c.armed ++ [r] } with launchNo := s.launchNo + 1 }.nextOf q

end State

/-- R327. -/
def execSluiceArm (q : Nat) (s : State) : Out :=
  s.onlyIf (s.packetDue q 4) fun s =>
    match s.nextPacket q with
    | none => s
    | some b => s.armPacket q (Packet6.ofBytes b)

/-- R327: launches already fired go on. -/
def execSluiceDisarm (q : Nat) (s : State) : Out :=
  s.onlyIf (s.packetDue q 5) fun s =>
    match s.nextPacket q with
    | none => s
    | some b =>
      (s.modCtx (s.sluiceAsid q) fun c => { c with armed := c.armed.filter fun a => a.tag != (Packet6.ofBytes b).tag }).nextOf q

/-! ### Semaphores, errors, rotation (R322, R323, R325) -/

/-- Whether a blocked sluice's condition holds, or held after a write that reached the word's home; a semaphore that no longer
translates ends the wait with an error (log 47). -/
def State.retestDue (s : State) (q : Nat) : Bool :=
  let x := s.sluice q
  x.mapped && x.blocked && x.error.isNone &&
    match x.held with
    | some b =>
      let p := Packet6.ofBytes b
      (s.semWord q p).isNone || (s.semValues q p).any fun v => condHolds p.cond v p.operand
    | none => false

/-- R323: the packet whose semaphore's condition has held goes on. -/
def execSemaphoreRetest (q : Nat) (s : State) : Out :=
  s.onlyIf (s.retestDue q) fun s =>
    match (s.sluice q).held with
    | none => s
    | some b =>
      let p := Packet6.ofBytes b
      if (s.semWord q p).isNone then s.sluiceError q 2
      else if p.kind = 2 then s.nextOf q else s.goLaunch q b

/-- R322: the packet at HEAD is processed again. -/
def execSluiceErrorClear (q : Nat) (s : State) : Out :=
  s.onlyIf (s.security.booted && (s.sluice q).error.isSome) fun s => s.modSluice q fun x => { x with error := none }

/-- Whether the rotation interrupt is due. -/
def State.rotationDue (s : State) : Bool :=
  let xs := s.sluices.filter fun (_, x) => x.mapped
  s.rotate != 0 && s.unmapped != 0 && !s.rotStat && xs != [] && xs.all fun (_, x) => x.blocked && decide (s.rotate.toNat < x.blockCyc.toNat)

/-- R325. -/
def execRotationInterrupt (s : State) : Out := s.onlyIf s.rotationDue fun s => { s.interrupt 1 with rotStat := true }

/-- R321, R325: an unmapped sluice keeps HEAD and its blocked packet, whose semaphore is tested anew when it is mapped. -/
def execSluiceMap (q : Nat) (mapped : Bool) (s : State) : Out :=
  s.onlyIf (s.security.booted && decide (q < 64)) fun s =>
    let now := ((s.sluice q).held.bind fun b => s.semWord q (Packet6.ofBytes b)).getD 0
    s.modSluice q fun x => if x.mapped = mapped then x else { x with mapped := mapped, seen := s.co.length, semVal := now }

/-! ### Messages (R328) -/

namespace State

/-- The lowest free slot of an armed launch. -/
def freeSlotOf (a : Armed) : Option Nat := (List.range a.slots).find? fun k => !a.busy.contains k

/-- Whether a message fires a launch. -/
def messageFires (s : State) (asid tag n : Nat) : Bool :=
  (s.armedOf asid tag).any fun a => decide (n ≤ 2 ^ a.slotShift) && (freeSlotOf a).isSome

/-- FIRE an armed launch with a payload: its launch is queued (R324), and the message acknowledged to its source. A slot that does not translate leaves a
fault record, and the message waits for the transport to bring it again. -/
def fireLaunch (s : State) (asid tag source : Nat) (payload : List Byte) : State :=
  match s.armedOf asid tag with
  | none => s
  | some a =>
    match freeSlotOf a with
    | none => s
    | some k =>
      let n := 2 ^ a.slotShift
      let at_ := a.buffer + n * k
      match s.unitWrite asid at_ (payload ++ List.replicate (n - payload.length) 0) with
      | .error (e, va) => (s.unitFault 0 asid 0 e va).1
      | .ok s =>
        let l := s.launchNo
        let y : Launch :=
          { Launch.blank with
            asid := asid, reach := s.ctxReach asid, source := .armed a.key k, image := a.image, img := some a.img, state := .queued, doneVa := a.doneVa,
            doneVal := a.doneVal, offset := some (at_ - (a.img.seg a.seg).1), reported := false }
        let s := (s.newLaunch y).modCtx asid fun c =>
          { c with armed := c.armed.map fun b => if b.key = a.key then { b with busy := addSorted b.busy k } else b }
        { s with sent := s.sent ++ [(source, leBytes 4 tag)], queue := s.queue ++ [l] }

end State

/-- R328: a message whose tag is not armed, that finds no free slot or is too large is not taken. -/
def execMessageArrival (asid tag source : Nat) (payload : List (BitVec 8)) (s : State) : Out :=
  s.onlyIf (s.messageFires asid tag payload.length) fun s => s.fireLaunch asid tag source payload

end Sys2Proof.Machine
end

