-- ==== Sys2Proof/Machine/Manifest.lean ====
section
/-! DEFINITION. Manifest words (R196–R200, R243, R244, R349): their place, their checks, the pool of hold pages. -/

namespace Sys2Proof.Machine

/-! ### The pool (R199, R348) -/

/-- Page number `n` of those that a rising list leaves out. -/
def nthLeft (n : Nat) : List Nat → Nat
  | [] => n
  | j :: r => if n < j then n else nthLeft (n + 1) r

/-- Free pages of a Lock's pool. -/
def Lock.free (x : Lock) : Nat := x.pages - x.out.length

/-- Return a page to the pool. -/
def Lock.give (x : Lock) (p : Nat) : Lock := { x with out := x.out.filter fun q => decide (q ≠ p) }

/-- ⌈MAX_POS / PAGE_TOKENS⌉ and the like; a zero divisor gives none. -/
def pagesFor (tokens per : Nat) : Nat := ceilDiv tokens per

/-! ### Fields (Tables 15-2, 15-3) -/

def stOf (v : Nat) : Nat := bitsOf v 0 4

/-- STATE after `.finish` with a reason, and after `.fault`. -/
def finishState (v reason : Nat) : Nat := v / 2 ^ 24 * 2 ^ 24 + reason % 256 * 2 ^ 16 + bitsOf v 14 2 * 2 ^ 14 + 2 ^ 13 + bitsOf v 4 9 * 2 ^ 4 + 4
def setSt (v st : Nat) : Nat := v / 16 * 16 + st

/-- Fields that user mode writes (R198). -/
def userField (id : Nat) : Bool := id == 2 || id == 11 || id == 18 || (decide (32 ≤ id) && decide (id ≤ 47))

/-- Why a lane of a manifest word does not perform: a trap with its place in the order of R198, or a fault of translation. -/
inductive MfStop where
  | trap (cond cause info : Nat)
  | fault (e : XFail) (va : Nat)
  deriving DecidableEq, Repr

/-- A lane of a manifest word: the state after it, its result and whether that carries an uncorrectable error (R168). -/
abbrev MfLane := State → Nat → Except MfStop (State × Word × Bool)

/-- A field as `mfrd` reads it: the reserved bits of STATE read zero (R5, Table 15-3). -/
def fieldRead (id v : Nat) : Nat :=
  if id = 0 then v % 2 ^ 14 + bitsOf v 16 8 * 2 ^ 16 else v

namespace State

/-- The Lock whose setup names the manifest table of the issuing gang's context (R196, R348). -/
def myLock (s : State) : Option Lock :=
  let x := s.lock s.me.reach
  if x.served && x.asid == s.me.asid then some x else none

/-- Translate a place of the issuing gang. -/
def homeOf (s : State) (va : Nat) (use : Use) (l : Nat) : Except MfStop Place :=
  match s.translate (clusterOfCore s.me.core) s.me.asid s.me.reach va use (64 + l) with
  | .error e => .error (.fault e va)
  | .ok x => .ok ⟨x.pa, x.kid, x.policy, x.counted, va, s.me.asid⟩

/-- A word at its home (R244). -/
def homeWord (s : State) (p : Place) : Nat := s.homeRead p.pa p.kid 4

/-- Write a word at its home. -/
def putWord (s : State) (p : Place) (v : Nat) : State := s.homePut s.me.core s.cur.gang p 4 v

/-- A manifest word of a slice follows the entries of PEND that overlap a range it acts on, and any release (R242, R247). -/
def settleOver (s : State) (k pa n : Nat) : State :=
  if (s.sl k).pend.any fun q => decide (q.kind = .release) || overlap q.pa q.size pa n then s.drain s.cur.gang k else s

/-- The same for the manifest that holds a place. -/
def settleMf (s : State) (k : Nat) (p : Place) : State := s.settleOver k (p.pa / 256 * 256) 256

/-- The index a lane names, and the VA of its manifest (R196, R349). -/
def mfIndex (s : State) (a : BitVec 6) (l : Nat) : Except MfStop (Nat × Nat) := do
  let i := (s.V a.toNat l).toNat
  match s.myLock with
  | none => .error (.trap 0 0x19 i)
  | some x =>
    let r := x.record.toNat / 64 * 64
    let t ← s.homeOf r .read l
    let n ← s.homeOf (r + 8) .read l
    if s.homeWord n ≤ i then .error (.trap 0 0x19 i)
    else .ok (i, s.homeRead t.pa t.kid 8 + 256 * i)

/-- A field's place. -/
def mfField (s : State) (at_ id : Nat) (use : Use) (l : Nat) : Except MfStop Place := s.homeOf (at_ + 4 * id) use l

/-- One lane of `mfrd` (R197). -/
def mfRead (a : BitVec 6) (id : Nat) : MfLane := fun s l => do
  let (_, m) ← s.mfIndex a l
  let p ← s.mfField m id .read l
  let s := s.settleMf (l / 4) p
  let bad := s.poisoned p.pa 4
  let v := if bad then Config.poisonedValue else fieldRead id (s.homeWord p)
  .ok (if bad then s.noteBad s.me.core s.me.asid p.pa else s, BitVec.ofNat 32 v, bad)

/-- One lane of `mfwr` (R198). -/
def mfWrite (d a : BitVec 6) (id : Nat) : MfLane := fun s l => do
  let (i, m) ← s.mfIndex a l
  let v := (s.V d.toNat l).toNat
  if !s.me.system && !userField id then .error (.trap 1 0x1A id)
  else
    let p ← s.mfField m id .write l
    let s := s.settleMf (l / 4) p
    if s.me.system then .ok (s.putWord p v, 0, false)
    else
      let st ← s.mfField m 0 .read l
      let top ← s.mfField m 4 .read l
      if stOf (s.homeWord st) ≠ 3 then .error (.trap 2 0x19 i)
      else if id = 2 ∧ (v < s.homeWord p ∨ s.homeWord top < v) then .error (.trap 3 0x19 i)
      else .ok (s.putWord p v, 0, false)

/-- The places of the fields that `append` and `rollback` use: STATE, POSITION, MAX_POS, PAGES, PAGE_TOKENS, PAGELIST. -/
def mfPlaces (s : State) (m l : Nat) : Except MfStop (List Place) :=
  [0, 2, 4, 6, 7, 8, 9].mapM fun id => s.mfField m id .write l

/-- The VA of PAGELIST. -/
def pageList (s : State) (ps : List Place) : Nat :=
  let w (i : Nat) : Nat := (ps[i]?.map s.homeWord).getD 0
  w 5 + w 6 * 2 ^ 32

/-- Change the Lock of the issuing gang's reach. -/
def modMyLock (s : State) (f : Lock → Lock) : State := s.modLock s.me.reach f

/-- One lane of `mfop.append` (R199): which free page it takes is a free choice (log 14). More pages than the limit fault as the limit
does (DESIGN CHOICE, log 65). -/
def mfAppend (a : BitVec 6) : MfLane := fun s l => do
  let (i, m) ← s.mfIndex a l
  let ps ← s.mfPlaces m l
  match ps with
  | [st, _, top, pages, per, _, _] =>
    let s := s.settleMf (l / 4) st
    let n := s.homeWord pages
    let x := s.lock s.me.reach
    if stOf (s.homeWord st) ≠ 3 ∨ s.homeWord per = 0 ∨ pagesFor (s.homeWord top) (s.homeWord per) ≤ n then
      .error (.trap 2 0x19 i)
    else if x.free = 0 then .ok (s, 0xFFFFFFFF, false)
    else
      let q ← s.homeOf (s.pageList ps + 4 * n) .write l
      let s := s.settleOver (l / 4) q.pa 4
      let page := nthLeft ((s.freeWord (2048 + l)).toNat % x.free) x.out
      let s := (s.putWord q page).putWord pages (n + 1)
      .ok (s.modMyLock fun x => { x with out := addSorted x.out page }, BitVec.ofNat 32 page, false)
  | _ => .ok (s, 0, false)

/-- One lane of `mfop.rollback` (R199). -/
def mfRollback (d a : BitVec 6) : MfLane := fun s l => do
  let (i, m) ← s.mfIndex a l
  let ps ← s.mfPlaces m l
  match ps with
  | [st, pos, _, pages, per, _, _] =>
    let s := s.settleMf (l / 4) st
    let v := (s.V d.toNat l).toNat
    let n := s.homeWord pages
    if stOf (s.homeWord st) ≠ 3 ∨ s.homeWord per = 0 ∨ s.homeWord pos < v then .error (.trap 2 0x19 i)
    else
      let k := pagesFor v (s.homeWord per)
      let at_ := s.pageList ps
      let qs ← (List.range (n - k)).mapM fun j => s.homeOf (at_ + 4 * (k + j)) .read l
      let s := qs.foldl (fun s q => s.settleOver (l / 4) q.pa 4) s
      let s := (s.modMyLock fun x => qs.foldl (fun x q => x.give (s.homeWord q)) x).putWord pages (min n k)
      .ok (s.putWord pos v, 0, false)
  | _ => .ok (s, 0, false)

/-- One lane of `mfop.finish` and `mfop.fault` (R199): the first to reach a manifest stands. -/
def mfEnd (d a : BitVec 6) (fault : Bool) : MfLane := fun s l => do
  let (i, m) ← s.mfIndex a l
  let st ← s.mfField m 0 .write l
  let f ← s.mfField m 14 .write l
  let s := s.settleMf (l / 4) st
  let v := (s.V d.toNat l).toNat
  let w := s.homeWord st
  if stOf w = 4 ∨ stOf w = 5 then .ok (s, 0, false)
  else if stOf w ≠ 3 then .error (.trap 2 0x19 i)
  else if fault then .ok ((s.putWord st (setSt w 5)).putWord f v, 0, false)
  else .ok (s.putWord st (finishState w v), 0, false)

/-- Perform lanes in ascending order (R167): the lanes that performed with their results, and those that did not. -/
def mfLanes (s : State) (f : MfLane) : List Nat → State × List (Nat × Word × Bool) × List (Nat × MfStop)
  | [] => (s, [], [])
  | l :: r =>
    match f s l with
    | .ok (s, w) => let (s, ok, bad) := s.mfLanes f r; (s, (l, w) :: ok, bad)
    | .error e => let (s, ok, bad) := s.mfLanes f r; (s, ok, (l, e) :: bad)

/-- The trap of a manifest word: the first condition in the order of R198, with the lanes that fail it. -/
def mfTrap (s : State) (g : BitVec 3) (f : MfLane) : Option TrapInfo :=
  let (_, _, bad) := s.mfLanes f (s.actLanes g)
  let traps := bad.filterMap fun (l, e) => match e with | .trap c k i => some (l, c, k, i) | .fault _ _ => none
  let first := traps.foldl (fun m t => min m t.2.1) 9
  let mine := traps.filter fun t => t.2.1 == first
  match mine with
  | [] => none
  | (_, _, c, _) :: _ =>
    s.trapLanes 7 c s.cur.widx (lanesOf (mine.map Prod.fst)) fun k =>
      (BitVec.ofNat 32 (((mine.find? fun t => t.1 / 4 == k).map fun t => t.2.2.2).getD 0), 0)

/-- PERFORM a manifest word; lanes whose places do not translate park: of `append` by Table 6-14, of the other words as the model chooses
(DESIGN CHOICE, log 69). -/
def mfAct (s : State) (g : BitVec 3) (kind : Nat) (f : MfLane) (put : State → List (Nat × Word × Bool) → State) : State :=
  let (t, ok, bad) := s.mfLanes f (s.actLanes g)
  (put t ok).parkLanes kind .lanes
    (bad.filterMap fun (l, e) => match e with | .fault e va => some ⟨l, va, .error e⟩ | .trap _ _ _ => none)

/-- Write the results of lanes to a register tagged U32. -/
def mfPut (d : BitVec 6) (s : State) (ok : List (Nat × Word × Bool)) : State :=
  s.cur.slices.foldl (fun s k =>
    (s.write k d.toNat (lanesOf (ok.map Prod.fst) k)
      (fun j => ((ok.find? fun x => x.1 == 4 * k + j).map fun x => x.2.1).getD 0) .u32).poisonReg k d.toNat
        (lanesOf ((ok.filter fun x => x.2.2).map Prod.fst) k)) s

/-- Clear the guard predicate of the lanes that found the pool empty (R199). -/
def clearGuard (g : BitVec 3) (s : State) (ok : List (Nat × Word × Bool)) : State :=
  let empty := (ok.filter fun x => x.2.1 == 0xFFFFFFFF).map Prod.fst
  s.cur.slices.foldl (fun s k => s.writeP g.toNat k (lanesOf empty k) fun _ => false) s

end State

/-- R197. -/
def execMfrd (h : Hdr) (d a i : BitVec 6) (s : State) : Out :=
  s.issueWord (.mfrd h d a i) (fun s => s.mfTrap h.guard (State.mfRead a i.toNat)) fun s =>
    s.mfAct h.guard 1 (State.mfRead a i.toNat) (State.mfPut d)

/-- R198. -/
def execMfwr (h : Hdr) (d a i : BitVec 6) (s : State) : Out :=
  s.issueWord (.mfwr h d a i) (fun s => s.mfTrap h.guard (State.mfWrite d a i.toNat)) fun s =>
    s.mfAct h.guard 2 (State.mfWrite d a i.toNat) fun s _ => s

/-- R199. -/
def execMfopAppend (h : Hdr) (d a : BitVec 6) (s : State) : Out :=
  s.issueWord (.mfopAppend h d a) (fun s => s.mfTrap h.guard (State.mfAppend a)) fun s =>
    s.mfAct h.guard 3 (State.mfAppend a) fun s ok => State.clearGuard h.guard (State.mfPut d s ok) ok

/-- R199. -/
def execMfopRollback (h : Hdr) (d a : BitVec 6) (s : State) : Out :=
  s.issueWord (.mfopRollback h d a) (fun s => s.mfTrap h.guard (State.mfRollback d a)) fun s =>
    s.mfAct h.guard 3 (State.mfRollback d a) fun s _ => s

/-- R199. -/
def execMfopFinish (h : Hdr) (d a : BitVec 6) (s : State) : Out :=
  s.issueWord (.mfopFinish h d a) (fun s => s.mfTrap h.guard (State.mfEnd d a false)) fun s =>
    s.mfAct h.guard 3 (State.mfEnd d a false) fun s _ => s

/-- R199. -/
def execMfopFault (h : Hdr) (d a : BitVec 6) (s : State) : Out :=
  s.issueWord (.mfopFault h d a) (fun s => s.mfTrap h.guard (State.mfEnd d a true)) fun s =>
    s.mfAct h.guard 3 (State.mfEnd d a true) fun s _ => s

end Sys2Proof.Machine
end

