-- ==== Sys2Proof/Machine/EvLock.lean ====
section
/-! DEFINITION. The Lock: its setup, its stages, the step it pushes (R348–R359, R408, R411). A stage is one event; where an access
faults or the completion ring is full, the Lock waits there with what the stage has done, and goes on from that access. -/

namespace Sys2Proof.Machine

/-- A setup record (Table 15-1). -/
structure Setup where
  table : Nat
  manifests : Nat
  berths : Nat
  berthTable : Nat
  image : Nat
  pool : Nat
  subRing : Nat
  compRing : Nat
  entries : Nat
  subTail : Nat
  subHead : Nat
  cTail : Nat
  cHead : Nat

def Setup.ofBytes (r : List Byte) : Setup :=
  { table := recNat r 0 8, manifests := recNat r 8 4, berths := recNat r 12 2, berthTable := recNat r 16 8, image := recNat r 24 8,
    pool := recNat r 40 4, subRing := recNat r 48 8, compRing := recNat r 56 8, entries := recNat r 64 4, subTail := recNat r 0x44 4,
    subHead := recNat r 0x48 4, cTail := recNat r 0x4C 4, cHead := recNat r 0x50 4 }

/-- The limits of Table 15-1. -/
def setupOk (r : List Byte) : Bool :=
  let u := Setup.ofBytes r
  u.table % 256 == 0 && decide (1 ≤ u.manifests) && decide (u.manifests ≤ 16384) && decide (1 ≤ u.berths) &&
    decide (u.berths ≤ 2048) && zeroAt r 14 2 && u.berthTable % 16 == 0 && recNat r 32 8 % 2 ^ 14 == 0 && decide (1 ≤ u.pool) &&
    decide (u.pool ≤ 2 ^ 26) && zeroAt r 44 4 && u.subRing % 4 == 0 && u.compRing % 4 == 0 && powerIn u.entries 16 65536 &&
    zeroAt r 0x54 44

/-! ### Accesses (R359, R408) -/

/-- Why a stage waits before its end: an access that faults, or a full completion ring. -/
inductive LockStop where
  | fault (e : XFail) (va : Nat)
  | full

/-- A stage under way: the state, what its accesses gave before it waited and have still to give again, and what all have given. -/
structure LockRun where
  st : State
  past : List (List Nat)
  done : List (List Nat)

/-- A stage of the Lock. -/
abbrev LockM := EStateM LockStop LockRun

namespace State

/-- The VA of a Lock's setup record. -/
def lockRecord (s : State) (r : Nat) : Nat := (s.lock r).record.toNat / 64 * 64

/-- The die that holds a setup record: as the enable found it (R348), else as the record translates now, die 0 where it does not (log 50). -/
def lockDie (s : State) (r : Nat) : Nat :=
  match (s.lock r).home with
  | some (d, _, _) => d
  | none => match s.unitXlat (s.lock r).asid (s.lockRecord r) .read with
  | .ok x => s.homeDie (keyAddr x.pa)
  | .error _ => 0

/-- The Lock waits at an access, under a fault record of the die that holds its record. -/
def lockFault (s : State) (r : Nat) (e : XFail) (va : Nat) : State :=
  let d := s.lockDie r
  let (s, id) := s.unitFault d (s.lock r).asid 0 e va
  s.modLock r fun x => { x with park := some id, parkDie := d }

/-- The place of an access of a Lock. -/
def lockPlace (s : State) (r va : Nat) (use : Use) : Except LockStop Xlat :=
  match s.unitXlat (s.lock r).asid va use with
  | .ok x => .ok x
  | .error e => .error (.fault e va)

/-- The setup record of a Lock. -/
def lockSetup (s : State) (r : Nat) : Except LockStop (List Byte) :=
  match s.unitRead (s.lock r).asid (s.lockRecord r) 128 with
  | .ok b => .ok b
  | .error (e, va) => .error (.fault e va)

/-- Whether the completion ring of a Lock is full. -/
def lockFull (s : State) (r : Nat) : Except LockStop Bool :=
  (s.lockSetup r).map fun b =>
    let u := Setup.ofBytes b
    decide (u.entries ≤ ((s.lock r).cTail + 2 ^ 32 - u.cHead) % 2 ^ 32)

end State

namespace LockM

/-- ONE ACTION of a stage, with what it gives: taken once, and passed over where a stage that waited comes to it again (R408). -/
def act (f : State → Except LockStop (State × List Nat)) : LockM (List Nat) := do
  let x ← get
  match x.past with
  | v :: r => do
    set ({ x with past := r, done := x.done ++ [v] } : LockRun)
    pure v
  | [] =>
    match f x.st with
    | .error e => throw e
    | .ok (t, v) => do
      set ({ x with st := t, done := x.done ++ [v] } : LockRun)
      pure v

/-- What the state shows. -/
def see (f : State → List Nat) : LockM (List Nat) := act fun s => .ok (s, f s)
def seeOne (f : State → Nat) : LockM Nat := do
  let v ← see fun s => [f s]
  pure (v.headD 0)

/-- Change the state, or the Lock. -/
def change (f : State → State) : LockM Unit := do
  let _ ← act fun s => .ok (f s, [])
  pure ()
def mod (r : Nat) (f : Lock → Lock) : LockM Unit := change fun s => s.modLock r f

/-- Read a u32. -/
def word (r va : Nat) : LockM Nat := do
  let v ← act fun s => (s.lockPlace r va .read).map fun x => (s, [s.homeRead x.pa x.kid 4])
  pure (v.headD 0)

/-- Write a u32. -/
def put (r va v : Nat) : LockM Unit := do
  let _ ← act fun s => (s.lockPlace r va .write).map fun x => (s.engineWrite 0 x.pa x.kid 4 (v % 2 ^ 32), [])
  pure ()

/-- The setup record as it stands. -/
def setup (r : Nat) : LockM Setup := do
  let b ← act fun s => (s.lockSetup r).map fun b => (s, b.map BitVec.toNat)
  pure (Setup.ofBytes (b.map (BitVec.ofNat 8)))

/-- A word of the setup record. -/
def setReg (r off v : Nat) : LockM Unit := do
  let at_ ← seeOne fun s => s.lockRecord r
  put r (at_ + off) v

/-! ### Manifests (R349) -/

/-- A field of a manifest. -/
def field (r i id : Nat) : LockM Nat := do
  let u ← setup r
  word r (u.table + 256 * i + 4 * id)
def setField (r i id v : Nat) : LockM Unit := do
  let u ← setup r
  put r (u.table + 256 * i + 4 * id) v

def st (r i : Nat) : LockM Nat := do
  let v ← field r i 0
  pure (stOf v)

/-- Set ST of a manifest, its other bits changed by `f`. -/
def setState (r i st : Nat) (f : Nat → Nat) : LockM Unit := do
  let v ← field r i 0
  setField r i 0 (setSt (f v) st)

/-- A request becomes FAULTED (Table 15-4). -/
def fault (r i code : Nat) : LockM Unit := do
  setState r i 5 id
  setField r i 14 code

/-- The requests the Lock holds as taken. -/
def taken (r : Nat) : LockM (List Nat) := see fun s => (s.lock r).taken.keys
def holdsTaken (r i : Nat) : LockM Bool := do
  let is ← taken r
  pure (is.contains i)

/-- Those of some requests that are in one of some states. -/
def inState (r : Nat) (ss : List Nat) : List Nat → LockM (List Nat)
  | [] => pure []
  | i :: is => do
    let v ← st r i
    let rest ← inState r ss is
    pure (if ss.contains v then i :: rest else rest)

/-- The pages a request needs when a step starts (R352). -/
def need (r i : Nat) : LockM Nat := do
  let pos ← field r i 2
  let prompt ← field r i 3
  let top ← field r i 4
  let per ← field r i 7
  let draft ← field r i 10
  pure (min (pagesFor (max pos prompt + draft + 1) per) (pagesFor top per))

/-- The VA of a request's page list. -/
def pageListOf (r i : Nat) : LockM Nat := do
  let lo ← field r i 8
  let hi ← field r i 9
  pure (lo + hi * 2 ^ 32)

/-- A request gives back its pages and its berth. -/
def giveUp (r i : Nat) : LockM Unit := do
  let n ← field r i 6
  let at_ ← pageListOf r i
  let ps ← (List.range n).mapM fun k => word r (at_ + 4 * k)
  setField r i 1 0xFFFFFFFF
  mod r fun x => ps.foldl Lock.give x
  setField r i 6 0

/-- Take a page of the pool: which one is a free choice (log 14). -/
def takePage (r : Nat) : LockM Nat := do
  let v ← act fun s =>
    let y := s.lock r
    let p := nthLeft ((s.freeWord 6).toNat % max y.free 1) y.out
    .ok (s.renew.modLock r fun y => { y with out := addSorted y.out p }, [p])
  pure (v.headD 0)

/-- Give a request `k` pages of the pool. -/
def topUp (r i k : Nat) : LockM Unit := do
  let n ← field r i 6
  let at_ ← pageListOf r i
  (List.range k).forM fun j => do
    let p ← takePage r
    put r (at_ + 4 * (n + j)) p
  if k ≠ 0 then setField r i 6 (n + k)

/-- The free pages of the pool. -/
def free (r : Nat) : LockM Nat := seeOne fun s => (s.lock r).free

/-! ### The retire stage (R350, R352, R356) -/

/-- The request that a gang of a step served, with its failure. -/
def stepFault (l : Launch) (x : Nat × Nat) : List Nat :=
  match l.berths[x.1]? with
  | none => []
  | some (_, i, _) => [i, x.2]

/-- Faults given as (request, code), one after the other. -/
def faultAll (r : Nat) : List Nat → LockM Unit
  | i :: code :: rest => do
    fault r i code
    faultAll r rest
  | _ => pure ()

/-- Step 1: the faults of the last step's gangs. -/
def stepFaults (r : Nat) : LockM Unit := do
  let fs ← see fun s => match (s.lock r).launch with
    | none => []
    | some l => (s.launch l).late.flatMap (stepFault (s.launch l))
  faultAll r fs
  mod r fun x => { x with launch := none }

/-- Step 2: requests that reached their last position. -/
def atEnd (r i : Nat) : LockM Unit := do
  let v ← field r i 0
  let pos ← field r i 2
  let top ← field r i 4
  if stOf v = 3 ∧ pos = top then setField r i 0 (finishState v 0xFE) else pure ()

/-- The limits of Table 15-2 at submission. -/
def limits (r i : Nat) (u : Setup) : LockM Bool := do
  let berth ← field r i 1
  let prompt ← field r i 3
  let top ← field r i 4
  let per ← field r i 7
  let lo ← field r i 8
  let draft ← field r i 10
  pure ((decide (berth < u.berths) || berth == 0xFFFFFFFF) && decide (1 ≤ prompt) && decide (prompt ≤ top) && decide (1 ≤ top) &&
    decide (top ≤ 2 ^ 24) && decide (1 ≤ per) && decide (per ≤ 16384) && lo % 4 == 0 && decide (draft ≤ 64))

/-- Skip a ring entry. -/
def skip (r : Nat) : LockM Unit := mod r fun x => { x with skipped := min (x.skipped + 1) 0xFFFF }

/-- Act on one ring entry (R350). -/
def entry (r e : Nat) (u : Setup) : LockM Unit := do
  if bitOf e 31 then
    let i := e % 2 ^ 14
    if bitsOf e 14 17 ≠ 0 ∨ u.manifests ≤ i then skip r
    else
      let v ← st r i
      let held ← holdsTaken r i
      if v = 0 ∨ (v = 1 ∧ !held) then skip r
      else if held && [1, 2, 3].contains v then fault r i 0x80000010
      else pure ()
  else
    let held ← holdsTaken r e
    if u.manifests ≤ e ∨ held then skip r
    else
      let v ← st r e
      if v ≠ 1 then skip r
      else
        let good ← limits r e u
        mod r fun x => { x with taken := x.taken.put e x.submissions, submissions := x.submissions + 1 }
        if good then pure () else fault r e 0x80000002

/-- Step 4: ring entries from SUBHEAD, `n` of them. -/
def entries (r : Nat) (u : Setup) : Nat → LockM Unit
  | 0 => pure ()
  | n + 1 => do
    let head ← seeOne fun s => (s.lock r).subHead
    let e ← word r (u.subRing + 4 * (head % max u.entries 1))
    entry r e u
    mod r fun x => { x with subHead := (head + 1) % 2 ^ 32 }
    setReg r 0x48 (head + 1)
    entries r u n

/-- Step 5: a request that the pool can never hold. -/
def tooLarge (r i : Nat) (u : Setup) : LockM Unit := do
  let v ← st r i
  let n ← need r i
  if (v = 1 ∨ v = 3) ∧ u.pool < n then fault r i 0x80000001 else pure ()

/-- Wait for room in the completion ring (R356). -/
def room (r : Nat) : LockM Unit := do
  let _ ← act fun s => (s.lockFull r).bind fun full =>
    if full then .error .full else .ok (s.modLock r fun x => { x with waiting := false }, [])
  pure ()

/-- Step 6: report some requests, which one next a free choice (log 50). -/
def reportAll (r : Nat) (u : Setup) : Nat → List Nat → LockM Unit
  | 0, _ => pure ()
  | n + 1, is => do
    let k ← act fun s => .ok (s.renew, [(s.freeWord 6).toNat % max is.length 1])
    match is[k.headD 0]? with
    | none => pure ()
    | some i => do
      room r
      giveUp r i
      let tail ← seeOne fun s => (s.lock r).cTail
      put r (u.compRing + 4 * (tail % max u.entries 1)) i
      mod r fun x => { x with cTail := (tail + 1) % 2 ^ 32, taken := x.taken.del i }
      setReg r 0x4C (tail + 1)
      reportAll r u n (is.filter fun j => j != i)

/-- Step 7: RECOMP of a request that ran. -/
def recomputed (r i : Nat) : LockM Unit := do
  let v ← field r i 0
  let held ← holdsTaken r i
  if held ∧ stOf v = 3 then setField r i 0 (v - bitsOf v 12 1 * 2 ^ 12) else pure ()

/-- THE RETIRE STAGE. -/
def retireStage (r : Nat) : LockM Unit := do
  stepFaults r
  let is ← taken r
  is.forM fun i => atEnd r i
  let ev ← inState r [6] is
  ev.forM fun i => setState r i 1 id
  let u ← setup r
  let head ← seeOne fun s => (s.lock r).subHead
  entries r u ((u.subTail + 2 ^ 32 - head) % 2 ^ 32)
  let is ← taken r
  is.forM fun i => tooLarge r i u
  let ended ← inState r [4, 5] is
  reportAll r u ended.length ended
  let ran ← see fun s => (s.lock r).recent
  ran.forM fun i => recomputed r i
  if ended ≠ [] then change fun s => s.interrupt 2
  mod r fun x => { x with recent := [], state := .reserve }

/-! ### The reserve stage (R357) -/

/-- PRIO and ADMIT_STAMP of a request. -/
def rank (r i : Nat) : LockM (Nat × Nat × Nat) := do
  let v ← field r i 0
  let a ← field r i 15
  pure (i, 255 - bitsOf v 4 8, a)

/-- Put a ranked request in its place. -/
def insertRank (x : Nat × Nat × Nat) : List (Nat × Nat × Nat) → List (Nat × Nat × Nat)
  | [] => [x]
  | y :: ys => if x.2.1 < y.2.1 ∨ (x.2.1 = y.2.1 ∧ x.2.2 < y.2.2) then x :: y :: ys else y :: insertRank x ys

/-- Evict a request. -/
def evict (r i : Nat) : LockM Unit := do
  giveUp r i
  setState r i 6 fun v => v - bitsOf v 12 1 * 2 ^ 12 + 2 ^ 12

/-- Evict unserved requests, the last first, until the pool covers a shortfall; which of them stay, or none where the
request itself is evicted. -/
def makeRoom (r i short : Nat) : Nat → List Nat → LockM (Option (List Nat))
  | 0, rest => pure (some rest)
  | n + 1, rest => do
    let f ← free r
    if short ≤ f then pure (some rest)
    else match rest.reverse with
      | v :: up => do
        evict r v
        makeRoom r i short n up.reverse
      | [] => do
        evict r i
        pure none

/-- Serve requests in rank order. -/
def serve (r : Nat) : Nat → List Nat → LockM Unit
  | 0, _ => pure ()
  | _, [] => pure ()
  | n + 1, i :: rest => do
    let k ← need r i
    let have_ ← field r i 6
    match ← makeRoom r i (k - have_) (rest.length + 1) rest with
    | none => pure ()
    | some rest => do
      topUp r i (k - have_)
      serve r n rest

/-- Requests of a state in rank order. -/
def ranked (r st : Nat) (key : Nat → LockM (Nat × Nat × Nat)) : LockM (List Nat) := do
  let is ← taken r
  let is ← inState r [st] is
  let ks ← is.mapM key
  pure ((ks.foldl (fun m x => insertRank x m) []).map Prod.fst)

/-- THE RESERVE STAGE. -/
def reserveStage (r : Nat) : LockM Unit := do
  let is ← ranked r 3 (rank r)
  serve r is.length is
  mod r fun x => { x with state := .admission }

/-! ### The admission stage (R358) -/

/-- The berths that ADMITTED and RUNNING requests hold, with their requests. -/
def holders (r : Nat) : LockM (List (Nat × Nat)) := do
  let is ← taken r
  let is ← inState r [2, 3] is
  is.mapM fun i => do
    let b ← field r i 1
    pure (b, i)

/-- Try waiting requests in order. -/
def tryAdmit (r : Nat) (u : Setup) : List Nat → LockM Unit
  | [] => pure ()
  | i :: rest => do
    let hs ← holders r
    match (List.range u.berths).find? fun b => hs.all fun h => h.1 != b with
    | none => pure ()
    | some b => do
      let k ← need r i
      let have_ ← field r i 6
      let f ← free r
      if f < k - have_ then tryAdmit r u rest
      else
        topUp r i (k - have_)
        let stamp ← seeOne fun s => (s.lock r).admissions.toNat
        setField r i 1 b
        setField r i 15 stamp
        setState r i 2 id
        mod r fun x => { x with admissions := x.admissions + 1, admitted := addSorted x.admitted i }
        tryAdmit r u rest

/-- THE ADMISSION STAGE: higher PRIO first, then the smaller submission sequence. -/
def admitStage (r : Nat) : LockM Unit := do
  let u ← setup r
  let is ← ranked r 1 fun i => do
    let v ← field r i 0
    let n ← seeOne fun s => (s.lock r).taken.getOr i 0
    pure (i, 255 - bitsOf v 4 8, n)
  tryAdmit r u is
  mod r fun x => { x with state := .publish }

/-! ### Publish and push (R353–R355) -/

/-- Write one entry of the berth table. -/
def berthEntry (r b : Nat) (u : Setup) (hs : List (Nat × Nat)) : LockM Unit := do
  let at_ := u.berthTable + 16 * b
  let new ← see fun s => (s.lock r).admitted
  match hs.find? fun h => h.1 == b with
  | none => [0xFFFFFFFF, 0, 0, 0].zipIdx.forM fun (v, k) => put r (at_ + 4 * k) v
  | some (_, i) => do
    let v ← field r i 0
    let pos ← field r i 2
    let pages ← field r i 6
    let flags := 1 + flagBit (new.contains i) 1 + flagBit (bitOf v 12) 2
    [i, pos, pages, flags].zipIdx.forM fun (v, k) => put r (at_ + 4 * k) v

/-- Enter IDLE: entries that have arrived start a cycle at once (R351). -/
def enterIdle (r : Nat) : LockM Unit := do
  let u ← setup r
  mod r fun x => { x with state := if u.subTail = x.subHead then .idle else .retire }

/-- THE PUBLISH STAGE. -/
def publishStage (r : Nat) : LockM Unit := do
  let u ← setup r
  let hs ← holders r
  (List.range u.berths).forM fun b => berthEntry r b u hs
  let new ← inState r [2] (hs.map Prod.snd)
  new.forM fun i => setState r i 3 id
  mod r fun x => { x with admitted := [] }
  if hs = [] then enterIdle r else mod r fun x => { x with state := .push }

/-- THE PUSH: one entry of the device-side queue (R329). -/
def pushStage (r : Nat) : LockM Unit := do
  let u ← setup r
  let hs ← holders r
  let live := (List.range u.berths).filterMap fun b => hs.find? fun h => h.1 == b
  let bs ← live.mapM fun (b, i) => do
    let lo ← field r i 12
    let hi ← field r i 13
    pure (b, i, lo + hi * 2 ^ 32)
  change fun s =>
    let l := s.launchNo
    let x := s.lock r
    let y : Launch :=
      { Launch.blank with
        asid := x.asid, reach := r, source := .lock r, image := u.image, grid := bs.length, state := .queued, step := x.stepNo + 1,
        berths := bs, reported := false }
    let s := (s.newLaunch y).modCtx x.asid fun c => { c with queue := c.queue ++ [l] }
    { s with queue := s.queue ++ [l] }.modLock r fun x =>
      { x with stepNo := x.stepNo + 1, state := .step, launch := some l, recent := live.map Prod.snd }

end LockM

namespace State

/-- RUN A STAGE of a Lock, or go on with the one that waits. -/
def runStage (s : State) (r : Nat) (m : LockM Unit) : State :=
  match m ⟨s, (s.lock r).journal, []⟩ with
  | .ok _ t => t.st.modLock r fun x => { x with journal := [] }
  | .error (.fault e va) t => (t.st.modLock r fun x => { x with journal := t.done }).lockFault r e va
  | .error .full t => t.st.modLock r fun x => { x with journal := t.done, waiting := true }

/-- Whether a Lock is in a state, with no access held. -/
def lockIn (s : State) (r : Nat) (st : LockState) : Bool := decide ((s.lock r).state = st) && (s.lock r).park.isNone

/-! ### Enable and disable (R348, R411) -/

/-- The checks of an enable: a valid context of the reach, a record in device memory within the limits of Table 15-1; where
the record does not translate, the Lock waits. SUBHEAD and CTAIL are from then on the Lock's own (R6; log 50). -/
def enableCheck (s : State) (r : Nat) : State :=
  let x := s.lock r
  let refuse : State := s.modLock r fun x => { x with enable := false, error := true, served := false, home := none }
  if !s.ctxValid x.asid || s.ctxReach x.asid != r then refuse
  else match s.unitPlaces x.asid .read (parts (s.lockRecord r) 128), s.unitRead x.asid (s.lockRecord r) 128,
      s.unitXlat x.asid (s.lockRecord r + 0x44) .read with
    | .error (e, va), _, _ => s.lockFault r e va
    | _, .error (e, va), _ => s.lockFault r e va
    | _, _, .error e => s.lockFault r e (s.lockRecord r + 0x44)
    | .ok ps, .ok b, .ok w =>
      if (ps.any fun p => keySpace p.1.pa != devSpace) ∨ !setupOk b then refuse
      else
        let u := Setup.ofBytes b
        s.modLock r fun x =>
          { Lock.blank with
            record := x.record, error := x.error, enable := true, asid := x.asid, served := true, pages := u.pool,
            subHead := u.subHead, cTail := u.cTail, state := if u.subTail = u.subHead then .idle else .retire,
            home := some (s.lockDie r, w.pa, w.kid) }

/-- SUBTAIL, at its home, differs from the SUBHEAD of an idle Lock; whether the record still translates shows at its next access (R351,
R408). -/
def subtailSeen (s : State) (r : Nat) : Option Nat :=
  match s.lockIn r .idle, (s.lock r).home with
  | true, some (_, pa, kid) => let v := s.homeRead pa kid 4; if v ≠ (s.lock r).subHead then some v else none
  | _, _ => none

/-- The gangs of a step that stand at stops that cannot be resumed are all it has left. -/
def stepBroken (s : State) (l : Nat) : Bool :=
  let y := s.launch l
  let n := (s.brokenGangs l).length
  decide (y.state = .placing) && decide (y.gangs ≤ y.placed) && n != 0 && y.ended + n == y.gangs

/-- Whether the retire stage can go on: it does not wait for room in the completion ring. -/
def retireDue (s : State) (r : Nat) : Bool :=
  s.lockIn r .retire && !((s.lock r).waiting && match s.lockFull r with | .ok full => full | .error _ => false)

/-- Whether the step of a Lock has finished. -/
def stepDone (s : State) (r : Nat) : Bool :=
  s.lockIn r .step && (s.lock r).launch.any fun l => s.isOver l || s.stepBroken l

/-- Whether the device-side queue of a Lock's context has room. -/
def queueRoom (s : State) (r : Nat) : Bool := decide ((s.ctx (s.lock r).asid).queue.length < Config.launchQueue)

end State

/-- A write of LOCKBASE takes RECORD and clears ERROR where its bit is 1 (Table 15-6). -/
def Lock.written (v : BitVec 64) (x : Lock) : Lock := { x with record := v &&& ~~~63#64, error := x.error && !v.getLsbD 1 }

/-- R348: a write of LOCKBASE with the enable bit. -/
def execLockEnable (r : Nat) (v : BitVec 64) (s : State) : Out :=
  s.onlyIf (s.security.booted && decide (r < 8) && v.getLsbD 0 && !(s.lock r).enable) fun s =>
    (s.modLock r fun x => { x.written v with enable := true, skipped := 0 }).enableCheck r

/-- R355: a write of LOCKBASE that only clears the enable bit; a step launch that runs goes on. -/
def execLockDisable (r : Nat) (s : State) : Out := s.onlyIf (s.lock r).enable fun s => s.disableLock r false

/-- R351: a write of `v` to SUBTAIL has registered at its home; an idle Lock that finds entries starts its cycle. -/
def execSubtailWrite (r : Nat) (v : BitVec 32) (s : State) : Out :=
  s.onlyIf (s.subtailSeen r == some v.toNat) fun s => s.modLock r fun x => { x with state := .retire }

/-- R355, R356: gangs at stops that cannot be resumed have finished too. -/
def execStepFinished (r : Nat) (s : State) : Out :=
  s.onlyIf (s.stepDone r) fun s =>
    let s := match (s.lock r).launch with
      | some l => if s.stepBroken l then (s.endBroken l).finishLaunch l 0 else s
      | none => s
    s.modLock r fun x => { x with state := .retire }

/-- R356. -/
def execLockRetire (r : Nat) (s : State) : Out := s.onlyIf (s.retireDue r) fun s => s.runStage r (LockM.retireStage r)

/-- R357. -/
def execLockReserve (r : Nat) (s : State) : Out := s.onlyIf (s.lockIn r .reserve) fun s => s.runStage r (LockM.reserveStage r)

/-- R358. -/
def execLockAdmit (r : Nat) (s : State) : Out := s.onlyIf (s.lockIn r .admission) fun s => s.runStage r (LockM.admitStage r)

/-- R353, R355. -/
def execLockPublish (r : Nat) (s : State) : Out := s.onlyIf (s.lockIn r .publish) fun s => s.runStage r (LockM.publishStage r)

/-- R329, R354: a full queue waits. -/
def execLockPush (r : Nat) (s : State) : Out :=
  s.onlyIf (s.lockIn r .push && s.queueRoom r) fun s => s.runStage r (LockM.pushStage r)

end Sys2Proof.Machine
end

