-- ==== Sys2Proof/Machine/EvTrans.lean ====
section
/-! DEFINITION. Events of translation: invalidation, releases of parks, overflow-clear, peers, the host's accesses (R255, R365,
R366, R368, R369, R408). -/

namespace Sys2Proof.Machine

/-! ### Module-wide invalidation (R365, Table 16-4) -/

namespace State

/-- A write that starts an invalidation; ignored while one runs. -/
def startInvalidation (s : State) (scope va asid : Nat) : State :=
  if s.ibusy then s
  else { s with iva := BitVec.ofNat 64 (va % 2 ^ 57), iasid := asid % 2 ^ 16, iscope := scope, ibusy := true }

end State

/-- R365, scope 0. -/
def execInvalidatePage (va asid : Nat) (s : State) : Out :=
  s.onlyIf (s.security.booted && !s.ibusy) fun s => s.startInvalidation 0 va asid

/-- R365, scope 1. -/
def execInvalidateAsid (asid : Nat) (s : State) : Out :=
  s.onlyIf (s.security.booted && !s.ibusy) fun s => s.startInvalidation 1 s.iva.toNat asid

/-- R365, scope 2. -/
def execInvalidateAll (s : State) : Out :=
  s.onlyIf (s.security.booted && !s.ibusy) fun s => s.startInvalidation 2 s.iva.toNat s.iasid

/-- R365: what still used the translations is taken on every die, BUSY clears, and vector 5 is sent. -/
def execInvalidationComplete (s : State) : Out :=
  s.onlyIf s.ibusy fun s =>
    { (s.invalidate (List.range Config.clusters) ⟨s.iscope, s.iva.toNat, s.iasid⟩).interrupt 5 with ibusy := false }

/-! ### Releases (R165, R207, R369) -/

/-- The scope of a release on a die: 0 one park id, 1 one ASID, 2 every park. -/
structure RelScope where
  die : Nat
  scope : Nat
  val : Nat

/-- Whether a park of a context under an id is in scope. -/
def RelScope.hits (v : RelScope) (die asid id : Nat) : Bool :=
  die == v.die && match v.scope with | 0 => id == v.val | 1 => asid == v.val | _ => true

/-- Take the ids in scope off a park. -/
def Park.release (p : Park) (v : RelScope) (asid : Nat) : Park := { p with ids := p.ids.filter fun i => !v.hits p.die asid i }

namespace State

/-- The slices of a gang that a release frees, with their parks as the release found them. -/
def freed (v : RelScope) (y : Gang) : List (Nat × Park) :=
  y.slices.filterMap fun (k, x) => x.park.bind fun p => if (p.release v y.asid).ids = [] then some (k, p) else none

/-- Freed slices go on: those that one word parked under one id as one stream; one held at its handler's first word first
rebuilds its reserve (R222). -/
def freeSlices (s : State) (g : Nat) (ps : List (Nat × Park)) : State :=
  let held := (ps.filter fun x => x.2.kind == .fetch && !(s.slice g x.1).reserve).map Prod.fst
  let s := ps.foldl (fun s x => s.modSlice g x.1 fun y =>
    let y := { y with readySince := s.now, ready := max y.ready s.now }
    if held.contains x.1 then { y with park := none } else y.unpark x.2 x.2.pmask) s
  let s := ps.foldl (fun s x =>
    let mates := (ps.filter fun y => y.2.widx == x.2.widx && y.2.ids == x.2.ids).map Prod.fst
    if mates.head? = some x.1 then s.newStream g mates else s) s
  if held = [] then s else s.rebuild g held

/-- Release the parks of a gang in scope, those its handlers have set aside too. -/
def releaseGang (s : State) (v : RelScope) (g : Nat) : State :=
  let y := s.gang g
  let ps := freed v y
  let trim (x : Slice) : Slice :=
    { x with park := x.park.map fun p => p.release v y.asid,
             levels := x.levels.map fun t => { t with park := t.park.map fun p => p.release v y.asid } }
  (s.modGang g fun y => { y with slices := y.slices.mapAll fun _ x => trim x }).freeSlices g ps

/-- Release the accesses of a thread in scope; under CANCEL they end it with code 0x10. -/
def releaseThread (s : State) (v : RelScope) (cancel : Bool) (i : Nat) : State :=
  let t := s.thread i
  let hit (p : Nat × Nat) : Bool := v.hits (dieOfCore t.core) t.asid p.1
  if !(t.parks.any fun p => hit p.2) then s
  else if cancel then
    if t.ended.isSome then s.modThread i fun t => { t with ended := some 0x10, parks := [] } else s.failThread i 0x10
  else s.modThread i fun t => { t with parks := t.parks.filter fun p => !hit p.2 }

/-- Release a launch's reads of its image or its DONE write, and the copies of its Basin image; under CANCEL it is refused, its
DONE write is not made, and the gangs of the core never start (R312). -/
def releaseLaunch (s : State) (v : RelScope) (cancel : Bool) (l : Nat) : State :=
  let y := s.launch l
  let s :=
    if y.park.any fun i => v.hits 0 y.asid i then
      let s := s.modLaunch l fun y => { y with park := none }
      if !cancel then s
      else if y.state = .reading then s.refuseLaunch l 6
      else (s.modLaunch l fun y => { y with reported := true }).report l
    else s
  let cs := (y.held.filter fun (_, i) => v.hits 0 y.asid i).map Prod.fst
  if cs = [] then s
  else s.modLaunch l fun y =>
    { y with held := y.held.filter fun (c, _) => !cs.contains c, lost := if cancel then cs ++ y.lost else y.lost,
             code := if cancel ∧ y.code = 0 then 6 else y.code }

/-- Release a sluice that waits to read an armed image. -/
def releaseSluice (s : State) (v : RelScope) (cancel : Bool) (q : Nat) : State :=
  if (s.sluice q).park.any fun i => v.hits 0 (s.sluiceAsid q) i then
    let s := s.modSluice q fun x => { x with park := none }
    if cancel then s.refuseArm q 6 (Packet6.ofBytes ((s.nextPacket q).getD [])) else s
  else s

/-- Release a Lock's access; under CANCEL the Lock disables itself with ERROR (R408). -/
def releaseLock (s : State) (v : RelScope) (cancel : Bool) (r : Nat) : State :=
  let x := s.lock r
  if x.park.any fun i => v.hits x.parkDie x.asid i then
    if cancel then s.disableLock r true
    else
      let s := s.modLock r fun x => { x with park := none }
      if x.enable && decide (x.state = .disabled) then s.enableCheck r else s
  else s

/-- RELEASE every park in scope. -/
def releaseParks (s : State) (v : RelScope) (cancel : Bool) : State :=
  let s := s.gangs.keys.foldl (fun s g => s.releaseGang v g) s
  let s := s.threads.keys.foldl (fun s i => s.releaseThread v cancel i) s
  let s := s.launches.keys.foldl (fun s l => s.releaseLaunch v cancel l) s
  let s := s.sluices.keys.foldl (fun s q => s.releaseSluice v cancel q) s
  s.locks.keys.foldl (fun s r => s.releaseLock v cancel r) s

/-- The replay register as written (Table 16-6). -/
def setReplay (s : State) (d scope val : Nat) (cancel : Bool) : State :=
  s.modDie d fun x => { x with replayReg := BitVec.ofNat 64 (val % 2 ^ 32 + scope * 2 ^ 32 + flagBit cancel 34) }

/-- A write of the replay register. -/
def replayWrite (s : State) (d scope val : Nat) (cancel : Bool) : State :=
  (s.setReplay d scope val cancel).releaseParks ⟨d, scope, if scope = 1 then val % 2 ^ 16 else val⟩ cancel

end State

/-- R369, scope 0. -/
def execReplayParkId (d id : Nat) (cancel : Bool) (s : State) : Out :=
  s.onlyIf (s.security.booted && decide (d < 4)) fun s => s.replayWrite d 0 id cancel

/-- R369, scope 1. -/
def execReplayAsid (d asid : Nat) (cancel : Bool) (s : State) : Out :=
  s.onlyIf (s.security.booted && decide (d < 4)) fun s => s.replayWrite d 1 asid cancel

/-- R369, scope 2. -/
def execReplayDie (d : Nat) (cancel : Bool) (s : State) : Out :=
  s.onlyIf (s.security.booted && decide (d < 4)) fun s => s.replayWrite d 2 0 cancel

/-- R368: OVERFLOW and UNDELIVERED clear, and every park of the die is released. -/
def execOverflowClear (d : Nat) (s : State) : Out :=
  s.onlyIf (s.security.booted && (s.die d).overflow) fun s =>
    (s.modDie d fun x => { x with overflow := false, undelivered := 0 }).releaseParks ⟨d, 2, 0⟩ false

/-! ### Peers and the host (R255, R366) -/

/-- The host's number among the nodes that the module sends to. -/
def hostNode : Nat := 2 ^ 32

/-- The parts of a range that stand in one aligned word each. -/
def wordParts : Nat → Nat → Nat → List (Nat × Nat)
  | 0, _, _ => []
  | f + 1, a, n =>
    let k := min n (4 - a % 4)
    if n = 0 then [] else (a, k) :: wordParts f (a + k) (n - k)

namespace State

/-- Answer a request: a status byte (0 performed, 1 failed, 2 data with poison), then the data. -/
def answer (s : State) (node status : Nat) (bs : List Byte) : State := { s with sent := s.sent ++ [(node, BitVec.ofNat 8 status :: bs)] }

/-- A peer's access that fails: a record of KIND 8's form with KIND 7, the sending node in place of the core, and the failure
returned to the issuer. -/
def peerFault (s : State) (node asid va : Nat) (e : XFail) : State :=
  let d := 0
  let f : FaultInfo :=
    { va := va, asid := asid, kind := 7, cause := e.cause, reach := s.ctxReach asid, quarter := 0, core := node % 2 ^ 16, launch := 0,
      gang := 0, widx := 0, slice := 0, level := e.level, barrier := 0, lanes := 0 }
  ((s.faultRecord d (s.nextPark d) f).takePark d).answer node 1 []

/-- A peer's access, under the local context that its node and ASID map to. -/
def peerAccess (s : State) (node asid va : Nat) (store : Bool) (data : List Byte) : State :=
  match s.peers.find? fun p => p.1 == node && p.2.1 == asid with
  | none => s.peerFault node asid va ⟨0, 0, va / 2 ^ 48 * 2 ^ 48⟩
  | some (_, _, a) =>
    match s.unitPlaces a (if store then .write else .read) (parts va data.length) with
    | .error (e, _) => s.peerFault node a va e
    | .ok xs =>
      if store then (s.unitPut xs data).answer node 0 []
      else
        let bad := xs.any fun x => s.poisoned x.1.pa x.2
        s.answer node (if bad then 2 else 0) (xs.flatMap fun x => leBytes x.2 (s.homeRead x.1.pa x.1.kid x.2))

/-- One word's part of a host access, under the key id its block has (log 8): host memory's copies are first written back
(R234). -/
def hostWord (s : State) (space a k : Nat) (store : Bool) (v : Nat) : State × Nat :=
  let pa := keyAt space 0 a
  let kid := s.keyOf.getOr (pa / 16) 0
  let s := if space = hostSpace then s.dies.keys.foldl (fun s d => s.writeBack d (pa / 4)) s else s
  if store then (s.engineWrite 0 pa kid k v, 0) else (s, s.homeRead pa kid k)

/-- A host access, word by word. -/
def hostWords (s : State) (space : Nat) (store : Bool) : List (Nat × Nat) → List Byte → State × List Byte
  | [], _ => (s, [])
  | (a, k) :: r, bs =>
    let (s, v) := s.hostWord space a k store (leNat (bs.take k))
    let (s, out) := s.hostWords space store r (bs.drop k)
    (s, leBytes k v ++ out)

/-- A host access to device or host memory; beyond the module's device memory nothing is written, and a read fails (R2; log 63). -/
def hostReach (s : State) (space a : Nat) (store : Bool) (data : List Byte) : State :=
  let ps := wordParts (data.length + 2) a data.length
  if space = devSpace ∧ Config.hbmBytes < a + data.length then (if store then s else s.answer hostNode 1 [])
  else
  let (t, out) := s.hostWords space store ps data
  if store then t
  else t.answer hostNode (if ps.any fun p => t.poisoned (keyAt space 0 p.1) p.2 then 2 else 0) out

end State

/-- R366. -/
def execPeerRequest (node asid va : Nat) (store : Bool) (data : List (BitVec 8)) (s : State) : Out :=
  s.onlyIf s.security.booted fun s => s.peerAccess node asid va store data

end Sys2Proof.Machine
end

