-- ==== Sys2Proof/Machine/Span.lean ====
section
/-! DEFINITION. The span array (R15–R30 for engines, R267–R276): operands of every admitted format with their scale tiles,
accumulation, the checksum, the output chain; the Trestle unit. A command notes the words it needs, which its thread reads by moves of
their own in any order (R252), and acts when it holds them. -/

namespace Sys2Proof.Machine

/-! ### Formats of operands (R269, Table 1-4) -/

/-- Which operands pair: the product paths of R269. -/
inductive PairGroup where
  | int | f8 | vb8 | vbs | f16 | bf16
  deriving DecidableEq, Repr

def pairGroup (c : Nat) : Option PairGroup :=
  match c with
  | 0x07 | 0x08 => some .int
  | 0x09 | 0x0A => some .f8
  | 0x12 => some .vb8
  | 0x10 | 0x11 => some .vbs
  | 0x04 => some .f16
  | 0x05 => some .bf16
  | _ => none

/-- The width in bits of an element of an operand format. -/
def operandBits (c : Nat) : Nat :=
  match c with
  | 0x04 | 0x05 => 16
  | 0x10 => 3
  | 0x11 => 5
  | _ => 8

/-- The bytes of `k` elements. -/
def operandBytes (c k : Nat) : Nat := ceilDiv (k * operandBits c) 8

/-- The minimum normal exponent of an operand format, as an EMPTY entry reads (R267). -/
def formatEmin (c : Nat) : Int := match codeFmt c with | some (f, _) => f.emin | none => -127

/-- An operand element: its value with NaN payloads in F32, and its emax (none for a NaN, an infinity or an integer). -/
structure Elem where
  val : FVal
  emax : Option Int
  deriving DecidableEq, Repr

/-- A floating or integer element from its bits. -/
def plainElem (c b : Nat) : Elem :=
  match codeFmt c with
  | some (f, _) =>
    match f.decode b with
    | .nan s x => ⟨.nan s (nanCarry f fmtF32 s x % 2 ^ 23), none⟩
    | .inf s => ⟨.inf s, none⟩
    | .fin s m e => ⟨.fin s m e, some (f.emax b)⟩
  | none =>
    let v : Int := if c = 0x07 then signedOf b 8 else (b : Int)
    ⟨.fin (decide (v < 0)) v.natAbs 0, none⟩

/-- A block element (R15, R16): its field, its scale (none in a NaN block), its index. -/
def blockElem (fb field : Nat) (scale : Option (Nat × Nat)) (i : Nat) : Elem :=
  match scale with
  | none => ⟨.nan false (2 ^ 22 + i % 32 * 2 ^ 17), none⟩
  | some (e, τ) => ⟨.fin (bitOf field fb) (field % 2 ^ fb) ((e : Int) - 126 - fb - τ), some ((e : Int) - 127 - τ)⟩

/-- A product of two operand elements as a term, a NaN of A before one of B (R25). -/
def elemProduct (newNan : Nat) (a b : Elem) : Term :=
  let nan (s : Bool) (x : Nat) : Term := .nan (fmtF32.quiet s x)
  match a.val, b.val with
  | .nan s x, _ => nan s x
  | _, .nan s x => nan s x
  | .inf s, .inf t => .inf (s != t)
  | .inf s, .fin t m _ => if m = 0 then .nan newNan else .inf (s != t)
  | .fin s m _, .inf t => if m = 0 then .nan newNan else .inf (s != t)
  | .fin s m e, .fin t n g => .num (s != t) (m * n) (e + g)

/-! ### Reading operands (R19, R20, R252, R269) -/

/-- Why a command does not act: it ends with a code and a detail, or as a range of the deck from a key holds an uncorrectable error, or words
that it needs are still to be read. -/
inductive SpanStop where
  | fault (code detail : Nat)
  | bad (key : Nat)
  | need (ws : List Nat)
  deriving DecidableEq, Repr

abbrev SpanM := Except SpanStop

/-- A range of bytes that a command reads: its space (0 flat, 1 Basin), its address, its bytes. -/
structure Part where
  space : Nat
  addr : Nat
  len : Nat

/-- The keys of the words of a range. -/
def Part.words (core : Nat) (r : Part) : List Nat := (wordsIn r.addr r.len).map fun w => srcKey r.space core (4 * w)
where
  /-- The words that a range touches. -/
  wordsIn (a n : Nat) : List Nat := if n = 0 then [] else (List.range ((a + n - 1) / 4 + 1 - a / 4)).map (a / 4 + ·)

/-- What a thread holds of a range. -/
def Thread.held (t : Thread) (r : Part) : List Byte :=
  (List.range r.len).map fun j => t.buffer.getOr (srcKey r.space t.core (r.addr + j)) 0

/-- Whether a thread found a word of a range poisoned. -/
def Thread.heldBad (t : Thread) (r : Part) : Bool := (r.words t.core).any t.poisoned.contains

/-- Go on when every word of some ranges is held. -/
def Thread.want (t : Thread) (rs : List Part) : SpanM Unit :=
  match (rs.flatMap (Part.words t.core)).filter fun w => (t.buffer.find w).isNone with
  | [] => .ok ()
  | ws => .error (.need ws.eraseDups)

/-- Ranges held, their words free of errors (R396). -/
def Thread.wantGood (t : Thread) (rs : List Part) : SpanM Unit := do
  t.want rs
  if rs.any t.heldBad then .error (.fault 0x25 0) else .ok ()

/-- The scale bytes of one block of a row (R19, R20): that of E, then those of the τ fields. -/
def scaleSrcs (sh : Shape) (k row n : Nat) : List Part :=
  let size := if sh.blen = 16 then 512 else 768
  let tile := sh.scales + size * (row / 32 * (k / (8 * sh.blen)) + n / 8)
  let r := row % 32
  let pos := 64 * (r / 8) + 8 * (r % 8) + ((n % 8) ^^^ (r % 8))
  ((if sh.blen = 16 then [0, 256] else [0, 256, 512]).map fun o => ⟨0, tile + o + pos, 1⟩)

/-- The scale bytes of an operand's rows. -/
def scaleRanges (sh : Shape) (rows k : Nat) : List Part :=
  if blockCode sh.format then (List.range rows).flatMap fun r => (List.range (k / sh.blen)).flatMap fun n => scaleSrcs sh k r n else []

/-- The scale of block `n` of a row as a thread holds it. -/
def Thread.scale (t : Thread) (sh : Shape) (k row n : Nat) : Option (Nat × (Nat → Nat)) :=
  let b := (scaleSrcs sh k row n).map fun r => recNat (t.held r) 0 1
  if b.headD 0 = 0xFF then none else some (b.headD 0, fun q => bitsOf ((b[1 + q / 4]?).getD 0) (2 * (q % 4)) 2)

/-- The elements of one row of an operand: `bytes` are its packed elements. -/
def Thread.rowElems (t : Thread) (sh : Shape) (k row : Nat) (bytes : List Byte) : List Elem :=
  let bits := operandBits sh.format
  let v := leNat bytes
  if blockCode sh.format then
    let scales := (List.range (k / sh.blen)).map fun n => t.scale sh k row n
    let scale (j : Nat) : Option (Nat × Nat) := ((scales[j / sh.blen]?).getD none).map fun (e, τ) => (e, τ (j % sh.blen / 4))
    (List.range k).map fun j => blockElem (bits - 1) (bitsOf v (bits * j) bits) (scale j) j
  else (List.range k).map fun j => plainElem sh.format (bitsOf v (bits * j) bits)

namespace State

/-- Bytes of the deck, which is no memory (R252); a poisoned word ends the run (R396). -/
def deckBytes (s : State) (key n : Nat) : SpanM (List Byte) :=
  if s.poisoned key n && decide (0 < n) then .error (.bad key) else .ok (Memory.bytes s.mem key n)

/-- Scale tiles that are misaligned or partial (R20). -/
def scalesBad (sh : Shape) (rows k : Nat) : Bool :=
  blockCode sh.format && (sh.scales % 256 != 0 || rows % 32 != 0 || k % (8 * max sh.blen 1) != 0)

end State

/-- The format pair, the spaces and the block lengths that R269 admits. -/
def pairOk (a b : Shape) : Bool :=
  let len (x : Shape) : Bool := if blockCode x.format then x.blen == 16 || x.blen == 32 else x.blen == 0
  match pairGroup a.format, pairGroup b.format with
  | some x, some y => decide (x = y) && a.space == 1 && b.space == 2 && len a && len b
  | _, _ => false

/-- A shape record that names no summary slot (Table 9-9, reason 8). -/
def summaryUndefined (x : Shape) : Bool := decide (64 ≤ x.summary) && x.summary != 0xFFFF

/-- What a command accumulates. -/
structure SpanJob where
  m : Nat
  n : Nat
  k : Nat
  tag : Tag
  ktotal : Nat
  ea : List Int
  eb : List Int
  rows : List (List Elem)
  cols : List (List Elem)

namespace State

/-- The emaxes a run is anchored with: summary entries or the declared emax (R267). -/
def anchors (s : State) (core : Nat) (sh : Shape) (n : Nat) : List Int :=
  (List.range n).map fun i =>
    if sh.summary = 0xFFFF then sh.declared else ((s.core core).summary.find (128 * sh.summary + i)).getD (formatEmin sh.format)

/-- Whether some element is above the emax it is anchored with. -/
def above (es : List Int) (rows : List (List Elem)) : Bool :=
  (es.zip rows).any fun (e, r) => r.any fun x => x.emax.any fun y => decide (e < y)

/-- CHECK AND READ a command of a thread against its slot (R267–R271); a run that runs again keeps the emaxes it was opened with (R274). -/
def spanJob (s : State) (i : Nat) (c : MatCmd) (sl : Slot) (again : Option (List Int × List Int)) : SpanM SpanJob := do
  let t := s.thread i
  let core := t.core
  let check (b : Bool) (d : Nat) : SpanM Unit := if b then .ok () else .error (.fault 0x20 d)
  if c.opens = sl.opened then .error (.fault 0x23 0)
  else
    let shapeA : Part := ⟨1, 64 * c.a, 64⟩
    let shapeB : Part := ⟨1, 64 * c.b, 64⟩
    t.wantGood [shapeA, shapeB]
    let a := Shape.ofBytes (t.held shapeA)
    let b := Shape.ofBytes (t.held shapeB)
    let m := a.rows
    let k := a.cols
    let n := b.cols
    check (k == b.rows) 1
    check (pairOk a b) 2
    check (decide (1 ≤ m) && decide (m ≤ 128) && decide (1 ≤ n) && decide (n ≤ 64)) 3
    check (!summaryUndefined a && !summaryUndefined b) 8
    let int := decide (pairGroup a.format = some .int)
    let tag : Tag := if int then .i32 else .f32
    if !c.opens && decide (tag ≠ sl.tag) then .error (.fault 0x24 0)
    else
      check (c.opens || (m == sl.m && n == sl.n)) 3
      check (c.opens || decide (sl.cmds.length < 64)) 4
      let t0 := deckTarget b.base
      let off := deckOff b.base
      let row (r : Nat) : Part := ⟨1, a.base + r * a.stride, operandBytes a.format k⟩
      check (decide ((row (m - 1)).addr + (row 0).len ≤ Config.basinTop)) 7
      check (decide (b.base < 2 ^ 32) && decide (t0 + n ≤ 64) && decide (off + operandBytes b.format k ≤ 32768)) 7
      if scalesBad a m k || scalesBad b n k then .error (.fault 0x21 0)
      else
        t.wantGood ((List.range m).map row ++ scaleRanges a m k ++ scaleRanges b n k)
        let rows := (List.range m).map fun r => t.rowElems a k r (t.held (row r))
        let cols ← (List.range n).mapM fun r => do
          let bytes ← s.deckBytes (deckKey core (t0 + r) off) (operandBytes b.format k)
          .ok (t.rowElems b k r bytes)
        let fresh := (s.anchors core a m, s.anchors core b n)
        let (ea, eb) := if int then ([], []) else if c.opens then again.getD fresh else (sl.ea, sl.eb)
        if above ea rows || above eb cols then .error (.fault 0x22 0)
        else if sl.flaw then .error (.fault 0x25 0)
        else .ok ⟨m, n, k, tag, if c.opens then c.ktotal else sl.ktotal, ea, eb, rows, cols⟩

end State

/-! ### Accumulation (R22, R25, R26, R272, R274) -/

/-- The modulus of the checksum column. -/
def checkMod : Nat := 65521

/-- An accumulator after one term. -/
def Acc.add (x : Acc) : Term → Acc
  | .nan b => { x with nan := x.nan.or (some (BitVec.ofNat 32 b)) }
  | .inf s => if s then { x with ninf := true } else { x with pinf := true }
  | .num s m e =>
    let q := quantise x.anchor s m e
    let (t, o) := satAdd x.sum q
    { x with sum := t, ovf := x.ovf || o, check := (x.check + wrapMod q) % checkMod }
where
  /-- A term modulo the checksum's modulus. -/
  wrapMod (q : Int) : Nat := (q % checkMod).toNat

/-- A fresh accumulator. -/
def Acc.zero (α : Int) : Acc := ⟨0, α, false, none, false, false, 0⟩

/-- The key of accumulator (r, n). -/
def accKey (r n : Nat) : Nat := 64 * r + n

/-- A slot as OPEN leaves it before it accumulates (R267, R271). -/
def Slot.start (j : SpanJob) (replayed : Bool) : Slot :=
  let α (r n : Nat) : Int := if j.tag = .i32 then 100 else (j.ea[r]?).getD 0 + (j.eb[n]?).getD 0 + 2
  { opened := true, tag := j.tag, m := j.m, n := j.n, ktotal := j.ktotal, ksum := 0, cmds := [], ea := j.ea, eb := j.eb,
    acc := (List.range j.m).flatMap fun r => (List.range j.n).map fun n => (accKey r n, Acc.zero (α r n)), replayed := replayed, flaw := false }

/-- A slot after a command's products (R272); `cmd` is kept with its run. -/
def Slot.accumulate (x : Slot) (j : SpanJob) (cmd : List Byte) (widx : Nat) : Slot :=
  let row (r n : Nat) (a : Acc) : Acc :=
    (((j.rows[r]?).getD []).zip ((j.cols[n]?).getD [])).foldl
      (fun a p => a.add (elemProduct (fmtF32.nanOf n (wordHash widx)) p.1 p.2)) a
  { x with acc := x.acc.mapAll fun key a => row (key / 64) (key % 64) a, ksum := x.ksum + j.k, cmds := x.cmds ++ [cmd] }

/-- The checksum of every row (R274). -/
def Slot.checked (x : Slot) : Bool :=
  (List.range x.m).all fun r =>
    let mine := (List.range x.n).filterMap fun n => x.acc.find (accKey r n)
    (mine.map fun a => Acc.add.wrapMod a.sum).sum % checkMod == (mine.map Acc.check).sum % checkMod

/-! ### Output (R275, R276) -/

/-- An accumulator's value as a floating format (R25, R29). -/
def Acc.out (x : Acc) (f : Fmt) (newNan : Nat) : Nat :=
  match x.nan with
  | some b => nanCarry fmtF32 f (bitOf b.toNat 31) (b.toNat % 2 ^ 23)
  | none =>
    if x.pinf && x.ninf then newNan
    else if x.pinf then f.infBits else if x.ninf then f.sign true + f.infBits
    else f.round .ne (decide (x.sum < 0)) x.sum.natAbs (x.anchor - 100)

/-- An accumulator's value as I32 without a chain, and whether it was clamped. -/
def Acc.outInt (x : Acc) : Int × Bool :=
  let lo : Int := -2 ^ 31
  let hi : Int := 2 ^ 31 - 1
  if x.nan.isSome || (x.pinf && x.ninf) then (0, false)
  else if x.pinf then (hi, true) else if x.ninf then (lo, true)
  else
    let r := roundMag .ne false x.sum.natAbs (x.anchor - 100) 0
    let v : Int := if x.sum < 0 then -(r : Int) else r
    (clampInt v lo hi, decide (clampInt v lo hi ≠ v))

/-- What the chain of a CLOSE reads (Tables 9-10 to 9-12). -/
structure Chain where
  mask : Option (List Nat × Nat)
  bias : Option (List Nat)
  act : Option (List Byte)
  scale : Option (List Nat)

/-- A finite F32 as a signed dyadic; zero for one that is not finite. -/
def dyadic (b : Nat) : Bool × Nat × Int := match fmtF32.decode b with | .fin s m e => (s, m, e) | _ => (false, 0, 0)

/-- The sign of x − y, exactly, as an integer over a common exponent. -/
def dyadicSub (x y : Bool × Nat × Int) : Int × Int := dyadicAdd x.1 x.2.1 x.2.2 (!y.1) y.2.1 y.2.2

/-- The segment of PWL: ⌊256 (x − LO) / (HI − LO)⌋ clamped to 0–255 (Table 9-12). -/
def pwlSegment (lo hi x : Nat) : Nat :=
  match fmtF32.decode x with
  | .inf s => if s then 0 else 255
  | .nan _ _ => 0
  | .fin .. =>
    let (a, e) := dyadicSub (dyadic x) (dyadic lo)
    let (b, g) := dyadicSub (dyadic hi) (dyadic lo)
    let k := min e g
    let num := 256 * a * 2 ^ (e - k).toNat
    let den := b * 2 ^ (g - k).toNat
    (clampInt (num.fdiv den) 0 255).toNat

/-- PWL(t, x). -/
def pwl (table : List Byte) (newNan x : Nat) : Nat :=
  match fmtF32.decode x with
  | .nan _ _ => x
  | _ =>
    let i := pwlSegment (recNat table 0 4) (recNat table 4 4) x
    fmtF32.fma ⟨.ne, false, newNan⟩ (recNat table (16 + 8 * i) 4) x (recNat table (20 + 8 * i) 4)

/-- An activation table whose header breaks its limits. -/
def tableBad (t : List Byte) : Bool :=
  let fin (b : Nat) : Bool := match fmtF32.decode b with | .fin .. => true | _ => false
  let lo := recNat t 0 4
  let hi := recNat t 4 4
  recNat t 8 8 != 0 || !fin lo || !fin hi || !fLt false (fmtF32.decode lo) (fmtF32.decode hi)

/-- The tag of an output format code. -/
def outTag (c : Nat) : Tag := Tag.ofCode c

/-- The final rounding of a chain: the element's bits, and whether it saturated (R276 bit 3). -/
def chainOut (x code : Nat) : Nat × Bool :=
  let t := outTag code
  let y := convElem false .f32 t 3 0 x
  let sat := match fmtOf t, fmtF32.decode x with
    | some _, _ => decide (y ≠ convElem false .f32 t 0 0 x)
    | none, .nan _ _ => false
    | none, .inf _ => true
    | none, .fin s m e =>
      let r := roundMag .ne s m e 0
      let v : Int := if s then -(r : Int) else r
      decide (v < intMin t) || decide (intMax t < v)
  (y, sat)

/-- One output element and its STATUS bits. -/
def outElem (ch : Option Chain) (code hash r n : Nat) (x : Acc) : Nat × Nat :=
  let new := fmtF32.nanOf n hash
  match ch with
  | none =>
    if code = 1 then let (v, c) := x.outInt; (wrapNat v 32, flagBit c 0)
    else match codeFmt code with
      | some (f, _) => (x.out f (f.nanOf n hash), 0)
      | none => (0, 0)
  | some ch =>
    let v := x.out fmtF32 new
    let v := match ch.mask with
      | some (rows, fill) => if bitOf ((rows[r]?).getD 0) n then v else fill
      | none => v
    let env : FEnv := ⟨.ne, false, new⟩
    let v := match ch.bias with | some b => fmtF32.add env v ((b[n]?).getD 0) | none => v
    let v := match ch.act with | some t => pwl t new v | none => v
    let v := match ch.scale with | some b => fmtF32.mul env v ((b[n]?).getD 0) | none => v
    let (y, sat) := chainOut v code
    (y, flagBit sat 3)

/-- The output bytes of a slot in row order, and STATUS (R276). -/
def Slot.output (x : Slot) (ch : Option Chain) (code widx : Nat) : List Byte × Nat :=
  let nb := outBytes code
  let one (r n : Nat) : Nat × Nat := outElem ch code (wordHash widx) r n ((x.acc.find (accKey r n)).getD (Acc.zero 0))
  let es := (List.range x.m).flatMap fun r => (List.range x.n).map fun n => one r n
  let accs := x.acc.map Prod.snd
  let sticky := flagBit (accs.any Acc.ovf) 0 ||| flagBit (accs.any fun a => a.nan.isSome || a.pinf || a.ninf) 1 |||
    flagBit x.replayed 2
  (es.flatMap fun e => leBytes nb e.1, es.foldl (fun b e => b ||| e.2) sticky)

namespace State

/-- CHECK AND READ what a CLOSE needs: its output record and its chain (R271, R275). A nonzero reserved word of the mask block is
ignored (R5). -/
def closeJob (s : State) (i : Nat) (c : MatCmd) (sl : Slot) : SpanM (Shape × Option Chain) := do
  let t := s.thread i
  let check (b : Bool) (d : Nat) : SpanM Unit := if b then .ok () else .error (.fault 0x20 d)
  check (sl.ksum == sl.ktotal) 4
  let out : Part := ⟨1, 64 * c.out, 64⟩
  let head : Part := ⟨1, 64 * c.mask, 16⟩
  let chain : Part := ⟨1, 64 * c.chain, 64⟩
  let chains := c.bias || c.quant
  t.wantGood ([out] ++ (if c.masks then [head] else []) ++ if chains then [chain] else [])
  let o := Shape.ofBytes (t.held out)
  let quantOnly := o.format == 0x07 || o.format == 0x08 || o.format == 0x09 || o.format == 0x0A
  check (decide (o.space ≤ 1) && outBytes o.format != 0 && (c.quant || !quantOnly) && o.blen == 0) 2
  check (o.rows == sl.m && o.cols == sl.n) 3
  check (!summaryUndefined o) 8
  let len := sl.n * outBytes o.format
  check (o.space == 0 || decide (o.base + (sl.m - 1) * o.stride + len ≤ Config.basinTop)) 7
  let h := t.held head
  let off := recNat h 8 4
  check (!c.masks || (decide (1 ≤ recNat h 0 4) && decide (recNat h 0 4 ≤ 1024) && decide (sl.m - 1 + off < recNat h 0 4) &&
    decide (64 * c.mask + 16 + 8 * (off + sl.m) ≤ Config.basinTop))) 5
  let block := if chains then t.held chain else List.replicate 64 0
  let bva := recNat block 0 8
  let sva := recNat block 8 8
  check ((block.drop 16).all (fun b => b == 0) && (c.bias || bva == 0) && (c.quant || sva == 0) && bva % 4 == 0 && sva % 4 == 0) 6
  let rows : Part := ⟨1, 64 * c.mask + 16 + 8 * off, 8 * sl.m⟩
  let bias : Part := ⟨0, bva, 4 * sl.n⟩
  let scale : Part := ⟨0, sva, 4 * sl.n⟩
  t.wantGood ((if c.masks then [rows] else []) ++ (if c.bias then [bias] else []) ++ if c.quant then [scale] else [])
  let words (r : Part) : List Nat := (List.range sl.n).map fun j => recNat (t.held r) (4 * j) 4
  let act ← (if c.acts then do
      let t ← s.deckBytes (deckKey t.core (64 + c.act) 0) 2064
      check (!tableBad t) 6
      .ok (some t)
    else .ok none)
  if sl.flaw then .error (.fault 0x25 0)
  else .ok (o, if decide (c.ctl < 16) then none else some
    { mask := if c.masks then some ((List.range sl.m).map (fun r => recNat (t.held rows) (8 * r) 8), recNat h 4 4) else none,
      bias := if c.bias then some (words bias) else none, act := act, scale := if c.quant then some (words scale) else none })

/-! ### The moves of the span array -/

/-- The thread whose command heads a core's queue. -/
def spanHead (s : State) (core : Nat) : Option Nat := (s.core core).matrixQueue.head?

def slot (s : State) (core n : Nat) : Slot := (s.core core).slots.getOr n Slot.blank

def setSlot (s : State) (core n : Nat) (x : Slot) : State := s.modCore core fun c => { c with slots := c.slots.put n x }

/-- Whether a command holds what it has asked for, and has not formed its output; a pre-emption holds it at its K-step (R373). -/
def spanAble (s : State) (i : Nat) : Bool :=
  (s.thread i).ended.isNone && !(s.thread i).fired && (s.thread i).todo = [] && (s.thread i).parks = [] && !s.leaving (s.thread i).asid

/-- Whether the head command is at a step (0 to accumulate, 1 to close, 2 to run its run again) and may go on. -/
def spanReady (s : State) (core : Nat) (step : Nat → Bool) (p : MatCmd → Bool) : Bool :=
  step (s.core core).matrixStep && (s.spanHead core).any fun i =>
    s.spanAble i && !s.slowed (s.thread i) && p (MatCmd.ofBytes (s.thread i).record)

/-- A command ends with a fault, under its index within the run (Table 9-4); shape traps, summary faults and uncorrected errors leave
the slot CLOSED (R271, R396). Accumulators with an uncorrectable error are logged when they are read (R394). -/
def spanFault (s : State) (core i code detail : Nat) : State :=
  let n := (MatCmd.ofBytes (s.thread i).record).slot
  let index := s.faultIndex (s.thread i)
  let s := if code = 0x25 ∧ (s.slot core n).flaw
    then s.errorRecord (dieOfCore core) 1 1 0 (s.denseCore core) (s.thread i).asid (3 * 2 ^ 32 + 8192 * n) else s
  let s := if code = 0x20 ∨ code = 0x22 ∨ code = 0x25 then s.setSlot core n Slot.blank else s
  s.endThread i code index detail

/-- A command that did not act: it ends, or reads on. -/
def spanStop (s : State) (core i : Nat) : SpanStop → State
  | .fault code detail => s.spanFault core i code detail
  | .bad key => (s.noteBad core (s.thread i).asid key).spanFault core i 0x25 0
  | .need ws => s.modThread i fun t => { t with todo := ws }

/-- Let go of the bytes that a command has read. -/
def dropHeld (s : State) (i : Nat) : State := s.modThread i fun t => { t with buffer := [], poisoned := [] }

/-- The command of a thread as its run keeps it, with the word that kicked it. -/
def keptCmd (t : Thread) : List Byte := t.record ++ leBytes 8 t.widx

/-- The K-steps of a run that begin within `k` values from the `k₀`-th (R273; DEDUCED, log 65: a step that two commands share is
charged to the one that begins it). -/
def stepsFrom (k₀ k : Nat) : Nat := ceilDiv (k₀ + k) 128 - ceilDiv k₀ 128

/-- ACCUMULATE the head command of a core (R271, R272). -/
def spanAccumulate (s : State) (core : Nat) : State :=
  match s.spanHead core with
  | none => s
  | some i =>
    let c := MatCmd.ofBytes (s.thread i).record
    let sl := s.slot core c.slot
    match s.spanJob i c sl none with
    | .error e => s.spanStop core i e
    | .ok j =>
      let t := s.thread i
      let from_ := if c.opens then 0 else sl.ksum
      let s := s.setSlot core c.slot ((if c.opens then Slot.start j false else sl).accumulate j (keptCmd t) t.widx)
      let s := (s.dropHeld i).modThread i fun t => { t with steps := stepsFrom from_ j.k }
      if c.closes then s.modCore core fun x => { x with matrixStep := 1 } else s.endThread i 0 0 0

/-- Run the commands of a run again from OPEN, on the emaxes of its first time (R274). -/
def rerun (s : State) (i : Nat) (es : List Int × List Int) (sl : Slot) : List (List Byte) → SpanM Slot
  | [] => .ok sl
  | cmd :: r => do
    let c := MatCmd.ofBytes cmd
    let j ← s.spanJob i c sl (some es)
    s.rerun i es ((if c.opens then Slot.start j true else sl).accumulate j cmd (recNat cmd 16 8)) r

/-- Log a mismatch of the checksum column (R274; Tables 20-1 and 20-3: row 6, detected and replayed, found by the CLOSE check). -/
def logMismatch (s : State) (core i : Nat) : State :=
  s.errorRecord (dieOfCore core) 6 2 2 (s.denseCore core) (s.thread i).asid (64 * core)

/-- Put a slot in place and go to a step of the head command, which reads anew. -/
def spanStep (s : State) (core i n step : Nat) (sl : Slot) : State :=
  ((s.setSlot core n sl).dropHeld i).modCore core fun x => { x with matrixStep := step }

/-- RUN AGAIN the run whose checksum did not agree (R274). -/
def spanReplay (s : State) (core i : Nat) : State :=
  let n := (MatCmd.ofBytes (s.thread i).record).slot
  let x := s.slot core n
  match s.rerun i (x.ea, x.eb) Slot.blank x.cmds with
  | .error e => s.spanStop core i e
  | .ok sl => s.spanStep core i n 1 sl

/-- The run of a thread's slot on its operands as they stand now: none where a word of them does not read, no slot where they give a fault. -/
def runNow (s : State) (i : Nat) (es : List Int × List Int) (cmds : List (List Byte)) : Nat → Option (Option Slot)
  | 0 => none
  | fuel + 1 =>
    match s.rerun i es Slot.blank cmds with
    | .ok y => some (some y)
    | .error (.fault _ _) => some none
    | .error (.bad _) => none
    | .error (.need ws) => (ws.foldl (fun t w => t.readTodo i w) s).runNow i es cmds fuel

/-- The rows of a run's output that rest on operands which changed before the CLOSE (R274). -/
def changedRows (s : State) (i : Nat) (x : Slot) : List Nat :=
  match (s.dropHeld i).runNow i (x.ea, x.eb) x.cmds 512 with
  | none => []
  | some none => List.range x.m
  | some (some y) => (List.range x.m).filter fun r => (List.range x.n).any fun n => x.acc.find (accKey r n) != y.acc.find (accKey r n)

/-- The free value that stands at byte `n` of an output. -/
def freeByte (s : State) (n : Nat) : Byte :=
  BitVec.ofNat 8 ((List.range 8).foldl (fun b j => 2 * b + flagBit (Config.freeLane s.fresh (n + 8) 0 j) 0) 0)

/-- The output bytes of a CLOSE, and STATUS: those of the slot, but free values in a row whose operands changed before (R274). -/
def outputOf (s : State) (i : Nat) (x : Slot) (ch : Option Chain) (code widx : Nat) : List Byte × Nat :=
  let o := x.output ch code widx
  match s.changedRows i x with
  | [] => o
  | rows =>
    (o.1.zipIdx.map fun (b, n) =>
      if rows.contains (n / max (outBytes code * x.n) 1) then s.freeByte n else b, o.2)

/-- CLOSE the head command of a core: the checksum, the output chain, STATUS, the output in the thread's hands, which heads the queue until
its output is written and counted and the slot CLOSED (R271, R274–R276). -/
def spanOutput (s : State) (core i : Nat) : State :=
  let c := MatCmd.ofBytes (s.thread i).record
  let sl := s.slot core c.slot
  match s.closeJob i c sl with
  | .error e => s.spanStop core i e
  | .ok (o, ch) =>
    if !sl.checked then
      let s := s.logMismatch core i
      if sl.replayed then s.spanFault core i 0x25 0 else s.spanStep core i c.slot 2 sl
    else
      let (bytes, status) := s.outputOf i sl ch o.format (s.thread i).widx
      let s := s.engineWrite (dieOfCore core) (keyAt basinSpace core (64 * c.out + 0x24)) 0 4 status
      (s.modThread i fun t => { t with buffer := bytes.zipIdx.map fun (b, n) => (n, b), poisoned := [], fired := true }).complete i

/-- CLOSE, or run again, the head command of a core. -/
def spanClose (s : State) (core : Nat) : State :=
  match s.spanHead core with
  | none => s
  | some i => if (s.core core).matrixStep = 2 then s.spanReplay core i else s.spanOutput core i

end State

/-- R267, R271. -/
def execMatrixOpen (core : Nat) (s : State) : Out :=
  s.onlyIf (s.spanReady core (· == 0) MatCmd.opens) fun s => s.spanAccumulate core

/-- R271. -/
def execMatrixAccumulate (core : Nat) (s : State) : Out :=
  s.onlyIf (s.spanReady core (· == 0) fun c => !c.opens) fun s => s.spanAccumulate core

/-- R274, R275. -/
def execMatrixClose (core : Nat) (s : State) : Out :=
  s.onlyIf (s.spanReady core (· != 0) MatCmd.closes) fun s => s.spanClose core

/-! ### The Trestle unit (R278–R280) -/

/-- The symbols of a command as a thread holds them. -/
def TrestleCmd.symbols (c : TrestleCmd) (t : Thread) : List Nat :=
  (List.range c.len).map fun p => recNat (t.held ⟨0, c.str + 4 * p, 4⟩) 0 4

/-- The map of a symbol: the bytes of its states. -/
def TrestleCmd.map (c : TrestleCmd) (sym : Nat) : Part := ⟨0, c.maps + 256 * sym, c.states⟩

/-- The states after 0, 1, … symbols, the newest first (R278). -/
def TrestleCmd.run (c : TrestleCmd) (t : Thread) (syms : List Nat) : List Nat :=
  syms.foldl (fun q sym =>
    let now := q.headD 0
    (if c.states ≤ now then now else recNat (t.held ⟨0, c.maps + 256 * sym + now, 1⟩) 0 1) :: q) [c.start]

/-- The words of maps that the states of a run read. -/
def TrestleCmd.trail (c : TrestleCmd) (states syms : List Nat) : List Part :=
  (states.zip syms).filterMap fun (now, sym) => if c.states ≤ now then none else some ⟨0, c.maps + 256 * sym + now, 1⟩

namespace State

/-- The output of a Trestle command (R280), and whether a word that it rests on was poisoned. -/
def trestleOut (s : State) (i : Nat) (c : TrestleCmd) : SpanM (List Byte × Bool) := do
  let t := s.thread i
  let str : Part := ⟨0, c.str, 4 * c.len⟩
  let list : Part := ⟨0, c.list, 4 * c.listed⟩
  let head : Part := ⟨0, c.legal, 8⟩
  let first := [str] ++ (if bitOf c.sel 1 then [list] else []) ++ if bitOf c.sel 2 then [head] else []
  t.want first
  let syms := c.symbols t
  match syms.findIdx? fun x => decide (c.alpha ≤ x) with
  | some p => .error (.fault 0x30 (p % 256))
  | none =>
    t.want (syms.eraseDups.map c.map)
    let states := c.run t syms
    let last := states.headD 0
    let w := recNat (t.held head) 0 4
    let n := recNat (t.held head) 4 4
    let row : Part := ⟨0, c.legal + 16 + 4 * (last * w), if bitOf c.sel 2 && decide (last < n) then 4 * w else 0⟩
    t.want [row]
    let state (p : Nat) : Byte :=
      if p ≤ c.len then BitVec.ofNat 8 ((states[c.len - p]?).getD 0)
      else BitVec.ofNat 8 ((List.range 8).foldl (fun v j => 2 * v + if Config.freeLane s.fresh 8 p j then 1 else 0) 0)
    let one := if bitOf c.sel 0 then leBytes 4 last else []
    let ps := if bitOf c.sel 1 then (List.range c.listed).map fun k => recNat (t.held list) (4 * k) 4 else []
    let two := ps.map state ++ List.replicate (roundUp ps.length 4 - ps.length) 0
    let three := if bitOf c.sel 2 then t.held row ++ List.replicate (4 * w - row.len) 0 else []
    .ok (one ++ two ++ three, (first ++ [row] ++ c.trail states.tail.reverse syms).any t.heldBad)

/-- Whether a Trestle thread is still to run and holds what it has asked for, and whether it may. -/
def trestleAble (s : State) (i : Nat) : Bool :=
  let t := s.thread i
  decide (t.kind = .trestle) && t.ended.isNone && !t.fired && t.todo = [] && t.parks = []
def trestleReady (s : State) (i : Nat) : Bool := s.trestleAble i && !s.slowed (s.thread i)

/-- RUN a Trestle thread up to its output, which it then writes word by word; a fault writes none (R278). A poisoned word that it rests on
poisons every byte of it (DESIGN CHOICE, log 23). -/
def runTrestle (s : State) (i : Nat) : State :=
  match s.trestleOut i (TrestleCmd.ofBytes (s.thread i).record) with
  | .error (.need ws) => s.modThread i fun t => { t with todo := ws }
  | .error (.fault code index) => s.endThread i code index 0
  | .error (.bad _) => s
  | .ok (bytes, bad) =>
    (s.modThread i fun t =>
      { t with buffer := bytes.zipIdx.map fun (b, n) => (n, b), fired := true,
               poisoned := if bad then List.range bytes.length else [] }).complete i

end State

/-- R278–R280. -/
def execTrestleThread (i : Nat) (s : State) : Out := s.onlyIf (s.trestleReady i) fun s => s.runTrestle i

end Sys2Proof.Machine
end

