-- ==== Sys2Proof/Machine/SaveArea.lean ====
section
/-! DEFINITION. The save area (R229, R230, R272, R373, R374, Table 16-9): what a save writes there of each gang and core, and what a
restore takes from it. Table 16-9 names the sections; they stand one after the other, in a layout that is the model's (log 24). -/

namespace Sys2Proof.Machine

/-- A section: its bytes, a multiple of 64 of them; those that are not zero by their offsets; the offsets of its poisoned words. -/
structure Section where
  len : Nat
  cells : List Host.Cell
  bad : List Nat
  deriving DecidableEq, Repr

/-- A section of plain bytes. -/
def Section.ofBytes (b : List Byte) : Section :=
  { len := roundUp b.length 64, cells := b.zipIdx.filterMap fun (v, i) => if v = 0 then none else some (i, v), bad := [] }

/-- `n` bytes from offset `o` of rising cells. -/
def expand : Nat → Nat → List Host.Cell → List Byte
  | 0, _, _ => []
  | n + 1, o, [] => 0 :: expand n (o + 1) []
  | n + 1, o, (j, v) :: r => if j = o then v :: expand n (o + 1) r else 0 :: expand n (o + 1) ((j, v) :: r)

/-- All bytes of a section. -/
def Section.bytes (x : Section) : List Byte := expand x.len 0 x.cells

/-- A part of a section, its offsets counted from its first byte. -/
def Section.part (x : Section) (lo n : Nat) : Section :=
  let own (j : Nat) : Bool := decide (lo ≤ j) && decide (j < lo + n)
  { len := n, cells := (x.cells.filter fun c => own c.1).map fun c => (c.1 - lo, c.2), bad := (x.bad.filter own).map (· - lo) }

/-- A list in pieces of `n`; `f` bounds their number. -/
def piecesOf {α : Type} (n : Nat) : Nat → List α → List (List α)
  | 0, _ => []
  | f + 1, xs => if xs = [] then [] else xs.take n :: piecesOf n f (xs.drop n)

namespace State

/-! ### Moving sections -/

/-- The lines of `n` bytes at a place that hold anything, or stand under another key id (R376). -/
def usedLines (s : State) (pa kid n : Nat) : List Nat :=
  let hit (k : Nat) : Option Nat := if pa ≤ k ∧ k < pa + n then some ((k - pa) / 64) else none
  let held := (s.mem.filterMap fun c => hit c.1) ++ s.poison.filterMap fun w => hit (4 * w)
  let held := held.foldl addSorted []
  (List.range (n / 64)).filter fun i =>
    held.contains i || (keySpace pa == devSpace && [0, 1, 2, 3].any fun j => s.keyOf.getOr ((pa + 64 * i) / 16 + j) 0 != kid)

/-- Write a part of a section at a place, a line at a time; lines that are zero before and after stay. -/
def putPart (s : State) (x : Xlat) (p : Section) : State :=
  let mine := ((p.cells.map fun (c : Host.Cell) => c.1 / 64) ++ p.bad.map fun o => o / 64).foldl addSorted []
  let lines := (s.usedLines x.pa x.kid p.len ++ mine).foldl addSorted []
  let s := lines.foldl (fun s i => s.engineWrite 0 (x.pa + 64 * i) x.kid 64 (leNat (p.part (64 * i) 64).bytes)) s
  p.bad.foldl (fun s o => s.setPoison (x.pa + o) 4) s

/-- What stands at a place. -/
def getPart (s : State) (x : Xlat) (n : Nat) : Section :=
  let line (i : Nat) : List Host.Cell :=
    (leBytes 64 (s.homeRead (x.pa + 64 * i) x.kid 64)).zipIdx.filterMap fun (v, j) => if v = 0 then none else some (64 * i + j, v)
  { len := n, cells := (s.usedLines x.pa x.kid n).flatMap line,
    bad := s.poison.filterMap fun w => if x.pa ≤ 4 * w ∧ 4 * w < x.pa + n then some (4 * w - x.pa) else none }

/-- Write a section's parts at their places. -/
def putParts (s : State) (p : Section) : Nat → List (Xlat × Nat) → State
  | _, [] => s
  | o, (x, n) :: r => (s.putPart x (p.part o n)).putParts p (o + n) r

/-- Read a section's parts from their places. -/
def getParts (s : State) : Nat → List (Xlat × Nat) → Section
  | _, [] => ⟨0, [], []⟩
  | o, (x, n) :: r =>
    let p := s.getPart x n
    let q := s.getParts (o + n) r
    { len := n + q.len, cells := p.cells.map (fun c => (o + c.1, c.2)) ++ q.cells, bad := p.bad.map (o + ·) ++ q.bad }

/-- Write sections one after the other from a VA on, those that translate (log 24). -/
def putSections (s : State) (asid va : Nat) : List Section → State
  | [] => s
  | p :: r =>
    let s := match s.unitPlaces asid .write (parts va p.len) with
      | .ok xs => s.putParts p 0 xs
      | .error _ => s
    s.putSections asid (va + p.len) r

/-- Read sections of given lengths from a VA on; none where one does not translate. -/
def getSections (s : State) (asid va : Nat) : List Nat → Option (List Section)
  | [] => some []
  | n :: r =>
    match s.unitPlaces asid .read (parts va n) with
    | .error _ => none
    | .ok xs => (s.getSections asid (va + n) r).map fun ps => s.getParts 0 xs :: ps

end State

/-! ### A gang (R229, R230, Table 10-4) -/

/-- The bytes of a gang's first section, where its allotment and role stand in it, and its parked words. -/
def gangLen : Nat := 0x2980
def gangTail : Nat := 0x2900

/-- The parked word of a slice. -/
def parkBytes (x : Option Slice) : List Byte :=
  match x.bind Slice.park with
  | some p => leBytes 4 p.widx.toNat ++ leBytes 4 p.pmask.toNat ++ leBytes 4 1
  | none => leBytes 12 0

namespace State

/-- Whether a slice stopped at a `hint`, which then governs its save. -/
def atHint (x : Slice) : Bool := x.halted && x.hint.isSome

/-- The first section of a gang: the dump sections of Table 10-4, registers as its slices' hints name them, then the rest. -/
def gangSection (s : State) (g : Nat) : Section :=
  let y := s.gang g
  let keep (k n : Nat) : Bool :=
    let x := s.slice g k
    if atHint x then (x.hint.getD 0).getLsbD n else true
  let dump := (match y.stop with | some t => s.stopRecord g t | none => List.replicate 64 0) ++
    s.gangSections g ((s.liveSlices g).headD 0) keep
  let b := dump ++ List.replicate (gangTail - dump.length) 0 ++ leBytes 4 y.allot ++ leBytes 4 y.role ++
    (List.range 8).flatMap fun k => parkBytes (y.slices.find k)
  { Section.ofBytes b with len := gangLen }

end State

/-- The resident frames of a slice with their places in its list, the oldest first (R218). -/
def residentFrames (x : Slice) : List (Nat × Frame) := ((x.frames.takeWhile fun f => !f.spilled).zipIdx.map fun (f, i) => (i, f)).reverse

/-- The resident frames of a slice with their headers (R230). -/
def frameSection (y : Gang) (x : Slice) : Section :=
  Section.ofBytes ((residentFrames x).flatMap fun (i, f) => frameRecord y x i f)
def frameLen (x : Slice) : Nat := roundUp ((residentFrames x).map fun p => p.2.bytes).sum 64

/-- The slice's record of a gang's first section, and the tags of its window. -/
def sliceBytes (b : List Byte) (k : Nat) : List Byte := (b.drop (64 + 128 * k)).take 128
def tagBytes (b : List Byte) (k : Nat) : List Byte := (b.drop (64 + 1024 + 128 + 8192 + 64 * k)).take 64

/-- Whether a slice's record and tags in the save area keep R8 and R229. -/
def sliceOk (ring : Nat) (b : List Byte) (k : Nat) : Bool :=
  let r := sliceBytes b k
  zeroAt r 7 1 && decide (recNat r 6 1 < 16) && decide (recNat r 5 1 ≤ 8) && zeroAt r 0x1E 2 && zeroAt r 0x60 32 &&
    decide (recNat r 0x1C 2 < ring) && ((List.range 8).all fun i => decide (recNat r (0x20 + 8 * i) 8 < 2 ^ 41)) &&
    (tagBytes b k).all fun x => x.toNat % 16 != 15

/-- A stack entry of a slice's record. -/
def stackEntry (v : Nat) : StackEntry :=
  ⟨BitVec.ofNat 32 v, BitVec.ofNat 4 (bitsOf v 32 4), BitVec.ofNat 4 (bitsOf v 36 4), bitOf v 40⟩

/-- Where the sections of Table 10-4 behind the slice records stand in a gang's first section: the trap nest records, and the special
registers. -/
def nestAt : Nat := 64 + 1024
def csrAt : Nat := 64 + 1024 + 128 + 8192 + 512 + 64 + 28 + 64

/-- The trap levels of a slice, the innermost first, at the depths that its record and its trap nest record give (Tables 7-3, 10-4). -/
def loadLevels (b : List Byte) (k : Nat) (ls : List TrapLevel) : List TrapLevel :=
  ls.zipIdx.map fun (t, i) =>
    { t with depth := if i = 0 then recNat (sliceBytes b k) 0x0C 4 else recNat b (nestAt + 16 * k + 4 * (i - 1)) 4 }

/-- A slice as its records in the save area give it: PC, masks, stack, towpath pointer, window base, trap levels, its parked word; its
current window, whose registers that a governing `hint` did not name read zero tagged RAW (R374). -/
def loadSlice (y : Gang) (b : List Byte) (k : Nat) (x : Slice) : Slice :=
  let allot := y.allot
  let r := sliceBytes b k
  let p := (b.drop (gangTail + 8 + 12 * k)).take 12
  let reg (n : Nat) : Reg :=
    if State.atHint x && !(x.hint.getD 0).getLsbD n then Reg.zero
    else Reg.ofBytes ((b.drop (64 + 1024 + 128 + 1024 * k + 16 * n)).take 16) (((tagBytes b k)[n]?).getD 0)
  let wb := recNat r 0x1C 2
  { x with
    pc := BitVec.ofNat 32 (recNat r 0 4), mask := BitVec.ofNat 4 (recNat r 4 1), live := BitVec.ofNat 4 (recNat r 4 1 / 16),
    stack := ((List.range (recNat r 5 1)).map fun i => stackEntry (recNat r (0x20 + 8 * i) 8)).reverse, wb := wb,
    towPtr := recNat r 0x10 8 - towVa y k 0, levels := loadLevels b k x.levels,
    park := x.park.map fun q => { q with widx := BitVec.ofNat 32 (recNat p 0 4), pmask := BitVec.ofNat 4 (recNat p 4 4) },
    regs := (List.range 64).foldl (fun m n => m.put (storageOf allot wb n) (reg n)) x.regs }

/-- Whether a frame's tags in the save area are none of them 15 (R8); `b` are the frames' records from its own on. -/
def framesOk : List (Nat × Frame) → List Byte → Bool
  | [], _ => true
  | (_, f) :: r, b =>
    (((b.drop (16 * f.slide)).take f.slide).all fun x => x.toNat % 16 != 15) && framesOk r (b.drop f.bytes)

/-- The resident frames of a slice back in the ring at the same window base, with their linkage (R230). -/
def loadFrames (y : Gang) : List (Nat × Frame) → List Byte → Slice → Slice
  | [], _, x => x
  | (i, f) :: r, b, x =>
    let f' := (f.ofHeader (recNat b (f.bytes - 16) 16)).getD f
    let one (j : Nat) : Reg := Reg.ofBytes ((b.drop (16 * j)).take 16) ((b[16 * f.slide + j]?).getD 0)
    let base := frameBase y x i
    loadFrames y r (b.drop f.bytes)
      { x with frames := x.frames.set i f',
               regs := (List.range f.slide).foldl (fun m j => m.put (8 + (base + j) % y.ring) (one j)) x.regs }

/-- Whether an allotment is one that a quarter can hold (R212, R374). -/
def allotOk (n : Nat) : Bool := [64, 128, 256, 512, 1024].contains n

/-- The special registers of a gang as its first section gives them, 0x000–0x05F in ID order (Tables 2-8, 2-12, 10-4). -/
def loadCsrs (b : List Byte) (y : Gang) : Gang :=
  let word (id : Nat) : Word := BitVec.ofNat 32 (recNat b (csrAt + 4 * id) 4)
  { y with
    launchId := word 4, grp := word 6, berth := word 7, step := word 8, seed := word 0x15 ++ word 0x14, rngs := word 0x17 ++ word 0x16,
    lgl := word 0x18, fpmode := word 0x30, schk := (word 0x31).getLsbD 0, frag := (word 0x31).getLsbD 1,
    mix := bitsOf (word 0x31).toNat 8 5, pmiss := word 0x50 }

/-- Those of the slice that the section gives them for, its first live one. -/
def loadTrapCsrs (b : List Byte) (x : Slice) : Slice :=
  let word (id : Nat) : Word := BitVec.ofNat 32 (recNat b (csrAt + 4 * id) 4)
  { x with
    vsel := word 0x23, tcause := word 0x40, tpc := word 0x41, amask := word 0x42, tmask := word 0x43, tinfo := word 0x44,
    tinfo2 := word 0x45, tregion := word 0x46, pmask := word 0x47 }

/-- A gang as its sections in the save area give it, none where the restore refuses it (R8, R229, R374). -/
def loadGang (y : Gang) (b : List Byte) (fs : List (List Byte)) : Option Gang :=
  let allot := recNat b gangTail 4
  let xs := y.slices.zip fs
  if !allotOk allot ∨ (xs.any fun ((k, x), f) => !sliceOk (allot - 8) b k || !framesOk (residentFrames x) f) then none
  else
    let y := loadCsrs b { y with allot := allot, role := recNat b (gangTail + 4) 4 }
    let first := ((xs.find? fun ((_, x), _) => x.live != 0).map fun x => x.1.1).getD 0
    let load (k : Nat) (x : Slice) : Slice := loadSlice y b k (if k = first then loadTrapCsrs b x else x)
    let word (o : Nat) : Word := BitVec.ofNat 32 (recNat b o 4)
    let at_ := 64 + 1024 + 128 + 8192 + 512 + 64
    some { y with
      preds := (List.range 7).map fun p => (p + 1, word (at_ + 4 * p)), masks := (List.range 16).map fun q => (q, word (at_ + 28 + 4 * q)),
      slices := xs.map fun ((k, x), f) => (k, loadFrames y (residentFrames x) f (load k x)) }

/-! ### A core (Table 16-9) -/

/-- Sections of the Basin and of the deck store; the bytes of a core's Basin that are saved lie in `rs`. -/
def inRanges (rs : List (Nat × Nat)) (a : Nat) : Bool := rs.any fun r => decide (r.1 ≤ a) && decide (a < r.1 + r.2)

namespace State

/-- The bytes and poisoned words of a space of a core, as a section; `off` gives those that belong to it their offsets. -/
def coreSection (s : State) (space c len : Nat) (off : Nat → Option Nat) : Section :=
  let own (k : Nat) : Option Nat := if keySpace k = space ∧ keyNode k = c then off (keyAddr k) else none
  { len := len, cells := s.mem.filterMap fun m => (own m.1).map fun o => (o, m.2), bad := s.poison.filterMap fun w => own (4 * w) }

/-- Put a section back into a space of a core, over `old`, the bytes that it replaces. -/
def fillCore (s : State) (space c : Nat) (p : Section) (old : Nat → Bool) (addr : Nat → Nat) : State :=
  let own (k : Nat) : Bool := keySpace k == space && keyNode k == c && old (keyAddr k)
  { s with
    mem := p.cells.foldl (fun m x => Memory.write m (keyAt space c (addr x.1)) x.2) (s.mem.filter fun m => !own m.1),
    poison := p.bad.foldl (fun m o => addSorted m (keyAt space c (addr o) / 4)) (s.poison.filter fun w => !own (4 * w)) }

end State

/-- Offsets of the deck store's column slices in its section, 32 KiB each. -/
def deckOffset (a : Nat) : Option Nat := if a / 2 ^ 16 < 64 ∧ a % 2 ^ 16 < 2 ^ 15 then some (a / 2 ^ 16 * 2 ^ 15 + a % 2 ^ 16) else none
def deckAddr (o : Nat) : Nat := o / 2 ^ 15 * 2 ^ 16 + o % 2 ^ 15

/-- The summary entries of a core: 0 for EMPTY, else the emax and 2^15. -/
def summarySection (m : FMap Int) : Section :=
  Section.ofBytes ((List.range 8192).flatMap fun i => leBytes 2 (((m.find i).map fun e => wrapNat (e + 2 ^ 15) 16).getD 0))
def summaryOf (b : List Byte) : FMap Int :=
  (piecesOf 2 8192 b).zipIdx.filterMap fun (v, i) => if leNat v = 0 then none else some (i, (leNat v : Int) - 2 ^ 15)

/-- An accumulator with its anchor and flags. -/
def accBytes : Option Acc → List Byte
  | none => leBytes 32 0
  | some a =>
    leBytes 16 (wrapNat a.sum 128) ++ leBytes 4 (wrapNat a.anchor 32) ++ leBytes 4 (a.nan.getD 0).toNat ++
      leBytes 4 (1 + flagBit a.ovf 1 + flagBit a.nan.isSome 2 + flagBit a.pinf 3 + flagBit a.ninf 4) ++ leBytes 4 a.check
def accOf (b : List Byte) : Option Acc :=
  let f := recNat b 24 4
  if bitOf f 0 then
    some ⟨signedOf (recNat b 0 16) 128, signedOf (recNat b 16 4) 32, bitOf f 1, if bitOf f 2 then some (BitVec.ofNat 32 (recNat b 20 4)) else none,
          bitOf f 3, bitOf f 4, recNat b 28 4⟩
  else none

/-- The commands of the run of a slot that is open. -/
def Slot.run (x : Slot) : Option Nat := if x.opened then some x.cmds.length else none

/-- The anchors of rows and columns as bytes. -/
def anchorBytes (n : Nat) (xs : List Int) : List Byte := (List.range n).flatMap fun i => leBytes 4 (wrapNat ((xs[i]?).getD 0) 32)
def anchorsOf (n : Nat) (b : List Byte) : List Int := (piecesOf 4 n b).map fun v => signedOf (leNat v) 32

/-- A slot: state, tag, M, N, KTOTAL, the next k, anchors, accumulators, the command list (R272). -/
def Slot.section (x : Slot) : Section :=
  Section.ofBytes (if !x.opened then leBytes 64 0 else
    leBytes 1 1 ++ leBytes 1 x.tag.code ++ leBytes 1 (flagBit x.replayed 0) ++ leBytes 1 0 ++ leBytes 2 x.m ++ leBytes 2 x.n ++
      leBytes 4 x.ktotal ++ leBytes 4 x.ksum ++ leBytes 2 x.ea.length ++ leBytes 2 x.eb.length ++ leBytes 44 0 ++
      anchorBytes 128 x.ea ++ anchorBytes 64 x.eb ++ ((List.range 8192).flatMap fun i => accBytes (x.acc.find i)) ++ x.cmds.flatten)
def slotLen : Option Nat → Nat
  | none => 64
  | some n => 64 + 768 + 2 ^ 18 + roundUp (24 * n) 64

/-- A slot from its section, which held `n` commands; none under tag 15 (R8). -/
def Slot.ofBytes (n : Nat) (b : List Byte) : Option Slot :=
  if recNat b 0 1 = 0 then some Slot.blank
  else if recNat b 1 1 % 16 = 15 then none
  else
    let acc := (piecesOf 32 8192 (b.drop 832)).zipIdx.filterMap fun (v, i) => (accOf v).map fun a => (i, a)
    some { Slot.blank with
      opened := true, tag := Tag.ofCode (recNat b 1 1 % 16), replayed := bitOf (recNat b 2 1) 0, m := recNat b 4 2, n := recNat b 6 2,
      ktotal := recNat b 8 4, ksum := recNat b 12 4, ea := anchorsOf (recNat b 16 2) (b.drop 64), eb := anchorsOf (recNat b 18 2) (b.drop 576),
      acc := acc, cmds := piecesOf 24 n ((b.drop (832 + 2 ^ 18)).take (24 * n)) }

namespace State

/-- The sections of a core: the Basin with the barrier area, the summaries, the deck store, the four slots. -/
def coreSections (s : State) (c : Nat) (rs : List (Nat × Nat)) : List Section :=
  s.coreSection basinSpace c (2 ^ 20) (fun a => if inRanges rs a then some a else none) :: summarySection (s.core c).summary ::
    s.coreSection deckSpace c (2 ^ 21) deckOffset :: (List.range 4).map fun i => (s.slot c i).section

end State

/-- The lengths of what a save wrote of a core, and of everything. -/
def SavedCore.lens (v : SavedCore) : List Nat := [2 ^ 20, 16384, 2 ^ 21] ++ v.runs.map slotLen
def gangLens (y : Gang) : List Nat := gangLen :: y.slices.map fun (_, x) => frameLen x
def Saved.lens (v : Saved) : List Nat := 64 :: (v.gangs.flatMap fun (_, y) => gangLens y) ++ v.cores.flatMap fun (_, c) => c.lens

/-- The saved gangs from their sections, and the sections behind them; none where one is refused. -/
def loadGangs : FMap Gang → List Section → Option (FMap Gang × List Section)
  | [], ps => some ([], ps)
  | (g, y) :: r, ps => do
    let n := y.slices.length
    let y ← loadGang y ((ps.head?.map Section.bytes).getD []) ((ps.tail.take n).map Section.bytes)
    let (ys, ps) ← loadGangs r (ps.drop (n + 1))
    pure ((g, y) :: ys, ps)

/-- The slots of a core from their sections. -/
def loadSlots : List (Option Nat) → List Section → Option (List Slot)
  | [], _ => some []
  | n :: r, ps => do
    let x ← Slot.ofBytes (n.getD 0) ((ps.head?.map Section.bytes).getD [])
    let xs ← loadSlots r ps.tail
    pure (x :: xs)

/-- What a restore loads of a core. -/
structure CoreLoad where
  old : Nat
  saved : SavedCore
  basin : Section
  summary : FMap Int
  deck : Section
  slots : List Slot

/-- The saved cores from their sections. -/
def loadCores : FMap SavedCore → List Section → Option (List CoreLoad)
  | [], _ => some []
  | (c, v) :: r, ps => do
    let slots ← loadSlots v.runs (ps.drop 3)
    let at_ (i : Nat) : Section := (ps[i]?).getD ⟨0, [], []⟩
    let rest ← loadCores r (ps.drop 7)
    pure (⟨c, v, at_ 0, summaryOf (at_ 1).bytes, at_ 2, slots⟩ :: rest)

end Sys2Proof.Machine
end

