-- ==== Sys2Proof/Machine/EvContext.lean ====
section
/-! DEFINITION. Events of contexts: pre-emption, save, restore, the watchdog, the control store, stops and resumes by the host
(R160, R257, R301, R302, R333, R373, R374). -/

namespace Sys2Proof.Machine

/-! ### Pre-emption (R373) -/

namespace State

/-- The gangs of a context. -/
def gangsOf (s : State) (asid : Nat) : FMap Gang := s.gangs.filter fun (_, y) => y.asid == asid

/-- The deadline of a context's record. -/
def deadline (s : State) (asid : Nat) : Nat := s.ctxField asid 0x1C 4

/-- Whether the deadline of the pre-emption under way has passed. -/
def deadlineDue (s : State) : Bool := s.preempt.any fun p => !p.forced && decide (p.since + s.deadline p.asid ≤ s.now)

end State

/-- R373: a write of PREEMPT; slices at waiting or parked words stand stopped from now on, the others stop at a `hint`. -/
def execPreempt (asid : Nat) (s : State) : Out :=
  s.onlyIf (s.security.booted && s.preempt.isNone && (s.saved.find asid).isNone) fun s =>
    { s with preempt := some ⟨asid % 2 ^ 16, s.now, false, false⟩ }

/-- R373, step 2: every slice not yet stopped stops between chains. -/
def execPreemptDeadline (s : State) : Out :=
  s.onlyIf s.deadlineDue fun s => { s with preempt := s.preempt.map fun p => { p with forced := true } }

/-! ### Save (R229, R230, R257, R373, Table 16-9) -/

namespace State

/-- Whether a gang stands stopped for a save: by the pre-emption, by a stop, or not yet started. -/
def gangHalted (s : State) (g : Nat) : Bool :=
  (s.gang g).stop.isSome || !(s.gang g).started || (s.gang g).gwait.isSome || (s.liveSlices g).all fun k => s.haltedAt g k

/-- Whether a thread holds up the save of a context: only span runs that have not formed their output stop. -/
def holdsSave (s : State) (asid i : Nat) (t : Thread) : Bool := s.goesOn i && t.asid == asid && (decide (t.kind ≠ .matrix) || t.fired)

/-- Whether the save can complete. -/
def saveDue (s : State) : Bool :=
  s.preempt.any fun p =>
    (s.gangsOf p.asid).all (fun (g, _) => s.gangHalted g) && s.threads.all fun (i, t) => !s.holdsSave p.asid i t

/-- The moves of R257 that a gang's slices have yet to take; a save reads their registers (R293). -/
def settleGang (s : State) (g : Nat) : State :=
  (s.gang g).slices.foldl (fun s (k, x) => (s.drain g k).meetFlaws g k (x.regs.keep fun _ r => r.flaw != 0).keys) s

/-- Write back every word that a context has dirtied in a die; one whose page is no longer writable is discarded, and its failure goes to
system software with the record of R180 (R248, R257). -/
def settleDirty (s : State) (asid d : Nat) : State :=
  let s := s.writeBackAll d (s.dirtyIn d asid)
  (s.dirtyIn d asid).foldl (fun s w =>
    let by_ := (((s.die d).aq.find w).bind fun a => a.dirtied.find? fun x => x.asid == asid).map fun x => (x.va, wordHash x.widx)
    (s.modDie d fun y => { y with aq := y.aq.del w }).modCtx asid fun c => { c with fault := some 0x1B, late := by_ }) s

/-- The Basin ranges saved of a core: those its slices' hints name, or all where a slice stopped elsewhere; and the barrier
area. -/
def savedRanges (s : State) (c : Nat) : List (Nat × Nat) :=
  let xs := ((s.gangs.filter fun (_, y) => y.core == c).flatMap fun (_, y) => y.slices.map Prod.snd).filter fun x => x.live != 0
  let named (x : Slice) : Nat × Nat := (64 * (x.hintBasin.toNat % 2 ^ 16), 64 * (x.hintBasin.toNat / 2 ^ 16))
  if xs.all atHint then (Config.basinTop, 0x8000) :: xs.map named else [(0, 2 ^ 20)]

/-- Whether a byte stands in an activation table of a core's deck store (R264). -/
def inTable (c k : Nat) : Bool := keyNode k == c && keySpace k == deckSpace && (deckOffset (keyAddr k)).isNone

/-- What the device keeps of a core beside the save area. -/
def saveCore (s : State) (asid c : Nat) : SavedCore :=
  let x := s.core c
  { ranges := s.savedRanges c, tables := s.mem.filter fun m => inTable c m.1, barrierLaunch := x.barrierLaunch,
    queue := x.matrixQueue.filter fun i => (s.thread i).asid == asid, step := x.matrixStep,
    runs := (List.range 4).map fun i => (s.slot c i).run }

/-- The sections of the save area (Table 16-9). -/
def sections (s : State) (asid : Nat) (cs : List Nat) (forced : Bool) : List Section :=
  let gs := s.gangsOf asid
  let head := leBytes 4 gs.length ++ leBytes 4 cs.length ++ leBytes 4 (flagBit forced 0) ++ leBytes 4 0 ++ leBytes 8 s.now ++ leBytes 40 0
  Section.ofBytes head :: (gs.flatMap fun (g, y) => s.gangSection g :: y.slices.map fun (_, x) => frameSection y x) ++
    cs.flatMap fun c => s.coreSections c (s.savedRanges c)

/-- The running launches of a context. -/
def runningOf (s : State) (asid : Nat) : List Nat :=
  (s.launches.filter fun (_, y) => y.asid == asid && (match y.state with | .placing => true | .reading => true | _ => false)).map Prod.fst

/-- A context that does not come back: its launches end with a code, and what is left of it leaves the device. -/
def dropContext (s : State) (asid code : Nat) : State :=
  let s : State := { s with
    saved := s.saved.del asid
    threads := s.threads.mapAll fun _ t => if t.asid = asid ∧ t.ended.isNone then { t with ended := some 0, parks := [], todo := [] } else t }
  (s.runningOf asid).foldl (fun s l => s.finishLaunch l code) s

/-- COMPLETE THE SAVE of a context: its moves are taken, the area is written, the gangs leave their quarters and cores; after a hang its
launches end with code 5 (R333). -/
def saveContext (s : State) (p : Preempt) : State :=
  let s := (s.gangsOf p.asid).keys.foldl (fun s g => s.settleGang g) s
  let s := s.dies.keys.foldl (fun s d => s.settleDirty p.asid d) s
  let cs := (s.gangsOf p.asid).foldl (fun m y => addSorted m y.2.core) []
  let saved : Saved := ⟨s.now, s.gangsOf p.asid, cs.map fun c => (c, s.saveCore p.asid c)⟩
  let s := s.putSections p.asid (s.ctxField p.asid 0x10 8) (s.sections p.asid cs p.forced)
  let s := cs.foldl (fun s c => s.modCore c fun x =>
    { x with summary := [], slots := [], barrierLaunch := [], matrixStep := 0, context := none,
             matrixQueue := x.matrixQueue.filter fun i => (s.thread i).asid != p.asid }) s
  let s : State := { s.interrupt 6 with
    gangs := s.gangs.filter fun (_, y) => y.asid != p.asid, preempt := none, saved := s.saved.put p.asid saved }
  if p.hung then s.dropContext p.asid 5 else s

end State

/-- R373. -/
def execSaveComplete (s : State) : Out :=
  s.onlyIf s.saveDue fun s => match s.preempt with | some p => s.saveContext p | none => s

/-! ### Restore (R257, R374) -/

namespace State

/-- The core that each saved core's gangs go to: empty ones of the reach, in dense order; none where there are too few. -/
def restoreCores (s : State) (reach : Nat) (olds : List Nat) : Option (List (Nat × Nat)) :=
  let empty (c : Nat) : Bool :=
    (s.gangs.all fun (_, y) => y.core != c) && s.threads.all fun (_, t) => t.core != c || t.ended.isSome || (s.saved.find t.asid).isSome
  let cs := (s.reachCores reach).filter empty
  if cs.length < olds.length then none else some (olds.zip cs)

/-- A slice goes on after a restore: it issues the word it waited at again, or goes on waiting where a promise is not checked or its gang
has taken an item (R124, R149, R151); its parks are released (R165). -/
def reviveSlice (now : Nat) (stay : Bool) (x : Slice) : Slice :=
  let x := match x.wait with
    | some (.sleepC t n _) => { x with wait := some (.sleepC t n true) }
    | some _ => if stay then x else { x with wait := none, replay := some x.mask, again := true }
    | none => x
  { x with
    halted := false, hint := none, hintBasin := 0, flights := [], readySince := now, ready := max x.ready now,
    levels := x.levels.map fun t => { t with park := t.park.map fun p => { p with ids := [] } } }

/-- A gang back on the device, with what its context's record says now of its reach and its privilege (R360). -/
def reviveGang (s : State) (v : Saved) (core g : Nat) (y : Gang) : State :=
  let y := { y with core := core, reach := s.ctxReach y.asid, system := s.ctxSystem y.asid, away := y.away + (s.now - v.since),
                    slices := y.slices.mapAll fun _ x => reviveSlice s.now y.gwait.isSome x }
  let s : State := { s with gangs := s.gangs.put g y }
  (s.freeSlices g (y.slices.filterMap fun (k, x) => x.park.map fun p => (k, p))).switchMoves g

/-- Put what a save holds of a core on a core. -/
def reviveCore (s : State) (asid c : Nat) (v : CoreLoad) : State :=
  let s := s.fillCore basinSpace c v.basin (inRanges v.saved.ranges) id
  let s := s.fillCore deckSpace c v.deck (fun a => (deckOffset a).isSome) deckAddr
  let s := { s with mem := v.saved.tables.foldl (fun m (x : Host.Cell) => Memory.write m (keyAt deckSpace c (keyAddr x.1)) x.2)
                             (s.mem.filter fun m => !inTable c m.1) }
  s.modCore c fun x =>
    { x with summary := v.summary, slots := v.slots.zipIdx.map fun (a, i) => (i, a), barrierLaunch := v.saved.barrierLaunch,
             matrixQueue := v.saved.queue, matrixStep := v.saved.step, context := some (asid, (s.ctx asid).created) }

/-- A refused context: a context fault, and its launches end with code 4. -/
def refuseContext (s : State) (asid : Nat) : State :=
  (s.modCtx asid fun c => { c with fault := some 0x104 }).dropContext asid 4

/-- What the save area holds of a context, none where the restore refuses it. -/
def loadArea (s : State) (asid : Nat) (v : Saved) : Option (FMap Gang × List CoreLoad) := do
  let ps ← s.getSections asid (s.ctxField asid 0x10 8) v.lens
  let (ys, ps) ← loadGangs v.gangs ps.tail
  let cs ← loadCores v.cores ps
  pure (ys, cs)

/-- RESTORE a context, or refuse it: a command that was stopped reads its operands again (R374). -/
def restoreContext (s : State) (asid : Nat) (v : Saved) (cores : List (Nat × Nat)) : State :=
  match s.loadArea asid v with
  | none => s.refuseContext asid
  | some (ys, cs) =>
    let to_ (c : Nat) : Nat := ((cores.find? fun p => p.1 == c).map Prod.snd).getD c
    let s := cs.foldl (fun s x => s.reviveCore asid (to_ x.old) x) s
    let t : State := { s with
      saved := s.saved.del asid,
      threads := s.threads.mapAll fun _ t =>
        if t.asid ≠ asid then t
        else if t.kind = .matrix ∧ !t.fired then { t with core := to_ t.core, buffer := [], poisoned := [], todo := [], parks := [] }
        else { t with core := to_ t.core } }
    let t := t.launches.keys.foldl (fun t l => t.modLaunch l fun y =>
      if y.asid ≠ asid then y
      else { y with reach := s.ctxReach asid, loaded := y.loaded.map to_, lost := y.lost.map to_, held := y.held.map fun h => (to_ h.1, h.2),
                    cores := y.cores.map fun h => (h.1, to_ h.2) }) t
    let t := t.modCtx asid fun c => { c with key := some (leBytes 32 (t.ctxField asid 0x20 32)) }
    ys.foldl (fun t (g, y) => t.reviveGang v (to_ y.core) g y) t

/-- Where a saved context's cores go, when the module has booted and the reach has room for them. -/
def restorePlace (s : State) (asid : Nat) : Option (Saved × List (Nat × Nat)) :=
  if !s.security.booted then none
  else (s.saved.find asid).bind fun v => (s.restoreCores (s.ctxReach asid) v.cores.keys).map fun cs => (v, cs)

end State

/-- R374: a restore waits for empty cores in the reach (log 24). -/
def execContextRestore (asid : Nat) (s : State) : Out :=
  s.onlyIf (s.restorePlace asid).isSome fun s => match s.restorePlace asid with | some (v, cs) => s.restoreContext asid v cs | none => s

/-! ### The control store (R160) -/

/-- Whether a core holds a microprogram that replaces one no slice is inside. -/
def State.replaceDue (s : State) (c : Nat) : Bool := (s.core c).loading.any fun (p, _) => !s.insideMicro c p

/-- R160. -/
def execControlStoreReplace (c : Nat) (s : State) : Out := s.onlyIf (s.replaceDue c) fun s => s.replaceMicro c

/-! ### The watchdog (R333) -/

namespace State

/-- Whether a context's watchdog has reached its limit. -/
def watchdogDue (s : State) (asid : Nat) : Bool :=
  let n := s.ctxField asid 0x18 4
  decide (n ≠ 0) && decide (65536 * n ≤ (s.ctx asid).watchdog) && (s.preempt.isNone || s.preempting asid)

/-- A hang: system software takes a context fault, and the context is pre-empted, as past its deadline; its launches end with code 5. -/
def hang (s : State) (asid : Nat) : State :=
  let s := s.modCtx asid fun c => { c with watchdog := 0, fault := some 0x105 }
  { s with preempt := some ⟨asid, s.now, true, true⟩ }

end State

/-- R333. -/
def execWatchdogExpiry (asid : Nat) (s : State) : Out := s.onlyIf (s.watchdogDue asid) fun s => s.hang asid

/-! ### Stops and resumes by the host (R301, R302) -/

/-- R301: the gang and its quarter stop, with reason 9. -/
def execHostStopRequest (g : Nat) (s : State) : Out :=
  s.onlyIf (s.running g) fun s => s.stopGang g (s.stopAt g ((s.liveSlices g).headD 0) 9)

/-- Whether the host may resume a gang. -/
def State.resumeDue (s : State) (g : Nat) : Bool := (s.gangs.find g).any fun y => y.stop.any fun t => resumable t.reason

/-- R302, Table 10-5: the breakpoint or the watchpoint it stopped at is passed once. -/
def execHostResume (g : Nat) (s : State) : Out :=
  s.onlyIf (s.resumeDue g) fun s =>
    let t := ((s.gang g).stop.map fun t => (t.reason, t.widx)).getD (0, 0)
    s.modGang g fun y =>
      { y with
        stop := none, passBreak := if t.1 = 2 then some t.2 else y.passBreak, passWatch := if t.1 = 3 then some t.2 else y.passWatch,
        slices := y.slices.mapAll fun _ x => { x with readySince := s.now } }

end Sys2Proof.Machine
end

