-- ==== Sys2Proof/Machine/EvModule.lean ====
section
/-! DEFINITION. Events of the module: power, sampling, triggers, scrub, retirement, reset, attestation, links, the device's
registers (R303, R304, R321, R332, R365, R367, R370, R394–R405, R411). -/

namespace Sys2Proof.Machine

/-! ### Power (R332, R405) -/

/-- R332, R405: a recomputation fixes the quarters throttled until the next and the average it read; vector 0 goes out when a cap
written since first throttles. The duty is the controller's choice, so the event brings it. -/
def execPowerRecompute (quarters : List Nat) (average : Nat) (s : State) : Out :=
  s.onlyIf (decide (s.now % 1800 = 0)) fun s =>
    let s := { s with power := { s.power with throttled := quarters, now := BitVec.ofNat 32 (min average 3600) } }
    if quarters ≠ [] ∧ !s.power.capped then { s.interrupt 0 with power := { s.power with capped := true } } else s

/-- R405. -/
def execPowercapWrite (v : BitVec 32) (s : State) : Out :=
  s.onlyIf s.security.booted fun s => { s with power := { s.power with cap := BitVec.ofNat 32 (min (max v.toNat 600) 3600), capped := false } }

/-! ### Sampling (R303) -/

namespace State

/-- Why a slice does not issue in this cycle, or that it did: the code of R303. Interlocks and busy pipes hold nothing in this model
(log 17). -/
def stallReason (s : State) (g k : Nat) : Nat :=
  let x := s.slice g k
  if x.issuedAt = s.now + 1 then 0
  else if x.park.isSome then (if x.park.any fun p => p.kind == .tow then 10 else 9)
  else match x.wait with
    | some .regang => 5
    | some (.stage _) => 5
    | some (.rolesw _) => 5
    | some .ret => 6
    | some (.sleep _) => 7
    | some (.sleepC _ _ _) => 7
    | some (.pause _) => 7
    | some (.wait _ _) => 8
    | some (.waitCnt _) => 8
    | some .fenceEng => 8
    | some .queue => 12
    | none =>
      if decide (s.now < (s.gang g).paused) then 13
      else if decide (s.now < x.bank) then 4
      else if decide (s.now < x.ready) then 1
      else if s.power.throttled.contains (s.gang g).quarterId then 11 else 14

/-- One sample, to the ring of a core or counted as dropped. -/
def sample (s : State) (c : Nat) (z : Sampler) : State :=
  let gs := (s.gangs.filter fun (_, y) => y.core == c).map Prod.fst
  match gs[z.turn % max gs.length 1]? with
  | none => s
  | some g =>
    let k := (s.liveSlices g).headD 0
    let y := s.gang g
    let put (f : Sampler → Sampler) (s : State) : State := s.modCore c fun x => { x with sampler := x.sampler.map f }
    if z.size ≤ z.head - z.get then put (fun z => { z with drops := z.drops + 1, turn := z.turn + 1 }) s
    else
      let bs := leBytes 4 s.now ++ leBytes 4 (s.slice g k).pc.toNat ++ leBytes 4 y.launchId.toNat ++ leBytes 2 y.index ++
        leBytes 1 k ++ leBytes 1 (s.stallReason g k)
      put (fun z => { z with head := z.head + 1, turn := z.turn + 1 })
        (s.recordWrite (dieOfCore c) (keyAt devSpace 0 (z.ring + 16 * (z.head % max z.size 1))) 0 bs)

/-- Whether a core samples in this cycle. -/
def sampleDue (s : State) (c : Nat) : Bool := (s.core c).sampler.any fun z => !z.frozen && s.now % 2 ^ z.shift == 0

end State

/-- R303. -/
def execPcSample (c : Nat) (s : State) : Out :=
  s.onlyIf (s.sampleDue c) fun s => match (s.core c).sampler with | some z => s.sample c z | none => s

/-! ### Triggers (R304) -/

namespace State

/-- What a quarter does when a line is driven; a stop drives the lines that a stop of the quarter drives. -/
def trigger (s : State) (t : Trigger) : State :=
  let gs := (s.gangs.filter fun (_, y) => y.quarterId == t.quarter && y.stop.isNone).map Prod.fst
  let stop (s : State) (g : Nat) : State := s.stopOne g { s.stopAt g ((s.liveSlices g).headD 0) 8 with info := BitVec.ofNat 32 t.line }
  let s := if t.doStop ∧ gs ≠ [] then (gs.foldl stop s).driveLines t.quarter Trigger.onStop else s
  let s := if t.doFreeze then s.modCore (t.quarter / 4) fun c => { c with sampler := c.sampler.map fun z => { z with frozen := true } } else s
  match t.doCount with
  | none => s
  | some true => { s with stoppedCounters := s.stoppedCounters.filter fun q => q != t.quarter }
  | some false => { s with stoppedCounters := addSorted s.stoppedCounters t.quarter }

end State

/-- R304: every quarter does what it is set to do. -/
def execTriggerLine (n : Nat) (s : State) : Out :=
  s.onlyIf (s.lines.contains n) fun s =>
    (s.triggers.filter fun t => t.line == n).foldl (fun s t => s.trigger t) { s with lines := s.lines.filter fun m => m != n }

/-! ### Errors (R394–R397, R400) -/

namespace State

/-- Change a register of the backing of a core's quarter, by its word index (R213, R216). -/
def hitBacking (s : State) (core w : Nat) (f : BitVec 4 → Reg → Reg) : State :=
  let reg := w / 32 % Config.backing
  { s with gangs := s.gangs.mapAll fun _ y =>
      if y.core = core ∧ y.quarter = w / 32 / Config.backing ∧ y.base ≤ reg ∧ reg < y.base + y.allot then
        { y with slices := y.slices.mapAll fun k x =>
            if k = w / 4 % 8 then
              { x with regs := x.regs.put (reg - y.base) (f (1#4 <<< (w % 4)) (x.regs.getOr (reg - y.base) Reg.zero)) } else x }
      else y }

/-- Poison a word of the data that the STREAM requests of a core have read. -/
def hitReservoir (s : State) (core w : Nat) : State :=
  { s with threads := s.threads.mapAll fun _ t =>
      if t.core = core ∧ t.kind = .barge ∧ t.ended.isNone then
        { t with poisoned := ((List.range 4).map (4 * w + ·)).foldl (fun p n => if (t.buffer.find n).isSome then addSorted p n else p) t.poisoned }
      else t }

/-- What an uncorrectable error does to the structure that holds it (Table 20-1). Bits 31:0 of `at_` are a word index and the bits above
choose: in row 1 the Basin, the deck store, the register backing, the slots, the reservoir of the core; in row 5 its cluster's TLB, or
another structure. In rows 2 to 4 and 7 `at_` is an address, of the host with bit 60 set (log 55). In row 8 a result in the register backing
is changed to a free value, without a record (R395). -/
def errorEffect (s : State) (struct core at_ : Nat) (found : Bool) : State :=
  let line := keyAt (if bitOf at_ 60 then hostSpace else devSpace) 0 (at_ % 2 ^ 57)
  let w := at_ % 2 ^ 32
  match struct, at_ / 2 ^ 32 with
  | 1, 0 => s.setPoison (keyAt basinSpace core (4 * w % 2 ^ 20)) 4
  | 1, 1 => s.setPoison (keyAt deckSpace core (deckAddr (4 * w % 2 ^ 21))) 4
  | 1, 2 => s.hitBacking core w fun m r => if found then { r with poison := r.poison ||| m } else { r with flaw := r.flaw ||| m }
  | 1, 3 => s.modCore core fun c => { c with slots := c.slots.adjust (w / 8192 % 4) fun x => { x with flaw := true } }
  | 1, _ => s.hitReservoir core w
  | 2, _ =>
    { s with cores := s.cores.mapAll fun _ c => { c with l1 := dropLine c.l1 line, pc := dropLine c.pc line, pt := dropLine c.pt line },
             dies := s.dies.mapAll fun _ d => { d with aq := dropClean d.aq line } }
  | 3, _ => ((s.dropAqBut (line / 4) none).disown (line / 4) none).setPoison (line / 4 * 4) 4
  | 4, _ => s.setPoison (line / 8 * 8) 8
  | 5, 0 =>
    { s with clusters := s.clusters.mapAll fun k c =>
        if k = clusterOfCore core then { c with tlb := c.tlb.eraseIdx w } else c }
  | 5, _ => (s.gangs.filter fun (_, y) => y.core == core).foldl (fun s x => s.modCtx x.2.asid fun c => { c with fault := some 0x110 }) s
  | 6, _ =>
    s.modCore core fun c => { c with slots := c.slots.adjust (w / 8192 % 4) fun x =>
      { x with acc := x.acc.adjust (w % 8192) fun a => { a with check := (a.check + 1) % checkMod } } }
  | 7, _ => s.setPoison (line / 4 * 4) 4
  | 8, _ => s.hitBacking core w fun m r => (List.range 4).foldl (fun r j => if nib m j then r.setLane j (s.freeWord 10) else r) r
  | _, _ => s

/-- The severity that the record of an error carries where Table 20-1 fixes it. -/
def errorSeverity (struct at_ severity : Nat) : Nat :=
  if severity = 0 ∨ struct = 2 ∨ (struct = 5 ∧ at_ / 2 ^ 32 = 0) then 0
  else match struct with | 1 => 1 | 3 => 1 | 4 => 1 | 5 => 3 | 6 => 2 | 7 => 3 | _ => severity

/-- Exclude a cluster from its reach at the next reset (R400). -/
def excludeCluster (s : State) (k : Nat) : State := { s with security := { s.security with retire := addSorted s.security.retire k } }

end State

/-- R394, R395: an error arises in a structure. It is corrected, or takes effect; the scrub of a die that finds it, or the access that
meets it (`sv` with 4 added; log 55), is recorded. Poison that an access leaves is recorded when a word reads it (R168, R293), a wrong
sum at the CLOSE of its run (R274), a bad towpath record at its refill (R225), a fault of a structure that is not covered never. -/
def execScrub (d struct sv core at_ : Nat) (s : State) : Out :=
  s.onlyIf (decide (d < 4) && decide (1 ≤ struct) && decide (struct ≤ 7 ∨ (struct = 8 ∧ 4 ≤ sv)) && decide (sv ≤ 7)) fun s =>
    let found := decide (sv < 4)
    let severity := sv % 4
    let asid := if found then 0xFFFF else ((s.core core).context.map Prod.fst).getD 0xFFFF
    let s := if severity = 0 then s else s.errorEffect struct core at_ found
    let v := State.errorSeverity struct at_ severity
    if !found && (v == 1 || (6 ≤ struct && v != 0) || struct == 8) then s
    else
      let s := if v = 3 ∧ core < 4 * Config.clusters then s.excludeCluster (clusterOfCore core) else s
      s.errorRecord d struct v (if found then 1 else 0) (if core < 4 * Config.clusters then s.denseCore core else 0xFFFF) asid at_

/-- R400: effective at the next reset. -/
def execRetirementRequest (k : Nat) (s : State) : Out := s.onlyIf (decide (k < Config.clusters)) fun s => s.excludeCluster k

/-! ### Boot (R399–R401) -/

/-- R401: the fused counter only rises. -/
def execSecurityVersionRaise (v : Nat) (s : State) : Out :=
  s.onlyIf (decide (s.security.version < v)) fun s => { s with security := { s.security with version := v } }

/-- A remap entry of a cluster that leaves service. -/
def retiredEntry (e : BitVec 64) : BitVec 64 := BitVec.ofNat 64 (bitsOf e.toNat 24 8 * 2 ^ 24 + 0xFF00 + 2)

/-- The entries with dense numbers given anew, in order within each reach; `seen` counts the clusters each reach has. -/
def renumber (seen : FMap Nat) : List (BitVec 64) → List (BitVec 64)
  | [] => []
  | e :: r =>
    let q := bitsOf e.toNat 8 8
    let n := seen.getOr q 0
    if remapJoins e q then BitVec.ofNat 64 (e.toNat - bitsOf e.toNat 16 8 * 2 ^ 16 + n * 2 ^ 16) :: renumber (seen.put q (n + 1)) r
    else e :: renumber seen r

/-- The remap table that firmware builds at a reset. -/
def rebuildRemap (es : List (BitVec 64)) (out : List Nat) : List (BitVec 64) :=
  renumber [] (es.zipIdx.map fun (e, k) => if out.contains k && bitsOf e.toNat 0 2 == 1 then retiredEntry e else e)

/-- Whether a launch is one of a context that has been saved, whose gangs were placed or being placed (R400). -/
def State.outlives (s : State) (l : Nat) : Bool := (s.saved.find (s.launch l).asid).isSome && decide ((s.launch l).state = .placing)

/-- What a saved context left on the module is there after a reset, for its restore on the reach as it then stands (R400; log 53): its
launches, its stopped span commands, what the module holds for it. -/
def State.keepSaved (s t : State) : State :=
  { t with
    saved := s.saved, ctxs := s.ctxs.filter fun (a, _) => (s.saved.find a).isSome,
    launches := s.launches.filter fun (l, _) => s.outlives l, placing := s.placing.filter s.outlives,
    threads := s.threads.filter fun (_, x) => (s.saved.find x.asid).isSome,
    sluices := s.sluices.filterMap fun (q, x) =>
      let ls := x.launches.filter s.outlives
      if ls = [] then none else some (q, { Sluice.blank with launches := ls }),
    launchNo := s.launchNo, gangNo := s.gangNo, threadNo := s.threadNo }

/-- R401: reset. Memory keeps its bytes but for the barrier areas (Table 9-2), fuses and firmware's tables theirs, a saved context what it
left (R400); where an image is refused the module exposes no memory, sluice or Lock, and takes no access of a host or a peer, until a reset
that verifies (log 53). -/
def execModuleReset (verified : Bool) (version : Nat) (s : State) : Out :=
  let ok := verified && decide (s.security.version ≤ version)
  .next (s.keepSaved { State.reset with
    mem := s.mem.filter fun m => !(keySpace m.1 == basinSpace && decide (Config.basinTop ≤ keyAddr m.1)),
    poison := s.poison, keyOf := s.keyOf, homes := s.homes, peers := s.peers, refuses := s.refuses,
    quay := { s.quay with failed := [], queues := [], bells := [] }, msix := s.msix, sent := s.sent, fresh := s.fresh, agenda := s.agenda,
    reaches := s.reaches,
    security := { s.security with remap := rebuildRemap s.security.remap s.security.retire, retire := [], booted := ok,
                                  negotiated := false, transcript := [], response := [] } })

/-! ### Attestation (R402, Table 20-5; log 7) -/

namespace State

/-- Answer an SPDM request, and keep both in the transcript. -/
def attest (s : State) (request answer : List Byte) : State :=
  { s with security := { s.security with response := answer, transcript := s.security.transcript ++ request ++ answer } }

/-- The bytes of a measurement: a free digest of the boot ROM and of each firmware stage, else what it measures. -/
def measurement (s : State) (i : Nat) : List Byte :=
  match i with
  | 0 => [7]
  | 5 => s.security.remap.flatMap fun e => leBytes 8 e.toNat
  | 6 => leBytes 4 s.security.version
  | 7 => s.reaches.flatMap fun (r, x) =>
      leBytes 1 r ++ ((s.reachCores r).filter fun c => c % 4 == 0).flatMap (fun c => leBytes 1 (clusterOfCore c)) ++
        x.frames.flatMap (fun f => leBytes 8 f.1 ++ leBytes 8 f.2) ++ leBytes 8 x.keys.toNat
  | n => (List.range 48).map fun k => Config.attestByte 1 n k

end State

/-- R402: SPDM 1.3. -/
def execGetVersion (s : State) : Out := .next (s.attest [0x84] [0x13])

/-- R402: the capabilities are those of the six requests answered; their coding is firmware's. -/
def execGetCapabilities (s : State) : Out := .next (s.attest [0xE1] ((List.range 4).map fun k => Config.attestByte 2 0 k))

/-- R402: ECDSA P-384 and SHA-384 only. -/
def execNegotiateAlgorithms (p384 sha384 : Bool) (s : State) : Out :=
  let ok := p384 && sha384
  .next { s.attest [0xE3] [if ok then 1 else 0] with
    security := { (s.attest [0xE3] [if ok then 1 else 0]).security with negotiated := ok } }

/-- R402: part of the identity certificate. -/
def execGetCertificate (slot offset length : Nat) (s : State) : Out :=
  .next (s.attest [0x82] ((List.range length).map fun k => Config.attestByte 0 slot (offset + k)))

/-- R402: the transcript and the nonce signed with the device identity key. -/
def execChallenge (nonce : BitVec 256) (s : State) : Out :=
  s.onlyIf s.security.negotiated fun s =>
    let r := 0x83#8 :: leBytes 32 nonce.toNat
    s.attest r (leBytes 96 (Config.sign (s.security.transcript ++ r)).toNat)

/-- R402, Table 20-5: no measurement reveals a key. -/
def execGetMeasurements (i : Nat) (s : State) : Out :=
  s.onlyIf (decide (i ≤ 7)) fun s => s.attest [0xE0, BitVec.ofNat 8 i] (s.measurement i)

/-! ### Links (R403, R404) -/

/-- R403: ×16, or ×8 or ×4, at PCIe 7.0 or a lower rate; a link event is vector 0. -/
def execLinkTraining (width rate : Nat) (s : State) : Out :=
  s.onlyIf ([4, 8, 16].contains width && decide (1 ≤ rate) && decide (rate ≤ 7)) fun s =>
    { s.interrupt 0 with link := { s.link with width := width, rate := rate } }

/-- R404: 1.6 Tb/s, or 800 Gb/s. -/
def execPortLinkChange (port : Nat) (up : Bool) (rate : Nat) (s : State) : Out :=
  s.onlyIf (decide (port < 8) && (rate == 1600 || rate == 800)) fun s =>
    { s.interrupt 0 with link := { s.link with ports := s.link.ports.put port (up, rate) } }

/-! ### Registers (R5, R6) -/

/-- A register of the BAR: its byte offset, its bytes, the value a read returns, what a write of a part of it puts into the rest, and the
state after a write. -/
structure DevReg where
  off : Nat
  size : Nat
  val : Nat
  rest : Nat
  put : Nat → State

namespace State

/-- A 32-bit value. -/
def w32 (v : Nat) : Word := BitVec.ofNat 32 v

/-- A register that a write stores, one whose ones a write clears, and one that a plain write leaves as it is. -/
def rwReg (off size val : Nat) (put : Nat → State) : DevReg := ⟨off, size, val, val, put⟩
def w1cReg (off size val : Nat) (put : Nat → State) : DevReg := ⟨off, size, val, 0, put⟩
def roReg (s : State) (off size val : Nat) : DevReg := ⟨off, size, val, val, fun _ => s⟩

/-- Registers of sluice `q` (Table 13-5); TAIL, MAPPED and ERROR have writes of their own. -/
def sluiceRegs (s : State) (q : Nat) : List DevReg :=
  let b := 0x100000 + 64 * q
  let x := s.sluice q
  let status := flagBit x.mapped 0 + flagBit x.blocked 1 + flagBit x.error.isSome 2 + x.error.getD 0 * 2 ^ 8
  [rwReg b 8 x.base.toNat fun v => s.modSluice q fun x => { x with base := BitVec.ofNat 64 v },
   rwReg (b + 8) 4 x.size.toNat fun v => s.modSluice q fun x => { x with size := w32 v },
   rwReg (b + 12) 4 x.ctx.toNat fun v => s.modSluice q fun x => { x with ctx := w32 (v % 2 ^ 19) },
   s.roReg (b + 0x10) 4 x.tail.toNat, s.roReg (b + 0x14) 4 x.head.toNat, s.roReg (b + 0x18) 4 status, s.roReg (b + 0x1C) 4 x.blockCyc.toNat]

/-- The rotation registers (R321); their offsets and widths are presumed (log 25). -/
def globalRegs (s : State) : List DevReg :=
  [rwReg 0xF0000 4 s.rotate.toNat fun v => { s with rotate := w32 v }, rwReg 0xF0004 4 s.unmapped.toNat fun v => { s with unmapped := w32 v },
   w1cReg 0xF0008 4 (flagBit s.rotStat 0) fun v => if bitOf v 0 then { s with rotStat := false } else s]

/-- Registers of a Lock (Table 15-6); a write that sets ENABLE is one of its own. -/
def lockRegs (s : State) (r : Nat) : List DevReg :=
  let b := 0xF1000 + 16 * r
  let x := s.lock r
  let base := x.record.toNat / 64 * 64 + flagBit x.enable 0
  [⟨b, 8, base + flagBit x.error 1, base, fun v =>
      if bitOf v 0 && !x.enable then s
      else (if x.enable && !bitOf v 0 then s.disableLock r false else s).modLock r (Lock.written (BitVec.ofNat 64 v))⟩,
   rwReg (b + 8) 4 x.asid fun v => s.modLock r fun x => { x with asid := v % 2 ^ 16 },
   rwReg (b + 12) 4 (x.skipped * 2 ^ 16) fun v => s.modLock r fun x => { x with skipped := bitsOf v 16 16 }]

/-- CTXBASE, PREEMPT, IVA and the control register of Table 16-4; a write that starts a pre-emption or an invalidation is one of its
own. -/
def ctxRegs (s : State) : List DevReg :=
  [rwReg 0xF2000 8 s.ctxBase.toNat fun v => let t := { s with ctxBase := BitVec.ofNat 64 v }; { t with ctxs := t.renewCtxs s },
   s.roReg 0xF2010 4 ((s.preempt.map fun p => p.asid + 2 ^ 17).getD 0),
   rwReg 0xF2400 8 s.iva.toNat fun v => if s.ibusy then s else { s with iva := BitVec.ofNat 64 (v % 2 ^ 57) },
   ⟨0xF2408, 4, s.iscope * 2 ^ 16 + s.iasid + flagBit s.ibusy 31, s.iscope * 2 ^ 16 + s.iasid, fun v =>
      if s.ibusy || bitOf v 31 && bitsOf v 16 2 != 3 then s else { s with iscope := bitsOf v 16 2, iasid := v % 2 ^ 16 }⟩]

/-- Registers of die `d` (Tables 16-6, 16-7, 20-2): FBBASE is written only while the buffer is empty; OVERFLOW and the replay register
have writes of their own. -/
def dieRegs (s : State) (d : Nat) : List DevReg :=
  let f := 0xF3000 + 0x100 * d
  let e := 0xF4000 + 0x100 * d
  let x := s.die d
  let set (g : Die → Die) : State := s.modDie d g
  [rwReg f 8 x.fbBase.toNat fun v => if x.fbHead = x.fbGet then set fun x => { x with fbBase := BitVec.ofNat 64 v } else s,
   s.roReg (f + 8) 4 x.fbHead.toNat,
   rwReg (f + 12) 4 x.fbGet.toNat fun v => set fun x => { x with fbGet := w32 v },
   s.roReg (f + 0x10) 4 (x.undelivered * 2 ^ 16 + flagBit x.overflow 0), s.roReg (f + 0x18) 8 x.replayReg.toNat,
   rwReg (f + 0x40) 8 x.nqBase.toNat fun v => set fun x => { x with nqBase := BitVec.ofNat 64 v },
   rwReg (f + 0x48) 4 x.nqSize.toNat fun v => set fun x => { x with nqSize := w32 v },
   s.roReg (f + 0x4C) 4 x.nqHead.toNat,
   rwReg (f + 0x50) 4 x.nqGet.toNat fun v => set fun x => { x with nqGet := w32 v },
   w1cReg (f + 0x54) 4 x.nqDrop.toNat fun v => set fun x => { x with nqDrop := x.nqDrop &&& ~~~w32 v },
   rwReg (f + 0x58) 4 x.thresh fun v => set fun x => { x with thresh := v % 2 ^ 16 },
   rwReg e 8 x.erBase.toNat fun v => set fun x => { x with erBase := BitVec.ofNat 64 v },
   rwReg (e + 8) 4 x.erSize.toNat fun v => set fun x => { x with erSize := w32 v },
   s.roReg (e + 12) 4 x.erHead.toNat,
   rwReg (e + 0x10) 4 x.erGet.toNat fun v => set fun x => { x with erGet := w32 v },
   w1cReg (e + 0x14) 4 x.erDrop.toNat fun v => set fun x => { x with erDrop := x.erDrop &&& ~~~w32 v },
   rwReg (e + 0x18) 4 x.scrub fun v => set fun x => { x with scrub := if 1 ≤ v % 256 ∧ v % 256 ≤ 4 then v % 256 else 4 }]

/-- POWERCAP, POWERNOW, THRCYC (R405); a write of POWERCAP is one of its own. -/
def powerRegs (s : State) : List DevReg :=
  [s.roReg 0xF5000 4 s.power.cap.toNat, s.roReg 0xF5004 4 s.power.now.toNat, s.roReg 0xF5008 8 s.power.throttledCyc.toNat]

/-- The registers of the block an offset stands in. -/
def regsAt (s : State) (off : Nat) : List DevReg :=
  if 0x100000 ≤ off ∧ off < 0x101000 then s.sluiceRegs ((off - 0x100000) / 64)
  else if off < 0xF1000 then s.globalRegs
  else if off < 0xF1080 then s.lockRegs ((off - 0xF1000) / 16)
  else if off < 0xF3000 then s.ctxRegs
  else if off < 0xF3400 then s.dieRegs ((off - 0xF3000) / 0x100)
  else if 0xF4000 ≤ off ∧ off < 0xF4400 then s.dieRegs ((off - 0xF4000) / 0x100)
  else if off < 0xF5010 then s.powerRegs
  else []

/-- Write `size` bytes of a register. -/
def regWrite (s : State) (off size v : Nat) : State :=
  match (s.regsAt off).find? fun r => decide (r.off ≤ off) && decide (off + size ≤ r.off + r.size) with
  | none => s
  | some r =>
    let sh := 8 * (off - r.off)
    let old := bitsOf r.rest sh (8 * size)
    r.put (r.rest - old * 2 ^ sh + v % 2 ^ (8 * size) * 2 ^ sh)

/-- A byte of the BAR as a read returns it: reserved fields read zero (R5). -/
def regByte (s : State) (off : Nat) : Byte :=
  match (s.regsAt off).find? fun r => decide (r.off ≤ off) && decide (off < r.off + r.size) with
  | none => 0
  | some r => BitVec.ofNat 8 (r.val / 2 ^ (8 * (off - r.off)))

end State

/-- R6: a register without behaviour of its own stores its writable fields; a W1C count loses the bits written as 1. -/
def execRegisterWrite (off size : Nat) (v : BitVec 64) (s : State) : Out :=
  s.onlyIf (s.security.booted && [1, 2, 4, 8].contains size) fun s => s.regWrite off size v.toNat

/-- R5, R255: device memory (space 0), host memory (space 1), the register BAR (space 2). -/
def execHostAccess (space a : Nat) (store : Bool) (data : List (BitVec 8)) (s : State) : Out :=
  s.onlyIf (s.security.booted && decide (space ≤ 2)) fun s =>
    if space ≠ 2 then s.hostReach space a store data
    else if store then s.regWrite a data.length (leNat data)
    else s.answer hostNode 0 ((List.range data.length).map fun i => s.regByte (a + i))

end Sys2Proof.Machine
end

