-- ==== Sys2Proof/Machine/Logic.lean ====
section
/-! DEFINITION. Logic, shifts and bit operations (R95–R100): opcodes 0x10–0x1D. -/

namespace Sys2Proof.Machine

/-- A word of two sources taken bit by bit; the tag of a (R95). -/
def State.bitwise (s : State) (h : Hdr) (d a b : BitVec 6) (f : Word → Word → Word) : State :=
  s.writeLike h d a fun l => f (s.V a.toNat l) (s.V b.toNat l)

/-- The shifts of R96 by an unsigned count. -/
def shlW (a : Word) (n : Nat) : Word := if n < 32 then a <<< n else 0
def shrW (a : Word) (n : Nat) : Word := if n < 32 then a >>> n else 0
def sarW (a : Word) (n : Nat) : Word := a.sshiftRight (min n 31)
def rotW (a : Word) (n : Nat) : Word := a.rotateLeft (n % 32)

/-- Leading zeros, the lowest set bit, the reversals of Table 4-6. -/
def clzW (a : Word) : Nat := ((List.range 32).find? fun i => a.getLsbD (31 - i)).getD 32
def ffsW (a : Word) : Nat := ((List.range 32).find? fun i => a.getLsbD i).getD 32
def brevW (a : Word) : Word := BitVec.ofNat 32 (((List.range 32).map fun i => flagBit (a.getLsbD (31 - i)) i).sum)
def byterevW (a : Word) : Word := wordByte a 0 ++ wordByte a 1 ++ wordByte a 2 ++ wordByte a 3

/-- The field of `bfx`, and the merge of `bfi` (R99, R100). -/
def bfxW (t : Tag) (a : Word) (pos width : Nat) : Word :=
  let v := bitsOf a.toNat pos width
  if t = .i32 then BitVec.ofInt 32 (signedOf v width) else BitVec.ofNat 32 v
def bfiW (d a : Word) (pos width : Nat) : Word :=
  let m := BitVec.ofNat 32 ((2 ^ width - 1) * 2 ^ pos)
  (d &&& ~~~m) ||| (BitVec.ofNat 32 (a.toNat % 2 ^ width * 2 ^ pos))

/-- R95. -/
def execAnd (h : Hdr) (d a b : BitVec 6) (s : State) : Out :=
  s.issueWord (.and h d a b) State.noFault fun s => s.bitwise h d a b (· &&& ·)

/-- R95. -/
def execOr (h : Hdr) (d a b : BitVec 6) (s : State) : Out :=
  s.issueWord (.or h d a b) State.noFault fun s => s.bitwise h d a b (· ||| ·)

/-- R95. -/
def execXor (h : Hdr) (d a b : BitVec 6) (s : State) : Out :=
  s.issueWord (.xor h d a b) State.noFault fun s => s.bitwise h d a b (· ^^^ ·)

/-- R95. -/
def execAndn (h : Hdr) (d a b : BitVec 6) (s : State) : Out :=
  s.issueWord (.andn h d a b) State.noFault fun s => s.bitwise h d a b fun x y => x &&& ~~~y

/-- R96. -/
def execShl (h : Hdr) (d a b : BitVec 6) (s : State) : Out :=
  s.issueWord (.shl h d a b) State.noFault fun s => s.bitwise h d a b fun x y => shlW x y.toNat

/-- R96. -/
def execShr (h : Hdr) (d a b : BitVec 6) (s : State) : Out :=
  s.issueWord (.shr h d a b) State.noFault fun s => s.bitwise h d a b fun x y => shrW x y.toNat

/-- R96. -/
def execSar (h : Hdr) (d a b : BitVec 6) (s : State) : Out :=
  s.issueWord (.sar h d a b) State.noFault fun s => s.bitwise h d a b fun x y => sarW x y.toNat

/-- R96. -/
def execRot (h : Hdr) (d a b : BitVec 6) (s : State) : Out :=
  s.issueWord (.rot h d a b) State.noFault fun s => s.bitwise h d a b fun x y => rotW x y.toNat

/-- R97. -/
def execShli (h : Hdr) (d a i : BitVec 6) (s : State) : Out :=
  s.issueWord (.shli h d a i) State.noFault fun s => s.writeLike h d a fun l => shlW (s.V a.toNat l) i.toNat

/-- R97. -/
def execShri (h : Hdr) (d a i : BitVec 6) (s : State) : Out :=
  s.issueWord (.shri h d a i) State.noFault fun s => s.writeLike h d a fun l => shrW (s.V a.toNat l) i.toNat

/-- R97. -/
def execSari (h : Hdr) (d a i : BitVec 6) (s : State) : Out :=
  s.issueWord (.sari h d a i) State.noFault fun s => s.writeLike h d a fun l => sarW (s.V a.toNat l) i.toNat

/-- R98. -/
def execBitsClz (h : Hdr) (d a : BitVec 6) (s : State) : Out :=
  s.issueWord (.bitsClz h d a) State.noFault fun s =>
    s.writeLanes h.guard d.toNat (fun l => BitVec.ofNat 32 (clzW (s.V a.toNat l))) fun _ => .u32

/-- R98. -/
def execBitsPopc (h : Hdr) (d a : BitVec 6) (s : State) : Out :=
  s.issueWord (.bitsPopc h d a) State.noFault fun s =>
    s.writeLanes h.guard d.toNat (fun l => BitVec.ofNat 32 (popCount 32 (s.V a.toNat l).toNat)) fun _ => .u32

/-- R98. -/
def execBitsBrev (h : Hdr) (d a : BitVec 6) (s : State) : Out :=
  s.issueWord (.bitsBrev h d a) State.noFault fun s => s.writeLike h d a fun l => brevW (s.V a.toNat l)

/-- R98. -/
def execBitsFfs (h : Hdr) (d a : BitVec 6) (s : State) : Out :=
  s.issueWord (.bitsFfs h d a) State.noFault fun s =>
    s.writeLanes h.guard d.toNat (fun l => BitVec.ofNat 32 (ffsW (s.V a.toNat l))) fun _ => .u32

/-- R98. -/
def execBitsByterev (h : Hdr) (d a : BitVec 6) (s : State) : Out :=
  s.issueWord (.bitsByterev h d a) State.noFault fun s => s.writeLike h d a fun l => byterevW (s.V a.toNat l)

/-- R99. -/
def execBfx (h : Hdr) (d a pos : BitVec 6) (lit : BitVec 32) (s : State) : Out :=
  s.issueWord (.bfx h d a pos lit) State.noFault fun s =>
    s.writeLanes h.guard d.toNat
      (fun l => bfxW (s.tagOf (l / 4) a.toNat) (s.V a.toNat l) pos.toNat (lit.toNat % 64))
      fun k => if s.tagOf k a.toNat = .i32 then .i32 else .u32

/-- R100. -/
def execBfi (h : Hdr) (d a pos : BitVec 6) (lit : BitVec 32) (s : State) : Out :=
  s.issueWord (.bfi h d a pos lit) State.noFault fun s =>
    s.writeLike h d d fun l => bfiW (s.V d.toNat l) (s.V a.toNat l) pos.toNat (lit.toNat % 64)

end Sys2Proof.Machine
end

