-- ==== Sys2Proof/Machine/Lanes.lean ====
section
/-! DEFINITION. Cross-lane words (R121–R128, R132, R409): shuffles, match, reductions, scans, composition. -/

namespace Sys2Proof.Machine

namespace State

/-! ### Shuffles (R125) -/

/-- Each active lane takes the word of its source lane, or its own where that is foreign or no lane. -/
def shuffle (s : State) (h : Hdr) (d a : BitVec 6) (src : Nat → Option Nat) : State :=
  s.writeLike h d a fun l =>
    match src l with
    | some j => if s.issuing j && decide (j < 32) then s.V a.toNat j else s.V a.toNat l
    | none => s.V a.toNat l

/-- The poison trap of the source words a shuffle reads (R123). -/
def shufflePoison (s : State) (h : Hdr) (a : BitVec 6) (src : Nat → Option Nat) : Option TrapInfo :=
  let read := (s.actLanes h.guard).map fun l =>
    match src l with | some j => if s.issuing j && decide (j < 32) then j else l | none => l
  s.poisonTrap (s.cur.slices.map fun k => (k, a.toNat, 0, nibOf fun j => read.contains (4 * k + j)))

/-- The source lanes of Table 5-2. -/
def srcIndex (s : State) (b : BitVec 6) (l : Nat) : Option Nat := some ((s.V b.toNat l).toNat % 32)
def srcBcast (s : State) (h : Hdr) (b : BitVec 6) (_ : Nat) : Option Nat :=
  (s.lowest h.guard).map fun j => (s.V b.toNat j).toNat % 32
def srcDown (n l : Nat) : Option Nat := if n ≤ l then some (l - n) else none

/-! ### Reductions (R127) -/

/-- The words of a register in a list of lanes. -/
def words (s : State) (a : BitVec 6) (ls : List Nat) : List Word := ls.map (s.V a.toNat)

/-- The anchored sum of element `j` of some lane words, on the grid of all the active ones. -/
def sumElem (s : State) (f : Fmt) (t : Tag) (lane j : Nat) (all ws : List Word) : Nat :=
  let α := f.emaxSet (all.map fun w => elemOf t w j) + 1
  (anchorSum α (ws.map fun w => elemTerm f f.quiet (elemOf t w j))).toFmt f α (f.nanOf lane s.hash)

/-- The sum of some lane words, element by element (R127); `all` are the words of every active lane. -/
def sumWords (s : State) (t : Tag) (lane : Nat) (all ws : List Word) : Word :=
  match fmtOf t with
  | some f => ofElems t fun j => s.sumElem f t lane j all ws
  | none => ofElems t fun j => wrapNat ((ws.map fun w => elemInt t (elemOf t w j)).sum) (elemBits t)

/-- The smallest (`lo`) or largest of some lane words, element by element (R84, R127); `start` for none. -/
def pickWords (s : State) (t : Tag) (lo : Bool) (start : Word) : List Word → Word
  | [] => start
  | w :: ws =>
    let two (x y : Word) : Word := s.elem2 t 0 (if lo then min else max) (fun f v => f.pick v.ftz lo) x y
    ws.foldl two (two w w)

/-- Write one word to every active lane. -/
def writeAll (s : State) (h : Hdr) (d a : BitVec 6) (f : Tag → List Nat → Word) : State :=
  let ls := s.actLanes h.guard
  let w := f (s.tagOf (s.cur.slices.headD 0) a.toNat) ls
  s.writeLike h d a fun _ => w

/-- The exact integer sum of every element of every active lane. -/
def esum (s : State) (h : Hdr) (a : BitVec 6) : Int :=
  let t := s.tagOf (s.cur.slices.headD 0) a.toNat
  ((s.words a (s.actLanes h.guard)).map fun w => ((List.range (nelem t)).map fun j => elemInt t (elemOf t w j)).sum).sum

end State

/-- The identity of an exclusive `min` (`lo`) or `max` (R128). -/
def scanIdentity (t : Tag) (lo : Bool) : Word :=
  match fmtOf t with
  | some f => ofElems t fun _ => f.sign (!lo) + f.infBits
  | none =>
    if isSint t then ofElems t fun _ => if lo then 2 ^ (elemBits t - 1) - 1 else 2 ^ (elemBits t - 1)
    else ofElems t fun _ => if lo then 2 ^ elemBits t - 1 else 0

namespace State

/-- Running reductions in lane order (R128). -/
def scan (s : State) (h : Hdr) (d a : BitVec 6) (excl : Bool) (f : Tag → List Word → List Word → Word) : State :=
  let ls := s.actLanes h.guard
  let t := s.tagOf (s.cur.slices.headD 0) a.toNat
  let all := s.words a ls
  s.writeLike h d a fun l => f t all (s.words a (ls.filter fun k => decide (k < l) || (!excl && decide (k = l))))

/-! ### Composition (R132) -/

/-- One element of a composed map. -/
def composeElem (s : State) (b : BitVec 6) (e : Nat) : Nat :=
  if 128 ≤ e then e else if !s.issuing (e / 4) then 0xFF else elemOf .idx (s.V b.toNat (e / 4)) (e % 4)

/-- The lanes of map b that active lanes refer to. -/
def composeReads (s : State) (h : Hdr) (a : BitVec 6) : List Nat :=
  (s.actLanes h.guard).flatMap fun l =>
    (List.range 4).filterMap fun j =>
      let e := elemOf .idx (s.V a.toNat l) j
      if e < 128 ∧ s.issuing (e / 4) then some (e / 4) else none

end State

/-! ### Meanings -/

/-- R125. -/
def execShfli (h : Hdr) (d a b : BitVec 6) (s : State) : Out :=
  s.issueWord (.shfli h d a b) (fun s => s.shufflePoison h a (s.srcIndex b)) fun s => s.shuffle h d a (s.srcIndex b)

/-- R125. -/
def execShflx (h : Hdr) (d a : BitVec 6) (i : BitVec 5) (s : State) : Out :=
  s.issueWord (.shflx h d a i) (fun s => s.shufflePoison h a fun l => some (l ^^^ i.toNat))
    fun s => s.shuffle h d a fun l => some (l ^^^ i.toNat)

/-- R125. -/
def execShflu (h : Hdr) (d a : BitVec 6) (i : BitVec 5) (s : State) : Out :=
  s.issueWord (.shflu h d a i) (fun s => s.shufflePoison h a (State.srcDown i.toNat))
    fun s => s.shuffle h d a (State.srcDown i.toNat)

/-- R125. -/
def execShfld (h : Hdr) (d a : BitVec 6) (i : BitVec 5) (s : State) : Out :=
  s.issueWord (.shfld h d a i) (fun s => s.shufflePoison h a fun l => some (l + i.toNat))
    fun s => s.shuffle h d a fun l => some (l + i.toNat)

/-- R125. -/
def execBcast (h : Hdr) (d a b : BitVec 6) (s : State) : Out :=
  s.issueWord (.bcast h d a b) (fun s => s.shufflePoison h a (s.srcBcast h b)) fun s => s.shuffle h d a (s.srcBcast h b)

/-- R126. -/
def execMatchEq (h : Hdr) (d a : BitVec 6) (s : State) : Out :=
  s.issueWord (.matchEq h d a) State.noFault fun s =>
    s.writeLanes h.guard d.toNat
      (fun l => lanesWord ((s.actLanes h.guard).filter fun k => decide (s.V a.toNat k = s.V a.toNat l))) fun _ => .u32

/-- R127. -/
def execRedSum (h : Hdr) (d a : BitVec 6) (s : State) : Out :=
  s.issueWord (.redSum h d a) State.noFault fun s =>
    s.writeAll h d a fun t ls => s.sumWords t (ls.headD 0) (s.words a ls) (s.words a ls)

/-- R127. -/
def execRedEsum (h : Hdr) (d a : BitVec 6) (s : State) : Out :=
  s.issueWord (.redEsum h d a) State.noFault fun s => s.write64 h.guard d.toNat fun _ => BitVec.ofInt 64 (s.esum h a)

/-- R127. -/
def execRedMin (h : Hdr) (d a : BitVec 6) (s : State) : Out :=
  s.issueWord (.redMin h d a) State.noFault fun s => s.writeAll h d a fun t ls => s.pickWords t true 0 (s.words a ls)

/-- R127. -/
def execRedMax (h : Hdr) (d a : BitVec 6) (s : State) : Out :=
  s.issueWord (.redMax h d a) State.noFault fun s => s.writeAll h d a fun t ls => s.pickWords t false 0 (s.words a ls)

/-- R127. -/
def execRedAnd (h : Hdr) (d a : BitVec 6) (s : State) : Out :=
  s.issueWord (.redAnd h d a) State.noFault fun s =>
    s.writeAll h d a fun _ ls => (s.words a ls).foldl (· &&& ·) (BitVec.allOnes 32)

/-- R127. -/
def execRedOr (h : Hdr) (d a : BitVec 6) (s : State) : Out :=
  s.issueWord (.redOr h d a) State.noFault fun s => s.writeAll h d a fun _ ls => (s.words a ls).foldl (· ||| ·) 0

/-- R127. -/
def execRedXor (h : Hdr) (d a : BitVec 6) (s : State) : Out :=
  s.issueWord (.redXor h d a) State.noFault fun s => s.writeAll h d a fun _ ls => (s.words a ls).foldl (· ^^^ ·) 0

/-- R128. -/
def execScanSum (h : Hdr) (d a : BitVec 6) (e : BitVec 1) (s : State) : Out :=
  s.issueWord (.scanSum h d a e) State.noFault fun s =>
    s.scan h d a (e == 1#1) fun t all ws => s.sumWords t ((s.lowest h.guard).getD 0) all ws

/-- R128. -/
def execScanMin (h : Hdr) (d a : BitVec 6) (e : BitVec 1) (s : State) : Out :=
  s.issueWord (.scanMin h d a e) State.noFault fun s =>
    s.scan h d a (e == 1#1) fun t _ ws => s.pickWords t true (scanIdentity t true) ws

/-- R128. -/
def execScanMax (h : Hdr) (d a : BitVec 6) (e : BitVec 1) (s : State) : Out :=
  s.issueWord (.scanMax h d a e) State.noFault fun s =>
    s.scan h d a (e == 1#1) fun t _ ws => s.pickWords t false (scanIdentity t false) ws

/-- R132. -/
def execCompose (h : Hdr) (d a b : BitVec 6) (s : State) : Out :=
  s.issueWord (.compose h d a b)
    (fun s => s.poisonTrap (s.cur.slices.map fun k =>
      (k, b.toNat, 1, nibOf fun j => (s.composeReads h a).contains (4 * k + j))))
    fun s => s.writeLanes h.guard d.toNat
      (fun l => ofElems .idx fun j => s.composeElem b (elemOf .idx (s.V a.toNat l) j)) fun _ => .idx

end Sys2Proof.Machine
end

