-- ==== Sys2Proof/Machine/Masks.lean ====
section
/-! DEFINITION. Predicates and mask registers (R129–R131): `ballot`, `vote`, `qop`, `qi`, `qv`, `pq`. -/

namespace Sys2Proof.Machine

/-- R129. -/
def execBallot (h : Hdr) (d : BitVec 4) (k : BitVec 3) (s : State) : Out :=
  s.issueWord (.ballot h d k) State.noFault fun s =>
    s.writeQ d.toNat (lanesWord ((s.actLanes h.guard).filter (s.P k.toNat)))

/-- R129. -/
def execVoteAny (h : Hdr) (p k : BitVec 3) (s : State) : Out :=
  s.issueWord (.voteAny h p k) State.noFault fun s =>
    s.writePred h.guard p fun _ => (s.actLanes h.guard).any (s.P k.toNat)

/-- R129. -/
def execVoteAll (h : Hdr) (p k : BitVec 3) (s : State) : Out :=
  s.issueWord (.voteAll h p k) State.noFault fun s =>
    s.writePred h.guard p fun _ => (s.actLanes h.guard).all (s.P k.toNat)

/-- R129. -/
def execVoteUni (h : Hdr) (p : BitVec 3) (a : BitVec 6) (s : State) : Out :=
  s.issueWord (.voteUni h p a) State.noFault fun s =>
    s.writePred h.guard p fun _ =>
      (s.actLanes h.guard).all fun l => decide (s.V a.toNat l = s.V a.toNat ((s.lowest h.guard).getD 0))

/-- A word of two mask registers (R130). -/
def State.maskOp (s : State) (d a b : BitVec 4) (f : Word → Word → Word) : State := s.writeQ d.toNat (f (s.Q a.toNat) (s.Q b.toNat))

/-- R130. -/
def execQopAnd (h : Hd0) (d a b : BitVec 4) (s : State) : Out :=
  s.issueWord (.qopAnd h d a b) State.noFault fun s => s.maskOp d a b (· &&& ·)

/-- R130. -/
def execQopOr (h : Hd0) (d a b : BitVec 4) (s : State) : Out :=
  s.issueWord (.qopOr h d a b) State.noFault fun s => s.maskOp d a b (· ||| ·)

/-- R130. -/
def execQopXor (h : Hd0) (d a b : BitVec 4) (s : State) : Out :=
  s.issueWord (.qopXor h d a b) State.noFault fun s => s.maskOp d a b (· ^^^ ·)

/-- R130. -/
def execQopAndn (h : Hd0) (d a b : BitVec 4) (s : State) : Out :=
  s.issueWord (.qopAndn h d a b) State.noFault fun s => s.maskOp d a b fun x y => x &&& ~~~y

/-- R130. -/
def execQopOrn (h : Hd0) (d a b : BitVec 4) (s : State) : Out :=
  s.issueWord (.qopOrn h d a b) State.noFault fun s => s.maskOp d a b fun x y => x ||| ~~~y

/-- R130. -/
def execQopXnor (h : Hd0) (d a b : BitVec 4) (s : State) : Out :=
  s.issueWord (.qopXnor h d a b) State.noFault fun s => s.maskOp d a b fun x y => ~~~(x ^^^ y)

/-- R130. -/
def execQopMov (h : Hd0) (d a : BitVec 4) (s : State) : Out :=
  s.issueWord (.qopMov h d a) State.noFault fun s => s.maskOp d a a fun x _ => x

/-- R130. -/
def execQopNot (h : Hd0) (d a : BitVec 4) (s : State) : Out :=
  s.issueWord (.qopNot h d a) State.noFault fun s => s.maskOp d a a fun x _ => ~~~x

/-- R130: the lowest set bit alone; b is read by no code. -/
def execQopLsb (h : Hd0) (d a b : BitVec 4) (s : State) : Out :=
  s.issueWord (.qopLsb h d a b) State.noFault fun s => s.maskOp d a b fun x _ => x &&& -x

/-- R130. -/
def execQopClrlsb (h : Hd0) (d a b : BitVec 4) (s : State) : Out :=
  s.issueWord (.qopClrlsb h d a b) State.noFault fun s => s.maskOp d a b fun x _ => x &&& (x - 1)

/-- R131. -/
def execQi (h : Hd0) (d : BitVec 4) (i : BitVec 12) (s : State) : Out :=
  s.issueWord (.qi h d i) State.noFault fun s => s.writeQ d.toNat (i.signExtend 32)

/-- R129. -/
def execQvToVector (h : Hd0) (d : BitVec 6) (a : BitVec 4) (s : State) : Out :=
  s.issueWord (.qvToVector h d a) State.noFault fun s => s.writeLanes 0 d.toNat (fun _ => s.Q a.toNat) fun _ => .u32

/-- R129. -/
def execQvToMask (h : Hd0) (d : BitVec 4) (a : BitVec 6) (s : State) : Out :=
  s.issueWord (.qvToMask h d a) State.noFault fun s =>
    match s.lowest 0 with
    | some l => s.writeQ d.toNat (s.V a.toNat l)
    | none => s

/-- R129. -/
def execPqToPredicate (h : Hdr) (p : BitVec 3) (a : BitVec 4) (s : State) : Out :=
  s.issueWord (.pqToPredicate h p a) State.noFault fun s => s.writePred h.guard p fun l => (s.Q a.toNat).getLsbD l

/-- R129: the bits of the active lanes alone; the others stand as they are held. -/
def execPqToMask (h : Hdr) (d : BitVec 4) (k : BitVec 3) (s : State) : Out :=
  s.issueWord (.pqToMask h d k) State.noFault fun s =>
    let m := lanesWord (s.actLanes h.guard)
    s.writeQ d.toNat ((s.me.masks.getOr d.toNat 0 &&& ~~~m) ||| lanesWord ((s.actLanes h.guard).filter (s.P k.toNat)))

end Sys2Proof.Machine
end

