-- ==== Sys2Proof/Machine/Dispatch.lean ====
section
/-! DEFINITION. Each row of the opcode table to its meaning. -/

namespace Sys2Proof.Machine

open Sys2Proof

def exec (i : Instr) (s : State) : Host.Outcome State Fault Refusal :=
  match i with
  | .nop h => Sys2Proof.Machine.execNop h s
  | .add h d a b => Sys2Proof.Machine.execAdd h d a b s
  | .sub h d a b => Sys2Proof.Machine.execSub h d a b s
  | .mul h d a b => Sys2Proof.Machine.execMul h d a b s
  | .mulh h d a b => Sys2Proof.Machine.execMulh h d a b s
  | .fma h d a b => Sys2Proof.Machine.execFma h d a b s
  | .min h d a b => Sys2Proof.Machine.execMin h d a b s
  | .max h d a b => Sys2Proof.Machine.execMax h d a b s
  | .unopAbs h d a => Sys2Proof.Machine.execUnopAbs h d a s
  | .unopNeg h d a => Sys2Proof.Machine.execUnopNeg h d a s
  | .unopNabs h d a => Sys2Proof.Machine.execUnopNabs h d a s
  | .unopSat h d a => Sys2Proof.Machine.execUnopSat h d a s
  | .unopNot h d a => Sys2Proof.Machine.execUnopNot h d a s
  | .addl h d a lit => Sys2Proof.Machine.execAddl h d a lit s
  | .movl h d t lit => Sys2Proof.Machine.execMovl h d t lit s
  | .movi h d n => Sys2Proof.Machine.execMovi h d n s
  | .mov h d a => Sys2Proof.Machine.execMov h d a s
  | .sel h d a b => Sys2Proof.Machine.execSel h d a b s
  | .cmpEq h p a b => Sys2Proof.Machine.execCmpEq h p a b s
  | .cmpNe h p a b => Sys2Proof.Machine.execCmpNe h p a b s
  | .cmpLt h p a b => Sys2Proof.Machine.execCmpLt h p a b s
  | .cmpLe h p a b => Sys2Proof.Machine.execCmpLe h p a b s
  | .cmpGt h p a b => Sys2Proof.Machine.execCmpGt h p a b s
  | .cmpGe h p a b => Sys2Proof.Machine.execCmpGe h p a b s
  | .cmpUnord h p a b => Sys2Proof.Machine.execCmpUnord h p a b s
  | .cmpOrd h p a b => Sys2Proof.Machine.execCmpOrd h p a b s
  | .add64 h d a b => Sys2Proof.Machine.execAdd64 h d a b s
  | .and h d a b => Sys2Proof.Machine.execAnd h d a b s
  | .or h d a b => Sys2Proof.Machine.execOr h d a b s
  | .xor h d a b => Sys2Proof.Machine.execXor h d a b s
  | .andn h d a b => Sys2Proof.Machine.execAndn h d a b s
  | .shl h d a b => Sys2Proof.Machine.execShl h d a b s
  | .shr h d a b => Sys2Proof.Machine.execShr h d a b s
  | .sar h d a b => Sys2Proof.Machine.execSar h d a b s
  | .rot h d a b => Sys2Proof.Machine.execRot h d a b s
  | .shli h d a n => Sys2Proof.Machine.execShli h d a n s
  | .shri h d a n => Sys2Proof.Machine.execShri h d a n s
  | .sari h d a n => Sys2Proof.Machine.execSari h d a n s
  | .bitsClz h d a => Sys2Proof.Machine.execBitsClz h d a s
  | .bitsPopc h d a => Sys2Proof.Machine.execBitsPopc h d a s
  | .bitsBrev h d a => Sys2Proof.Machine.execBitsBrev h d a s
  | .bitsFfs h d a => Sys2Proof.Machine.execBitsFfs h d a s
  | .bitsByterev h d a => Sys2Proof.Machine.execBitsByterev h d a s
  | .bfx h d a pos lit => Sys2Proof.Machine.execBfx h d a pos lit s
  | .bfi h d a pos lit => Sys2Proof.Machine.execBfi h d a pos lit s
  | .dot4 h d a b => Sys2Proof.Machine.execDot4 h d a b s
  | .fnRcp h d a x => Sys2Proof.Machine.execFnRcp h d a x s
  | .fnRsq h d a x => Sys2Proof.Machine.execFnRsq h d a x s
  | .fnSqrt h d a x => Sys2Proof.Machine.execFnSqrt h d a x s
  | .fnExp2 h d a x => Sys2Proof.Machine.execFnExp2 h d a x s
  | .fnLog2 h d a x => Sys2Proof.Machine.execFnLog2 h d a x s
  | .fnTanh h d a x => Sys2Proof.Machine.execFnTanh h d a x s
  | .fnSigm h d a x => Sys2Proof.Machine.execFnSigm h d a x s
  | .fdiv h d a b => Sys2Proof.Machine.execFdiv h d a b s
  | .fscale h d a b => Sys2Proof.Machine.execFscale h d a b s
  | .fcls h d a m => Sys2Proof.Machine.execFcls h d a m s
  | .cvt h d a r t => Sys2Proof.Machine.execCvt h d a r t s
  | .tag h d a t => Sys2Proof.Machine.execTag h d a t s
  | .qblk h d a k => Sys2Proof.Machine.execQblk h d a k s
  | .unpb h d a k => Sys2Proof.Machine.execUnpb h d a k s
  | .frnd h d a r => Sys2Proof.Machine.execFrnd h d a r s
  | .shfli h d a b => Sys2Proof.Machine.execShfli h d a b s
  | .shflx h d a n => Sys2Proof.Machine.execShflx h d a n s
  | .shflu h d a n => Sys2Proof.Machine.execShflu h d a n s
  | .shfld h d a n => Sys2Proof.Machine.execShfld h d a n s
  | .ballot h d k => Sys2Proof.Machine.execBallot h d k s
  | .voteAny h p k => Sys2Proof.Machine.execVoteAny h p k s
  | .voteAll h p k => Sys2Proof.Machine.execVoteAll h p k s
  | .voteUni h p a => Sys2Proof.Machine.execVoteUni h p a s
  | .matchEq h d a => Sys2Proof.Machine.execMatchEq h d a s
  | .redSum h d a => Sys2Proof.Machine.execRedSum h d a s
  | .redEsum h d a => Sys2Proof.Machine.execRedEsum h d a s
  | .redMin h d a => Sys2Proof.Machine.execRedMin h d a s
  | .redMax h d a => Sys2Proof.Machine.execRedMax h d a s
  | .redAnd h d a => Sys2Proof.Machine.execRedAnd h d a s
  | .redOr h d a => Sys2Proof.Machine.execRedOr h d a s
  | .redXor h d a => Sys2Proof.Machine.execRedXor h d a s
  | .scanSum h d a e => Sys2Proof.Machine.execScanSum h d a e s
  | .scanMin h d a e => Sys2Proof.Machine.execScanMin h d a e s
  | .scanMax h d a e => Sys2Proof.Machine.execScanMax h d a e s
  | .bcast h d a b => Sys2Proof.Machine.execBcast h d a b s
  | .qopAnd h d a b => Sys2Proof.Machine.execQopAnd h d a b s
  | .qopOr h d a b => Sys2Proof.Machine.execQopOr h d a b s
  | .qopXor h d a b => Sys2Proof.Machine.execQopXor h d a b s
  | .qopAndn h d a b => Sys2Proof.Machine.execQopAndn h d a b s
  | .qopOrn h d a b => Sys2Proof.Machine.execQopOrn h d a b s
  | .qopXnor h d a b => Sys2Proof.Machine.execQopXnor h d a b s
  | .qopMov h d a => Sys2Proof.Machine.execQopMov h d a s
  | .qopNot h d a => Sys2Proof.Machine.execQopNot h d a s
  | .qopLsb h d a b => Sys2Proof.Machine.execQopLsb h d a b s
  | .qopClrlsb h d a b => Sys2Proof.Machine.execQopClrlsb h d a b s
  | .qi h d n => Sys2Proof.Machine.execQi h d n s
  | .qvToVector h d a => Sys2Proof.Machine.execQvToVector h d a s
  | .qvToMask h d a => Sys2Proof.Machine.execQvToMask h d a s
  | .pqToPredicate h p a => Sys2Proof.Machine.execPqToPredicate h p a s
  | .pqToMask h d k => Sys2Proof.Machine.execPqToMask h d k s
  | .compose h d a b => Sys2Proof.Machine.execCompose h d a b s
  | .bra h o => Sys2Proof.Machine.execBra h o s
  | .join h => Sys2Proof.Machine.execJoin h s
  | .brx h a => Sys2Proof.Machine.execBrx h a s
  | .call h l o => Sys2Proof.Machine.execCall h l o s
  | .callx h l a => Sys2Proof.Machine.execCallx h l a s
  | .ret h => Sys2Proof.Machine.execRet h s
  | .callv h l o va vb sg off => Sys2Proof.Machine.execCallv h l o va vb sg off s
  | .vqual h a => Sys2Proof.Machine.execVqual h a s
  | .regang h => Sys2Proof.Machine.execRegang h s
  | .exit h => Sys2Proof.Machine.execExit h s
  | .trap h n => Sys2Proof.Machine.execTrap h n s
  | .rft h => Sys2Proof.Machine.execRft h s
  | .region h n => Sys2Proof.Machine.execRegion h n s
  | .hint h a lo hi => Sys2Proof.Machine.execHint h a lo hi s
  | .rolesw h n => Sys2Proof.Machine.execRolesw h n s
  | .stage h => Sys2Proof.Machine.execStage h s
  | .sleep h a => Sys2Proof.Machine.execSleep h a s
  | .sleepC h b a => Sys2Proof.Machine.execSleepC h b a s
  | .wait h p a => Sys2Proof.Machine.execWait h p a s
  | .waitCnt h a => Sys2Proof.Machine.execWaitCnt h a s
  | .macroOp h p va vb vc vd => Sys2Proof.Machine.execMacroOp h p va vb vc vd s
  | .csrr h d n => Sys2Proof.Machine.execCsrr h d n s
  | .csrw h d n => Sys2Proof.Machine.execCsrw h d n s
  | .stepend h => Sys2Proof.Machine.execStepend h s
  | .qpush h a p n => Sys2Proof.Machine.execQpush h a p n s
  | .qpop h d p n => Sys2Proof.Machine.execQpop h d p n s
  | .segwBase h a e => Sys2Proof.Machine.execSegwBase h a e s
  | .segwLimit h a e => Sys2Proof.Machine.execSegwLimit h a e s
  | .segrBase h d e => Sys2Proof.Machine.execSegrBase h d e s
  | .segrLimit h d e => Sys2Proof.Machine.execSegrLimit h d e s
  | .tlbi h a => Sys2Proof.Machine.execTlbi h a s
  | .tlbiAsid h a => Sys2Proof.Machine.execTlbiAsid h a s
  | .tlbiAll h => Sys2Proof.Machine.execTlbiAll h s
  | .mcsld h a p => Sys2Proof.Machine.execMcsld h a p s
  | .dbrk h n => Sys2Proof.Machine.execDbrk h n s
  | .pause h n => Sys2Proof.Machine.execPause h n s
  | .ldb h d a e t => Sys2Proof.Machine.execLdb h d a e t s
  | .ldh h d a e t => Sys2Proof.Machine.execLdh h d a e t s
  | .ldw h d a e t => Sys2Proof.Machine.execLdw h d a e t s
  | .ldd h d a e t => Sys2Proof.Machine.execLdd h d a e t s
  | .ldc h d a t => Sys2Proof.Machine.execLdc h d a t s
  | .ldt h d a e t => Sys2Proof.Machine.execLdt h d a e t s
  | .stb h d a e => Sys2Proof.Machine.execStb h d a e s
  | .sth h d a e => Sys2Proof.Machine.execSth h d a e s
  | .stw h d a e => Sys2Proof.Machine.execStw h d a e s
  | .std h d a e => Sys2Proof.Machine.execStd h d a e s
  | .atomAdd h d a e => Sys2Proof.Machine.execAtomAdd h d a e s
  | .atomMin h d a e => Sys2Proof.Machine.execAtomMin h d a e s
  | .atomMax h d a e => Sys2Proof.Machine.execAtomMax h d a e s
  | .atomAnd h d a e => Sys2Proof.Machine.execAtomAnd h d a e s
  | .atomOr h d a e => Sys2Proof.Machine.execAtomOr h d a e s
  | .atomXor h d a e => Sys2Proof.Machine.execAtomXor h d a e s
  | .atomExch h d a e => Sys2Proof.Machine.execAtomExch h d a e s
  | .atomAddwrap h d a e => Sys2Proof.Machine.execAtomAddwrap h d a e s
  | .cas h d a e => Sys2Proof.Machine.execCas h d a e s
  | .asum h d a e => Sys2Proof.Machine.execAsum h d a e s
  | .srd h d a e => Sys2Proof.Machine.execSrd h d a e s
  | .fenceAcq h => Sys2Proof.Machine.execFenceAcq h s
  | .fenceRel h => Sys2Proof.Machine.execFenceRel h s
  | .fenceAcqrel h => Sys2Proof.Machine.execFenceAcqrel h s
  | .fencePath h m => Sys2Proof.Machine.execFencePath h m s
  | .fenceEng h => Sys2Proof.Machine.execFenceEng h s
  | .kick h d a b => Sys2Proof.Machine.execKick h d a b s
  | .binit h d a => Sys2Proof.Machine.execBinit h d a s
  | .barr h d a b => Sys2Proof.Machine.execBarr h d a b s
  | .btest h d a f => Sys2Proof.Machine.execBtest h d a f s
  | .trst h a => Sys2Proof.Machine.execTrst h a s
  | .legal h d a b => Sys2Proof.Machine.execLegal h d a b s
  | .dist h d a b => Sys2Proof.Machine.execDist h d a b s
  | .topk h d a b => Sys2Proof.Machine.execTopk h d a b s
  | .rng h d a b p => Sys2Proof.Machine.execRng h d a b p s
  | .sload h a n => Sys2Proof.Machine.execSload h a n s
  | .nsend h a n => Sys2Proof.Machine.execNsend h a n s
  | .mfrd h d a n => Sys2Proof.Machine.execMfrd h d a n s
  | .mfwr h d a n => Sys2Proof.Machine.execMfwr h d a n s
  | .mfopAppend h d a => Sys2Proof.Machine.execMfopAppend h d a s
  | .mfopRollback h d a => Sys2Proof.Machine.execMfopRollback h d a s
  | .mfopFinish h d a => Sys2Proof.Machine.execMfopFinish h d a s
  | .mfopFault h d a => Sys2Proof.Machine.execMfopFault h d a s
  | .trapEntry gang => Sys2Proof.Machine.execTrapEntry gang s
  | .breakpointStop gang slice => Sys2Proof.Machine.execBreakpointStop gang slice s
  | .regangRelease gang => Sys2Proof.Machine.execRegangRelease gang s
  | .retRendezvous gang inst => Sys2Proof.Machine.execRetRendezvous gang inst s
  | .sleepWake gang slice => Sys2Proof.Machine.execSleepWake gang slice s
  | .waitRelease gang slice => Sys2Proof.Machine.execWaitRelease gang slice s
  | .pauseEnd gang slice => Sys2Proof.Machine.execPauseEnd gang slice s
  | .engineQueueRoom gang slice => Sys2Proof.Machine.execEngineQueueRoom gang slice s
  | .fenceEngJoin gang slice => Sys2Proof.Machine.execFenceEngJoin gang slice s
  | .stageItemTaken gang => Sys2Proof.Machine.execStageItemTaken gang s
  | .poundClose launch => Sys2Proof.Machine.execPoundClose launch s
  | .roleSwitchBacking gang => Sys2Proof.Machine.execRoleSwitchBacking gang s
  | .moveRegister gang slice => Sys2Proof.Machine.execMoveRegister gang slice s
  | .moveAtomic gang slice => Sys2Proof.Machine.execMoveAtomic gang slice s
  | .moveReleaseComplete gang slice => Sys2Proof.Machine.execMoveReleaseComplete gang slice s
  | .moveWriteBack die key => Sys2Proof.Machine.execMoveWriteBack die key s
  | .moveFill core asid va => Sys2Proof.Machine.execMoveFill core asid va s
  | .moveDrop cache unit key => Sys2Proof.Machine.execMoveDrop cache unit key s
  | .engineAccess thread unit => Sys2Proof.Machine.execEngineAccess thread unit s
  | .landing thread unit => Sys2Proof.Machine.execLanding thread unit s
  | .followOnFire thread => Sys2Proof.Machine.execFollowOnFire thread s
  | .matrixOpen core => Sys2Proof.Machine.execMatrixOpen core s
  | .matrixAccumulate core => Sys2Proof.Machine.execMatrixAccumulate core s
  | .matrixClose core => Sys2Proof.Machine.execMatrixClose core s
  | .trestleThread thread => Sys2Proof.Machine.execTrestleThread thread s
  | .nvmeCompletion thread cmd status data => Sys2Proof.Machine.execNvmeCompletion thread cmd status data s
  | .quayTimeout thread => Sys2Proof.Machine.execQuayTimeout thread s
  | .messageAcknowledged thread => Sys2Proof.Machine.execMessageAcknowledged thread s
  | .messageUndeliverable thread => Sys2Proof.Machine.execMessageUndeliverable thread s
  | .messageArrival asid tag source payload => Sys2Proof.Machine.execMessageArrival asid tag source payload s
  | .barrierDeadlock core barrier => Sys2Proof.Machine.execBarrierDeadlock core barrier s
  | .towSpill gang slice => Sys2Proof.Machine.execTowSpill gang slice s
  | .towRefill gang slice => Sys2Proof.Machine.execTowRefill gang slice s
  | .compaction core quarter => Sys2Proof.Machine.execCompaction core quarter s
  | .launchDequeue => Sys2Proof.Machine.execLaunchDequeue s
  | .gangPlacement launch => Sys2Proof.Machine.execGangPlacement launch s
  | .gangStart gang => Sys2Proof.Machine.execGangStart gang s
  | .launchEnd launch => Sys2Proof.Machine.execLaunchEnd launch s
  | .sluiceDoorbell q tail => Sys2Proof.Machine.execSluiceDoorbell q tail s
  | .sluiceLaunch q => Sys2Proof.Machine.execSluiceLaunch q s
  | .sluiceWait q => Sys2Proof.Machine.execSluiceWait q s
  | .sluiceSignal q => Sys2Proof.Machine.execSluiceSignal q s
  | .sluiceArm q => Sys2Proof.Machine.execSluiceArm q s
  | .sluiceDisarm q => Sys2Proof.Machine.execSluiceDisarm q s
  | .semaphoreRetest q => Sys2Proof.Machine.execSemaphoreRetest q s
  | .sluiceErrorClear q => Sys2Proof.Machine.execSluiceErrorClear q s
  | .rotationInterrupt => Sys2Proof.Machine.execRotationInterrupt s
  | .lockEnable reach value => Sys2Proof.Machine.execLockEnable reach value s
  | .lockDisable reach => Sys2Proof.Machine.execLockDisable reach s
  | .subtailWrite reach value => Sys2Proof.Machine.execSubtailWrite reach value s
  | .stepFinished reach => Sys2Proof.Machine.execStepFinished reach s
  | .lockRetire reach => Sys2Proof.Machine.execLockRetire reach s
  | .lockReserve reach => Sys2Proof.Machine.execLockReserve reach s
  | .lockAdmit reach => Sys2Proof.Machine.execLockAdmit reach s
  | .lockPublish reach => Sys2Proof.Machine.execLockPublish reach s
  | .lockPush reach => Sys2Proof.Machine.execLockPush reach s
  | .invalidatePage va asid => Sys2Proof.Machine.execInvalidatePage va asid s
  | .invalidateAsid asid => Sys2Proof.Machine.execInvalidateAsid asid s
  | .invalidateAll => Sys2Proof.Machine.execInvalidateAll s
  | .invalidationComplete => Sys2Proof.Machine.execInvalidationComplete s
  | .replayParkId die id cancel => Sys2Proof.Machine.execReplayParkId die id cancel s
  | .replayAsid die asid cancel => Sys2Proof.Machine.execReplayAsid die asid cancel s
  | .replayDie die cancel => Sys2Proof.Machine.execReplayDie die cancel s
  | .overflowClear die => Sys2Proof.Machine.execOverflowClear die s
  | .peerRequest node asid va store data => Sys2Proof.Machine.execPeerRequest node asid va store data s
  | .hostAccess space addr store data => Sys2Proof.Machine.execHostAccess space addr store data s
  | .preempt asid => Sys2Proof.Machine.execPreempt asid s
  | .preemptDeadline => Sys2Proof.Machine.execPreemptDeadline s
  | .saveComplete => Sys2Proof.Machine.execSaveComplete s
  | .contextRestore asid => Sys2Proof.Machine.execContextRestore asid s
  | .controlStoreReplace core => Sys2Proof.Machine.execControlStoreReplace core s
  | .watchdogExpiry asid => Sys2Proof.Machine.execWatchdogExpiry asid s
  | .powerRecompute throttled average => Sys2Proof.Machine.execPowerRecompute throttled average s
  | .powercapWrite value => Sys2Proof.Machine.execPowercapWrite value s
  | .pcSample core => Sys2Proof.Machine.execPcSample core s
  | .triggerLine line => Sys2Proof.Machine.execTriggerLine line s
  | .hostStopRequest gang => Sys2Proof.Machine.execHostStopRequest gang s
  | .hostResume gang => Sys2Proof.Machine.execHostResume gang s
  | .scrub die struct severity core addr => Sys2Proof.Machine.execScrub die struct severity core addr s
  | .retirementRequest cluster => Sys2Proof.Machine.execRetirementRequest cluster s
  | .securityVersionRaise version => Sys2Proof.Machine.execSecurityVersionRaise version s
  | .moduleReset imagesVerified version => Sys2Proof.Machine.execModuleReset imagesVerified version s
  | .getVersion => Sys2Proof.Machine.execGetVersion s
  | .getCapabilities => Sys2Proof.Machine.execGetCapabilities s
  | .negotiateAlgorithms ecdsaP384 sha384 => Sys2Proof.Machine.execNegotiateAlgorithms ecdsaP384 sha384 s
  | .getCertificate slot offset length => Sys2Proof.Machine.execGetCertificate slot offset length s
  | .challenge nonce => Sys2Proof.Machine.execChallenge nonce s
  | .getMeasurements index => Sys2Proof.Machine.execGetMeasurements index s
  | .linkTraining width rate => Sys2Proof.Machine.execLinkTraining width rate s
  | .portLinkChange port up rate => Sys2Proof.Machine.execPortLinkChange port up rate s
  | .registerWrite off size value => Sys2Proof.Machine.execRegisterWrite off size value s
  | .sluiceMap q mapped => Sys2Proof.Machine.execSluiceMap q mapped s

end Sys2Proof.Machine
end

