-- ==== Sys2Proof/Machine/Schedule.lean ====
section
/-! DEFINITION. What the machine does next: the issuing set that each quarter chooses (R206, R207, R330), the issue of its
chain (R36–R48, R62, R66), the events that the device brings about by itself, and the passing of a cycle. -/

namespace Sys2Proof.Machine

/-- Whether a row is an event, and no instruction. -/
def isEvent (i : Instr) : Bool := match i with | .nop _ => false | _ => decide (i.pipe = .none)

/-! ### Issuing sets -/

/-- Whether two slices of a gang issue as one (R206, R207). -/
def together (x y : Slice) : Bool :=
  x.stream == y.stream && x.pc == y.pc && x.replay.isSome == y.replay.isSome && x.again == y.again && x.alone == y.alone && x.macroAt == y.macroAt &&
    (x.replay.isNone || (x.next == y.next && x.rest == y.rest))

namespace State

/-- The issuing set of a slice. -/
def setOf (s : State) (g k : Nat) : List Nat :=
  (s.liveSlices g).filter fun j => s.canIssue g j && together (s.slice g k) (s.slice g j)

/-- Whether a slice would begin a microprogram whose replacement is under way (R160). -/
def awaitsStore (s : State) (g k : Nat) : Bool :=
  let y := s.gang g
  let x := s.slice g k
  (s.core y.core).loading != [] && x.macroAt.isNone && match s.packet y x.pc.toNat with
    | .ok p => (p.chain (x.pc.toNat % 3)).any fun j => match p.instr j with
      | .ok (.macroOp _ n _ _ _ _) => ((s.core y.core).loading.find n.toNat).isSome
      | _ => false
    | .error _ => false

/-- The cycle from which an issuing set is ready: its stall counts, its waits and its gang's compaction pause are over
(R330). -/
def readyAt (s : State) (g : Nat) (ks : List Nat) : Nat :=
  ks.foldl (fun m k => max m (max (s.slice g k).ready (s.slice g k).readySince)) (s.gang g).paused

end State

/-- A ready issuing set, with the keys by which a quarter chooses (R330). -/
structure Ready where
  gang : Nat
  slices : List Nat
  cls : Nat
  since : Nat
  place : Nat

/-- Whether one set goes before another. -/
def Ready.before (a b : Ready) : Bool :=
  decide (b.cls < a.cls) || (a.cls == b.cls && (decide (a.since < b.since) ||
    (a.since == b.since && (decide (a.place < b.place) || (a.place == b.place && decide (a.slices.headD 0 < b.slices.headD 0))))))

namespace State

/-- The ready sets of a gang. -/
def readySets (s : State) (g : Nat) : List Ready :=
  (s.liveSlices g).filterMap fun k =>
    let ks := s.setOf g k
    let t := s.readyAt g ks
    if ks.head? = some k ∧ t ≤ s.now ∧ !(ks.any (s.awaitsStore g)) then
      some { gang := g, slices := ks, cls := if t + 160 ≤ s.now then 4 else (s.gang g).cls, since := t, place := (s.gang g).place }
    else none

/-- The ready sets of a quarter, throttled or not. -/
def quarterReady (s : State) (q : Nat) : List Ready :=
  s.gangs.flatMap fun (g, y) => if y.quarterId = q then s.readySets g else []

/-- The quarters that hold gangs. -/
def quarters (s : State) : List Nat := s.gangs.foldl (fun l (_, y) => addSorted l y.quarterId) []

/-- Whether a quarter may issue in this cycle: it has not done so, and is not throttled. -/
def mayIssue (s : State) (q : Nat) : Bool := s.issued.getOr q 0 != s.now + 1 && !s.power.throttled.contains q

/-- The set that a quarter chooses. -/
def choose (s : State) (q : Nat) : Option Ready :=
  (s.quarterReady q).foldl (fun w r => match w with | none => some r | some b => if r.before b then some r else some b) none

/-- The set that issues next. -/
def nextSet (s : State) : Option Ready := s.quarters.findSome? fun q => if s.mayIssue q then s.choose q else none

/-! ### The issue of a chain -/

/-- A number for a destination. -/
def dstCode : Dst → Nat
  | .v st => st | .p p => 4096 + p | .q q => 4160 + q | .csr n => 4224 + n

/-- The results of a slice not yet readable, the newest first. -/
def inFlight (s : State) (g k : Nat) : List Flight :=
  (s.slice g k).flights.filter fun f => decide (s.now < f.ready) && f.mask != 0

/-- The value a word reads of a destination whose results are still under way: in each lane that one of them writes, the old
or the new one (R47). -/
def viewed (s : State) (g k : Nat) (d : Dst) : Reg :=
  let y := s.gang g
  let fs := (s.inFlight g k).filter fun f => decide (f.dst = d)
  let pick (n j : Nat) : Bool := Config.freeLane s.fresh k (8192 * (n + 1) + dstCode d) j
  let word (n : Nat) (m : Nat → Bool) (old new : Reg) : Reg :=
    wordReg (lanesWord ((List.range 32).filter fun j => if m j && pick n j then old.l0.getLsbD j else new.l0.getLsbD j))
  let back (r : Reg) (x : Flight × Nat) : Reg :=
    match d with
    | .v _ => Reg.mix x.1.mask (pick x.2) x.1.old r
    | .p _ => word x.2 (fun j => j / 4 == k && nib x.1.mask (j % 4)) x.1.old r
    | _ => word x.2 (fun _ => true) x.1.old r
  fs.zipIdx.foldl back (match d with
    | .v st => (s.slice g k).regs.getOr st Reg.zero
    | .p p => wordReg (y.preds.getOr p 0)
    | .q q => wordReg (y.masks.getOr q 0)
    | .csr _ => Reg.zero)

/-- What the words of a chain of some slices read in place of results still under way. -/
def views (s : State) (g : Nat) (ks : List Nat) : List (Nat × Dst × Reg) :=
  ks.flatMap fun k => ((s.inFlight g k).map Flight.dst).eraseDups.map fun d => (k, d, s.viewed g k d)

/-- Results that have become readable are forgotten. -/
def landFlights (s : State) (g : Nat) (ks : List Nat) : State :=
  ks.foldl (fun s k => s.modSlice g k fun x => { x with flights := x.flights.filter fun f => decide (s.now < f.ready) }) s

/-- What the chain of some slices found in the destinations that its words have written, where some of them have still to perform. -/
def keptOlds (s : State) (g : Nat) (ks : List Nat) : List (Nat × Dst × Reg) :=
  ks.flatMap fun k => (s.slice g k).olds.map fun o => (k, o)

/-- The slices of a set with a word to issue. -/
def atWord (s : State) (g : Nat) (ks : List Nat) (w chain next : Nat) : Issue :=
  { Issue.idle with
    gang := g, slices := ks, widx := BitVec.ofNat 32 w, chain := BitVec.ofNat 32 chain, next := BitVec.ofNat 32 next,
    slot := w % 3, replay := ((s.slice g (ks.headD 0)).replay).isSome, again := (s.slice g (ks.headD 0)).again,
    dix0 := ks.map fun k => (k, (s.slice g k).dix), olds := s.keptOlds g ks,
    view := (s.views g ks).filter fun v => (viewOf (s.keptOlds g ks) v.1 v.2.1).isNone }

/-- Issue one word; a word without a meaning is illegal (R64). -/
def runWord (s : State) (c : Issue) (i : Except DecodeError Instr) : Out :=
  let s := { s.renew with cur := c }
  match i with
  | .ok i => exec i s
  | .error _ => .next (s.takeTrap (s.trapAll 2 0x02 c.chain 0))

/-- Whether some slice came to wait for room in an engine queue (R182). -/
def queued (s : State) (g : Nat) (ks : List Nat) : Bool := ks.any fun k => decide ((s.slice g k).wait = some .queue)

/-- Slices wait for room at a word of their chain, which they then issue alone (R182). -/
def queueAll (s : State) (c : Issue) (ks : List Nat) : State :=
  ks.foldl (fun t k => t.holdAt k .queue) { s with cur := { c with olds := s.cur.olds } }

/-- The first of two traps that words of a chain raise: rank, slot, the state with the trap taken (R66). -/
def firstTrap (a b : Option (Nat × Nat × State)) : Option (Nat × Nat × State) :=
  match a, b with
  | some (r, k, t), some (r', k', t') => if r' < r ∨ (r' = r ∧ k' < k) then some (r', k', t') else some (r, k, t)
  | none, b => b
  | a, none => a

/-- The trap that nullifies a chain, where one of its words, each tried from the state before the chain, raises one. -/
def chainTrap (s : State) (ws : List (Issue × Except DecodeError Instr)) : Option (Nat × Nat × State) :=
  ws.foldl (fun w (c, i) => firstTrap w (match s.runWord c i with
    | .next t => t.cur.raised.bind fun (r, k) => if r < 8 then some (r, k, t) else none
    | _ => none)) none

end State

/-- The words that a slice performs only after an earlier word of its chain which holds it: those that may hold it themselves, that take it
elsewhere, or that act on what the earlier one does (R239, R388, R391). -/
def deferred (i : Instr) : Bool :=
  decide (i.pipe = .m) || match i with
  | .tlbi _ _ | .tlbiAsid _ _ | .tlbiAll _ | .mcsld _ _ _ | .call _ _ _ | .callx _ _ _ | .callv _ _ _ _ _ _ _ | .ret _ | .rft _ | .exit _ | .stepend _ | .trap _ _ | .regang _ | .rolesw _ _
  | .stage _ | .sleep _ _ | .sleepC _ _ _ | .wait _ _ _ | .waitCnt _ _ | .pause _ _ | .macroOp _ _ _ _ _ _ => true
  | _ => false

namespace State

/-- Leave a word to the held slices of its issuing set, which perform it when they go on; it is charged now. -/
def deferWord (s : State) (c : Issue) (i : Instr) (held : List Nat) : State :=
  let s := { s with cur := { c with slices := held } }
  let m (k : Nat) : BitVec 4 := s.act i.hdr.guard k
  (held.foldl (fun t k => t.modSl k fun x => { x with rest := x.rest ++ [(c.widx, m k)] }) (s.chargeWord i 0))

/-- Perform the words of a chain one after the other; each reads what stood before the chain (R41). A command without room holds its
slices, and the other words of the chain perform (R182). Where a word meets a trap only after what an earlier one did, that trap is
taken in `s₀`, the state before the chain. -/
def performAll (s₀ s : State) : List (Issue × Except DecodeError Instr) → Nat → Out
  | [], _ => .next s
  | (c, i) :: r, n =>
    let c := { c with olds := if n = 0 then c.olds else s.cur.olds, stall := max c.stall s.cur.stall, delay := s.cur.delay, word := n,
                      last := r.isEmpty }
    let held := c.slices.filter fun k => (s.slice c.gang k).park.isSome || decide ((s.slice c.gang k).wait = some .queue)
    let late : Bool := match i with | .ok j => deferred j && held != [] | _ => false
    let free := if late then c.slices.filter fun k => !held.contains k else c.slices
    let t := if late then match i with | .ok j => { s.deferWord c j held with cur := s.cur } | _ => s else s
    if free = [] then s₀.performAll t r (n + 1)
    else match t.runWord { c with slices := free } i with
      | .next u =>
        if u.cur.raised.isNone then
          s₀.performAll (if u.queued c.gang free then t.queueAll { c with slices := free } free else u) r (n + 1)
        else match u.cur.trap with
          | some ti => if ti.rank < 8 then .next ({ s₀ with cur := c }.takeTrap ti) else s₀.performAll u r (n + 1)
          | none => s₀.performAll u r (n + 1)
      | o => o

/-- A chain in the order its words perform: the K word last. -/
def byPipe (ws : List (Issue × Except DecodeError Instr)) : List (Issue × Except DecodeError Instr) :=
  let isK (w : Issue × Except DecodeError Instr) : Bool := match w.2 with | .ok i => decide (i.pipe = .k) | _ => false
  ws.filter (fun w => !isK w) ++ ws.filter isK

/-- Issue the words of a chain: the trap that comes first, or every word. -/
def issueWords (s : State) (g : Nat) (ks : List Nat) : List (Issue × Except DecodeError Instr) → Out
  | [(c, i)] =>
    match s.runWord c i with
    | .next t => .next (if t.cur.raised.isNone && t.queued g ks then s.queueAll c ks else t)
    | o => o
  | ws =>
    match s.chainTrap ws with
    | some (_, _, t) => .next t
    | none => s.performAll s (byPipe ws) 0

/-- A trap of a set that meets it in fetching, before any word issues (R36, R38, R39, R42). -/
def fetchTrap (s : State) (g : Nat) (ks : List Nat) (rank cause slot tpc tinfo : Nat) : State :=
  s.trapGang g
    { rank := rank, cause := cause, slot := slot, imp := false,
      who := ks.map fun k => ⟨k, (s.slice g k).mask, BitVec.ofNat 32 tinfo, 0, BitVec.ofNat 32 tpc⟩ }

/-- Park a set on a word whose fetch faults (R367). -/
def parkFetch (s : State) (g : Nat) (ks : List Nat) (e : XFail) (va : Nat) : State :=
  let id := s.nextPark (dieOfCore (s.gang g).core)
  let k₀ := ks.headD 0
  let lanes (k : Nat) : BitVec 4 := (s.slice g k).replay.getD (s.slice g k).mask
  let all := lanesWord (ks.flatMap fun k => ((List.range 4).filter fun j => nib (lanes k) j).map (4 * k + ·))
  ks.foldl (fun t k => t.parkSlice g k (s.slice g k).pc (s.slice g k).next (lanes k) [id] .fetch)
    (s.newPark g k₀ (s.slice g k₀).pc.toNat 4 va e all)

/-- The words of a chain as a set issues them: those of its slots, with the word after the chain. -/
def chainWords (s : State) (g : Nat) (ks : List Nat) (p : Packet) (pc : Nat) (slots : List Nat) : List (Issue × Except DecodeError Instr) :=
  let b := pc - pc % 3
  let last := (slots.getLast?).getD 0
  let x := s.slice g (ks.headD 0)
  let next := if x.replay.isSome then x.next.toNat else b + last + 1 + opLits (p.at last)
  slots.map fun j => ({ s.atWord g ks (b + j) pc next with stall := opStall (p.at last) }, p.instr j)

/-- The chain of slots that a set issues: a word that it performs alone is no chain (R165). -/
def slotsOf (x : Slice) (p : Packet) : List Nat := if x.replay.isSome then [x.pc.toNat % 3] else p.chain (x.pc.toNat % 3)

/-- The lowest slot of a chain whose words share a destination under the slices' tags (R40, R110). -/
def tagClash (s : State) (g : Nat) (ks : List Nat) (p : Packet) (slots : List Nat) : Option Nat :=
  let t := { s with cur := { Issue.idle with gang := g, slices := ks } }
  if slots.length ≤ 1 then none else ks.findSome? fun k => p.clashIn (t.tagOf k) slots

/-- ISSUE THE CHAIN at which a set of slices stands. -/
def issueChain (s : State) (g : Nat) (ks : List Nat) : Out :=
  let y := s.gang g
  let x := s.slice g (ks.headD 0)
  let pc := x.pc.toNat
  if y.codeLimit ≤ pc then .next (s.fetchTrap g ks 7 0x06 ((y.codeLimit - 1) % 3) (y.codeLimit - 1) pc)
  else match s.packet y pc with
    | .error (e, va) => .next (s.parkFetch g ks e va)
    | .ok p =>
      let slots := slotsOf x p
      match p.bad with
      | some j => .next (s.fetchTrap g ks 1 0x01 j pc 0)
      | none =>
        if !p.starts.contains (pc % 3) then .next (s.fetchTrap g ks 1 0x01 (pc % 3) pc pc)
        else match s.tagClash g ks p slots with
          | some j => .next (s.fetchTrap g ks 1 0x01 j pc 0)
          | none => s.issueWords g ks (s.chainWords g ks p pc slots)

/-- Leave a microprogram whose `macro` word is no longer there: the slices go on at the word. -/
def dropMacro (s : State) (g : Nat) (ks : List Nat) : State :=
  ks.foldl (fun s k => s.modSlice g k fun x => { x with macroAt := none }) s

/-- A microprogram with no operation left: its `macro` retires, with its stall (R62). -/
def endMacro (s : State) (g : Nat) (ks : List Nat) (stall : Nat) : State :=
  ks.foldl (fun s k => s.modSlice g k fun x =>
    { x with macroAt := none, pc := x.next, dix := x.dix + 1, ready := max x.ready (s.now + stall) }) s

/-- ISSUE AN OPERATION of a microprogram (R62): the `n`-th of the `macro` word at `w`. -/
def issueOp (s : State) (g : Nat) (ks : List Nat) (w n : Nat) : Out :=
  let y := s.gang g
  match s.packet y w with
  | .error (e, va) => .next (s.parkFetch g ks e va)
  | .ok p => match p.instr (w % 3) with
    | .ok (.macroOp h m va vb vc vd) =>
      let ops := opsRun ((s.core y.core).store.getOr m.toNat ⟨false, []⟩).ops
      match ops[n]? with
      | none => .next (s.endMacro g ks h.stall.toNat)
      | some o =>
        let end_ : Bool := decide (ops.length ≤ n + 1)
        let next := if end_ then (s.slice g (ks.headD 0)).next.toNat else w
        let c := { s.atWord g ks w w next with macroOp := some n, stall := if end_ then h.stall.toNat else 0 }
        match s.runWord c (decode (opWord o [va, vb, vc, vd]) 0 0) with
        | .next t =>
          if t.cur.raised.isNone && t.queued g ks then .next (s.queueAll c ks)
          else .next (if ks.any fun k => (t.slice g k).park.isSome then t.modGang g fun y => { y with mix := n } else t)
        | o => o
    | _ => .next (s.dropMacro g ks)

/-- A stream parts when two of its slices stand at different words or depths (R206, R207). -/
def settleStreams (s : State) (g : Nat) : State :=
  let ks := (s.liveSlices g).filter fun k => (s.slice g k).park.isNone
  let apart (j k : Nat) : Bool :=
    let x := s.slice g j
    let z := s.slice g k
    x.stream == z.stream && (x.pc != z.pc || x.relDepth != z.relDepth)
  s.partAll g (ks.filter fun k => ks.any fun j => apart j k)

/-- A breakpoint or a watchpoint is passed once (Table 10-5). -/
def clearPass (s : State) (g pc : Nat) : State :=
  s.modGang g fun y =>
    { y with passBreak := if y.passBreak = some (BitVec.ofNat 32 pc) then none else y.passBreak,
             passWatch := if y.passWatch.any fun w => w.toNat / 3 == pc / 3 then none else y.passWatch }

/-- Whether a slice has words of its chain still to perform. -/
def owes (x : Slice) : Bool := x.park.isSome || decide (x.wait = some .queue) || x.rest != [] || x.replay.isSome

/-- A set has issued: its quarter issues no more in this cycle. -/
def afterIssue (s : State) (r : Ready) (pc q now : Nat) : State :=
  let s := r.slices.foldl (fun t k => t.modSlice r.gang k fun x =>
    { x with issuedAt := now + 1, olds := if owes x then s.oldsOf r.gang k else [] }) s
  let s := { s with cur := Issue.idle, issued := s.issued.put q (now + 1) }
  (s.clearPass r.gang pc).settleStreams r.gang

/-- ISSUE for a ready set: a breakpoint stops it before its chain. -/
def issueSet (s : State) (r : Ready) : Out :=
  let g := r.gang
  let k := r.slices.headD 0
  let x := s.slice g k
  if (s.breakAt g k).isSome then execBreakpointStop g k s
  else
    let t := s.landFlights g r.slices
    let o := match x.macroAt with
      | some (w, n) => t.issueOp g r.slices w.toNat n
      | none => t.issueChain g r.slices
    match o with
    | .next u => .next (u.afterIssue r x.pc.toNat (s.gang g).quarterId s.now)
    | o => o

end State

/-- A meaning applied to its operands. -/
abbrev Move := State → Out

namespace State

/-! ### Events that the device brings about by itself -/

/-- A trap that some gang takes outside an issue. -/
def trapEvent (s : State) : Option Move := (s.gangs.keys.find? s.trapDue).map execTrapEntry

/-- The end of a wait of a slice, or its oldest pending entry's move. -/
def sliceEvent (s : State) (g k : Nat) : Option Move :=
  if s.sleepOver g k then some (execSleepWake g k)
  else if s.waitOver g k then some (execWaitRelease g k)
  else if s.pauseOver g k then some (execPauseEnd g k)
  else if s.roomNow g k then some (execEngineQueueRoom g k)
  else if s.fenceOver g k then some (execFenceEngJoin g k)
  else match (s.slice g k).pend.head? with
    | none => none
    | some p => match p.kind with
      | .store => some (execMoveRegister g k)
      | .release => some (execMoveReleaseComplete g k)
      | _ => some (execMoveAtomic g k)

/-- An instance of a gang whose slices may return. -/
def returnEvent (s : State) (g : Nat) : Option Move :=
  (s.gang g).slices.findSome? fun (_, x) => match x.point with
    | some (1, n) => if s.instanceMeets g n then some (execRetRendezvous g n) else none
    | _ => none

/-- What a gang does outside its issue. -/
def gangEvent (s : State) (g : Nat) : Option Move :=
  if s.startDue g then some (execGangStart g)
  else if s.allMeet g (fun w => decide (w = .regang)) then some (execRegangRelease g)
  else if s.switchDue g then some (execRoleSwitchBacking g)
  else if s.stageDue g then some (execStageItemTaken g)
  else (s.returnEvent g) <|> ((s.gang g).slices.keys.findSome? (s.sliceEvent g))

/-- What a thread accesses next: a word that its command asks for, a byte of its request that it can read, or can write as a whole word,
a command of a drive read that it can hand over. -/
def nextAccess (s : State) (i : Nat) : Option Nat :=
  let t := s.thread i
  let can (n : Nat) : Bool := s.mayAccess t n && (indexDue t n ||
    if (t.byte n).isNone then (s.rowOf t false n).isSome
     else !t.wrote.contains n && (s.rowOf t true n).any fun r =>
       (List.range (r.word n).2.2).all fun j => (t.byte ((r.word n).1 + j)).isSome)
  t.todo.find? (s.mayAccess t) <|> (if t.kind = .quay then t.buffer.keys else List.range t.size).find? can <|>
    if s.mayAsk i then some (s.unitBytes t t.asked).1 else none

/-- What a thread does next. -/
def threadEvent (s : State) (i : Nat) : Option Move :=
  let t := s.thread i
  if t.ended.any fun c => decide (t.kind ≠ .quay) || c != 0x40 then none
  else if s.trestleReady i then some (execTrestleThread i)
  else if s.fireReady i || s.fireLost i then some (execFollowOnFire i)
  else match (List.range (s.units t)).find? (s.landReady i) with
    | some u => some (execLanding i u)
    | none =>
      if s.drained i && !follows t then some (execLanding i 0)
      else match if s.slowed t then none else s.nextAccess i with
        | some n => some (execEngineAccess i n)
        | none => if s.driveLate i then some (execQuayTimeout i) else none

/-- What a core does next: its span array, its control store, its barriers. -/
def coreEvent (s : State) (c : Nat) : Option Move :=
  if s.spanReady c (· == 0) MatCmd.opens then some (execMatrixOpen c)
  else if s.spanReady c (· == 0) fun m => !m.opens then some (execMatrixAccumulate c)
  else if s.spanReady c (· != 0) MatCmd.closes then some (execMatrixClose c)
  else if s.replaceDue c then some (execControlStoreReplace c)
  else ((s.core c).barrierLaunch.keys.find? (s.deadlocked c)).map fun n => execBarrierDeadlock c n

/-- What a launch does next. -/
def launchEvent (s : State) (l : Nat) : Option Move :=
  if (s.placeable l).isSome then some (execGangPlacement l)
  else if s.closeDue l then some (execPoundClose l)
  else if s.endDue l then some (execLaunchEnd l)
  else none

/-- A quarter that compacts. -/
def compactEvent (s : State) : Option Move :=
  let one := s.gangs.findSome? fun (_, y) => if (s.switchFragmented y.core y.quarter).isSome then some (y.core, y.quarter) else none
  let two := s.nextPlacing.bind fun l => (s.fragmented l).map fun x => x.2
  (one <|> two).map fun (c, q) => execCompaction c q

/-- What a sluice does next. -/
def sluiceEvent (s : State) (q : Nat) : Option Move :=
  if s.retestDue q then some (execSemaphoreRetest q)
  else if s.packetDue q 0 || s.packetDue q 1 then some (execSluiceLaunch q)
  else if s.packetDue q 2 then some (execSluiceWait q)
  else if s.packetDue q 3 then some (execSluiceSignal q)
  else if s.packetDue q 4 then some (execSluiceArm q)
  else if s.packetDue q 5 then some (execSluiceDisarm q)
  else none

/-- What a Lock does next. -/
def lockEvent (s : State) (r : Nat) : Option Move :=
  match s.subtailSeen r with
  | some v => some (execSubtailWrite r (BitVec.ofNat 32 v))
  | none =>
    if s.stepDone r then some (execStepFinished r)
    else if s.retireDue r then some (execLockRetire r)
    else if s.lockIn r .reserve then some (execLockReserve r)
    else if s.lockIn r .admission then some (execLockAdmit r)
    else if s.lockIn r .publish then some (execLockPublish r)
    else if s.lockIn r .push && s.queueRoom r then some (execLockPush r)
    else none

/-- What the module does next. -/
def moduleEvent (s : State) : Option Move :=
  if s.ibusy then some execInvalidationComplete
  else if s.deadlineDue then some execPreemptDeadline
  else if s.saveDue then some execSaveComplete
  else if s.rotationDue then some execRotationInterrupt
  else if s.dequeueDue then some execLaunchDequeue
  else match s.lines, s.ctxs.keys.find? s.watchdogDue with
    | n :: _, _ => some (execTriggerLine n)
    | [], some a => some (execWatchdogExpiry a)
    | [], none => none

/-- The first event in the order the model takes them (log 1: DESIGN CHOICE). -/
def ownEvent (s : State) : Option Move :=
  s.gangs.keys.findSome? s.gangEvent <|> s.threads.keys.findSome? s.threadEvent <|> s.cores.keys.findSome? s.coreEvent <|>
    s.launches.keys.findSome? s.launchEvent <|> s.compactEvent <|> s.sluices.keys.findSome? s.sluiceEvent <|>
    s.locks.keys.findSome? s.lockEvent <|> s.moduleEvent

/-! ### The passing of a cycle -/

/-- Whether this cycle is eligible for a context's watchdog (R333, R302, R214, R373). -/
def countable (s : State) (a : Nat) : Bool :=
  !s.preempting a && s.gangs.any fun (_, y) =>
    y.asid == a && y.stop.isNone && decide (y.paused ≤ s.now) && !s.power.throttled.contains y.quarterId

/-- Count the cycle on the watchdogs that are set, of contexts that made no progress in it. -/
def countWatch (s : State) : State :=
  let s := (s.gangs.foldl (fun l (_, y) => addSorted l y.asid) []).foldl (fun s a =>
    if s.countable a && !(s.ctx a).progress && s.ctxField a 0x18 4 != 0 then s.modCtx a fun c => { c with watchdog := c.watchdog + 1 }
    else s) s
  { s with ctxs := s.ctxs.mapAll fun _ c => { c with progress := false } }

/-- A blocked sluice counts the cycle, saturating (Table 13-5). -/
def countBlocked (s : State) : State :=
  { s with sluices := s.sluices.mapAll fun _ x =>
      if x.blocked && x.blockCyc != 0xFFFFFFFF then { x with blockCyc := x.blockCyc + 1 } else x }

/-- The ready sets that the power controller refuses. -/
def refusedSets (s : State) : List Ready := s.quarters.flatMap fun q => if s.power.throttled.contains q then s.quarterReady q else []

/-- Whether the power controller holds an engine that could go on. -/
def engineRefused (s : State) : Bool :=
  s.threads.any fun (i, t) => t.ended.isNone && s.slowed t &&
    ((s.nextAccess i).isSome || s.trestleAble i || ((s.spanHead t.core) = some i && s.spanAble i))

/-- A throttled cycle is counted, and is no ready cycle of the sets it refuses (R330–R332). -/
def countThrottled (s : State) : State :=
  let rs := s.refusedSets
  let s := if rs.isEmpty && !s.engineRefused then s
           else { s with power := { s.power with throttledCyc := s.power.throttledCyc + 1 } }
  rs.foldl (fun s r => r.slices.foldl (fun s k => s.modSlice r.gang k fun x => { x with readySince := r.since + 1 }) s) s

/-- Cores take the samples of a cycle as it ends (R303). -/
def sampleAll (s : State) : State :=
  s.cores.keys.foldl (fun s c =>
    if s.sampleDue c then match (s.core c).sampler with | some z => s.sample c z | none => s else s) s

/-- One cycle passes. -/
def tick (s : State) : State :=
  let s := s.sampleAll.countThrottled.countBlocked.countWatch
  { s with cyc := s.cyc + 1 }

/-! ### The next step -/

/-- Whether a context retired a word, or counted a byte, from one state to the next (R333). -/
def progressed (s t : State) (a : Nat) : Bool :=
  (s.gangs.any fun (g, y) => y.asid == a && match t.gangs.find g with
      | none => t.issued != s.issued
      | some z => y.slices.any fun (k, x) => ((z.slices.find k).map Slice.dix) != some x.dix) ||
    t.threads.any fun (i, x) => x.asid == a &&
      (x.landed != (s.thread i).landed || (x.ended == some 0 && x.ended != (s.thread i).ended && (decide (x.kind = .send))))

/-- Reset the watchdogs of contexts that made progress; the cycle counts for none of them. -/
def settleWatch (s t : State) : State :=
  { t with ctxs := t.ctxs.mapAll fun a c => if progressed s t a then { c with watchdog := 0, progress := true } else c }

/-- What the device does of its own accord: a trap that is due, the issue of a ready set, an event, or a cycle passes. -/
def proceed (s : State) : Out :=
  match s.trapEvent with
  | some f => f s
  | none => match s.nextSet with
    | some r => s.issueSet r
    | none => match s.ownEvent with
      | some f => f s
      | none => .next s.tick

/-- Take what the agenda brings, else go on (log 1). -/
def takeNext (s : State) : Out :=
  match s.agenda with
  | [] => s.proceed
  | none :: r => { s with agenda := r }.proceed
  | some i :: r => if isEvent i then exec i { s with agenda := r } else { s with agenda := r }.proceed

/-- Do something to the next state of an outcome. -/
def mapNext (o : Out) (f : State → State) : Out :=
  match o with
  | .next t => .next (f t)
  | o => o

/-- What ends every step: the notifications it owes are written, and the watchdogs of contexts that made progress begin again. -/
def settleStep (s t : State) : State := settleWatch s t.payOwed

/-- ONE STEP of the module: every free value it draws is fresh. -/
def advance (s : State) : Out := mapNext s.renew.takeNext (settleStep s)

end State

end Sys2Proof.Machine
end

