-- ==== Sys2Proof/Machine/Resident.lean ====
section
/-! DEFINITION. A resident gang at a word of its code, with the context record, the page tables and the launch that its fetch
needs: what stands in for the launch of a program (log 4). -/

namespace Sys2Proof.Machine

/-- Where the context record of ASID 0, its tables and its code stand in device memory. -/
def residentRoot : Nat := 0x1000
def residentCode : Nat := 0x10000

/-- The context record (valid, a system context, reach 0, key id 0) and the tables: one 1 GiB page that maps addresses to
themselves, writable and executable (Tables 16-1 to 16-3). -/
def residentTables (m : List Host.Cell) : List Host.Cell :=
  let m := Memory.writeBytes m (keyAt devSpace 0 0) (leBytes 4 0 ++ leBytes 4 3 ++ leBytes 8 residentRoot)
  let m := Memory.writeLE m (keyAt devSpace 0 residentRoot) 8 (0x2000 + 1)
  let m := Memory.writeLE m (keyAt devSpace 0 0x2000) 8 (0x3000 + 1)
  Memory.writeLE m (keyAt devSpace 0 0x3000) 8 0x99

/-- The launch image of the resident gang: one role, one group of one gang, its segments in the mapped page. -/
def residentImage : Image :=
  { frag := false, gangs := 1, slices := 8, cls := 0, basin := 0x10000, codeBase := residentCode, codeLimit := 6,
    handler := 3, towBase := 0x800000, towSize := 0x10000,
    segs := [(0, ⟨0x100000, 0x10000⟩), (1, ⟨0x200000, 0x10000⟩), (2, ⟨0x300000, 0x10000⟩), (3, ⟨0x400000, 0x10000⟩),
             (4, ⟨0, 0x10000⟩), (5, ⟨0x500000, 0x10000⟩), (6, ⟨0x600000, 0x10000⟩)],
    seed := 0, rngs := 0, basinImage := 0, basinBytes := 0,
    roles := [{ entry := 0, allot := 512, cls := 0, gangs := 1, inp := some 0, out := none, tags := 0, args := [] }],
    pounds := [{ ring := 0x700000, cap := 16, init := 0, valid := true }],
    groups := [{ id := 0, together := true, members := [0] }] }

/-- Its launch, placed. -/
def residentLaunch : Launch :=
  { Launch.blank with id := 1, img := some residentImage, state := .placing, gangs := 1, placed := 1, loaded := [0] }

/-- The gang: 8 slices of 4 live lanes at word 0, as its role starts them. -/
def residentGang : Gang :=
  { Gang.blank with
    launch := 0, system := true, index := 0, count := 1,
    slices := (List.range 8).map fun k => (k, { Slice.blank with mask := 15, live := 15, stream := 1 }),
    allot := 512, codeBase := residentCode, codeLimit := 6, handler := 3, towBase := 0x800000, grp := 0, launchId := 1,
    segs := residentImage.segs, streamNo := 1, started := true }

/-- A state in which the resident gang is the one gang, about to issue the words of `bs`. -/
def State.withResident (s : State) (bs : List Byte) : State :=
  { s with
    gangs := [(0, residentGang)], gangNo := max s.gangNo 1, launches := [(0, residentLaunch)], launchNo := max s.launchNo 1,
    ctxBase := 0, preempt := none, agenda := [], issued := [], reaches := [(0, ⟨[(0, 2 ^ 52)], BitVec.allOnes 64⟩)],
    power := { s.power with throttled := [] }, ctxs := s.ctxs.del 0, clusters := s.clusters.del 0, keyOf := [],
    mem := Memory.writeBytes (residentTables s.mem) (keyAt devSpace 0 residentCode) (bs ++ List.replicate (24 - bs.length) 0) }

end Sys2Proof.Machine
end

