-- ==== Sys2Proof/Machine/Step.lean ====
section
/-! DEFINITION. One step of the module, and the placing of an instruction where the next step fetches it. -/

namespace Sys2Proof.Machine

/-- ONE STEP. -/
def step (s : State) : Host.Outcome State Fault Refusal := s.advance

/-- The state with an instruction stored where the next step fetches: at word 0 of the code of a resident gang, which stands
in for the launch of a program (log 4). -/
def State.withFetchWord (s : State) (nbits w : Nat) : State := s.withResident (tableBytes (w % 2 ^ nbits))

end Sys2Proof.Machine
end

