-- ==== Sys2Proof/Safety.lean ====
section
/-! DEFINITION. The terms of the statements: a set of slices about to issue one word with nothing under way, what the issue of
a word leaves as it was, what a register word delivers, and the invariants of the module. -/

namespace Sys2Proof.Machine

/-! ### A set that is about to issue a word -/

/-- Some slices of a gang are about to issue one word that is its whole chain: each runs, none waits or is parked, no
result of an earlier word is still under way, and no register holds an error that nothing has met (R41, R45, R293). -/
structure State.Settled (s : State) : Prop where
  gang : s.gangs.find s.cur.gang = some s.me
  slices : s.cur.slices ≠ []
  keys : s.me.slices.keys.Nodup
  nodup : s.cur.slices.Nodup
  bound : ∀ k ∈ s.cur.slices, k < 8
  live : ∀ k ∈ s.cur.slices, (s.sl k).live ≠ 0
  here : ∀ k ∈ s.cur.slices, s.me.slices.find k = some (s.sl k)
  park : ∀ k ∈ s.cur.slices, (s.sl k).park = none
  wait : ∀ k ∈ s.cur.slices, (s.sl k).wait = none
  alone : ∀ k ∈ s.cur.slices, (s.sl k).macroAt = none
  flights : ∀ k ∈ s.cur.slices, (s.sl k).flights = []
  quiet : ∀ k ∈ s.cur.slices, ∀ p ∈ (s.sl k).pend, p.isRmw = false
  sound : ∀ k ∈ s.cur.slices, ∀ st, (s.stored k st).flaw = 0
  allot : 64 ≤ s.me.allot
  view : s.cur.view = []
  olds : s.cur.olds = []
  raised : s.cur.raised = none
  replay : s.cur.replay = false
  macroOp : s.cur.macroOp = none

/-- No issuing slice holds a poisoned lane word. -/
def State.Clean (s : State) : Prop := ∀ k ∈ s.cur.slices, ∀ n, (s.reg k n).poison = 0

/-- The lanes that a word writes: those active for it; for `sel` every lane the stack leaves (R43, R91), for `topk` every lane of
the issuing set (R192). -/
def State.lanesFor (s : State) (i : Instr) (k : Nat) : BitVec 4 :=
  match i with
  | .sel _ _ _ _ => (s.sl k).mask
  | .topk _ _ _ _ => 15
  | i => s.act i.hdr.guard k

/-- What a word is charged beside its entry of Table 14-3: `rng` by slice, `dist` by 16 elements and lane. -/
def State.extraCharge (s : State) (i : Instr) : Nat :=
  match i with
  | .rng h _ _ _ _ => 4 * (s.cur.slices.filter fun k => s.act h.guard k != 0).length
  | .dist h _ a _ => match s.distDesc h.guard a with
    | some c => ceilDiv c.elems 16 * (s.actLanes h.guard).length
    | none => 0
  | _ => 0

/-! ### What a word leaves as it was -/

/-- A slice without what the issue of a word always changes in it (where it stands, its counts and its timing) and without its
registers, which are compared one by one. -/
def Slice.still (x : Slice) : Slice :=
  { x with pc := 0, next := 0, dix := 0, ready := 0, bank := 0, replay := none, again := false, alone := false, olds := [], urd := 0, bcf := 0,
           flights := [], regs := [] }

/-- A gang without its gauge, and without what is compared part by part. -/
def Gang.still (y : Gang) : Gang := { y with energy := 0, preds := [], masks := [], slices := [] }

/-- The module without the issue under way and its gangs: memory, caches, engines, every register of the module. -/
def State.still (s : State) : State := { s with cur := Issue.idle, gangs := [] }

/-- THE FRAME of a word: from `s` to `t` nothing changes but the registers `ds k` of each issuing slice `k`, the predicates `ps`
and the mask registers `qs` of the gang, in each issuing slice what `f` sets aside, in the gang what `e` sets aside and in the
rest of the module what `m` sets aside. Unless `m` sets memory aside, all of memory stands as it did. -/
structure State.Keeps (s t : State) (ds : Nat → List Nat) (ps qs : List Nat) (f : Slice → Slice) (e : Gang → Gang := id)
    (m : State → State := id) : Prop where
  module : m t.still = m s.still
  gangs : ∀ g, g ≠ s.cur.gang → t.gangs.find g = s.gangs.find g
  issue : t.cur.gang = s.cur.gang
  gang : e t.me.still = e s.me.still
  away : ∀ k, k ∉ s.cur.slices → t.me.slices.find k = s.me.slices.find k
  slice : ∀ k ∈ s.cur.slices, f (t.sl k).still = f (s.sl k).still
  regs : ∀ k ∈ s.cur.slices, ∀ st, (∀ d ∈ ds k, s.storage k d ≠ st) → (t.sl k).regs.find st = (s.sl k).regs.find st
  preds : ∀ p, p ∉ ps → t.me.preds.find p = s.me.preds.find p
  masks : ∀ q, q ∉ qs → t.me.masks.find q = s.me.masks.find q

/-- What a word is charged: for each issuing slice the entry of Table 14-3 under the slice's own tags and lanes (R51, R345). -/
def State.price (s : State) (i : Instr) : Nat :=
  (s.cur.slices.map fun k => i.charge (s.tagOf k) 1 ((List.range 4).filter fun j => nib (s.act i.hdr.guard k) j).length).sum

/-- A word that performs charges the gang (R345). -/
def State.Charged (s t : State) (i : Instr) : Prop := t.me.energy = s.me.energy + (s.price i + s.extraCharge i)

/-- What every word that performs does: it charges the gang (R345), counts in `dix` (R31), and each issuing slice stands at the
next word. -/
structure State.Advances (s t : State) (i : Instr) : Prop where
  energy : s.Charged t i
  dix : ∀ k ∈ s.cur.slices, (t.sl k).dix = (s.sl k).dix + 1
  pc : ∀ k ∈ s.cur.slices, (t.sl k).pc = s.cur.next

/-- THE WORD HOLDS its slices: each waits at the word for `w`, which counts in `dix` only when the wait ends (R31, R124). -/
structure State.Holds (s t : State) (i : Instr) (w : Wait) : Prop where
  energy : s.Charged t i
  waits : ∀ k ∈ s.cur.slices, (t.sl k).wait = some w ∧ (t.sl k).pc = s.cur.widx ∧ (t.sl k).next = s.cur.next ∧
    (t.sl k).dix = (s.sl k).dix
  frame : s.Keeps t (fun _ => []) [] [] fun x => { x with wait := none }

/-- A word that changes nothing but where its slices stand. -/
structure State.Passes (s t : State) (i : Instr) : Prop where
  goes : s.Advances t i
  frame : s.Keeps t (fun _ => []) [] [] id

/-! ### What register words deliver -/

/-- A register that a word writes in one slice: the word of each lane, and the tag. -/
structure Result where
  reg : Nat
  val : Nat → Word
  tag : Tag

/-- A result under the tag of register `a` (R74). -/
def State.like (s : State) (d a : BitVec 6) (f : Nat → Word) (k : Nat) : List Result := [⟨d.toNat, f, s.tagOf k a.toNat⟩]

/-- A result whose tag the word itself fixes. -/
def tagged (d : BitVec 6) (tg : Tag) (f : Nat → Word) (_ : Nat) : List Result := [⟨d.toNat, f, tg⟩]

/-- A 64-bit result: the low and the high word, both tagged A64 (Table 2-11). -/
def pairResult (d : Nat) (f : Nat → BitVec 64) (_ : Nat) : List Result :=
  [⟨d, fun l => (f l).truncate 32, .a64⟩, ⟨d + 1, fun l => (f l >>> 32).truncate 32, .a64⟩]

/-- THE RESULTS of a word have been written: in each slice with an active lane each register holds the new words in its active
lanes, its old words in the others, the new tag, and no poison in what was written (R51, Table 2-11); a slice with no active
lane keeps its registers. `f` sets aside what else the word changes in a slice. -/
structure State.Delivers (s t : State) (i : Instr) (rs : Nat → List Result) (f : Slice → Slice := id) : Prop where
  lane : ∀ k ∈ s.cur.slices, ∀ r ∈ rs k, ∀ j < 4, nib (s.lanesFor i k) j = true →
    (t.stored k (s.storage k r.reg)).lane j = r.val (4 * k + j)
  kept : ∀ k ∈ s.cur.slices, ∀ r ∈ rs k, ∀ j < 4, nib (s.lanesFor i k) j = false →
    (t.stored k (s.storage k r.reg)).lane j = (s.stored k (s.storage k r.reg)).lane j
  tag : ∀ k ∈ s.cur.slices, ∀ r ∈ rs k, s.lanesFor i k ≠ 0 → (t.stored k (s.storage k r.reg)).tag = r.tag
  poison : ∀ k ∈ s.cur.slices, ∀ r ∈ rs k,
    (t.stored k (s.storage k r.reg)).poison = (s.stored k (s.storage k r.reg)).poison &&& ~~~(s.lanesFor i k)
  idle : ∀ k ∈ s.cur.slices, s.lanesFor i k = 0 → (t.sl k).regs = (s.sl k).regs
  frame : s.Keeps t (fun k => (rs k).map Result.reg) [] [] f
  goes : s.Advances t i

/-- THE PREDICATE of a word has been written: in the active lanes of the issuing slices the new bits, elsewhere the old ones
(R50). -/
structure State.Sets (s t : State) (i : Instr) (p : BitVec 3) (f : Nat → Bool) : Prop where
  lane : p ≠ 0 → ∀ l < 32, (t.predWord p.toNat).getLsbD l =
    if l / 4 ∈ s.cur.slices ∧ nib (s.lanesFor i (l / 4)) (l % 4) = true then f l else (s.predWord p.toNat).getLsbD l
  zero : p = 0 → t.me.preds = s.me.preds
  frame : s.Keeps t (fun _ => []) [p.toNat] [] id
  goes : s.Advances t i

/-- THE MASK REGISTER of a word has been written. -/
structure State.Masks (s t : State) (i : Instr) (q : BitVec 4) (w : Word) : Prop where
  word : t.me.masks.find q.toNat = some w
  frame : s.Keeps t (fun _ => []) [] [q.toNat] id
  goes : s.Advances t i

/-! ### What control words leave -/

/-- Every issuing slice has the mask, stack and place that `f` gives, counts the word, and keeps the rest. -/
structure State.Steers (s t : State) (i : Instr) (f : Nat → BitVec 4 × List StackEntry × Word) : Prop where
  energy : s.Charged t i
  dix : ∀ k ∈ s.cur.slices, (t.sl k).dix = (s.sl k).dix + 1
  place : ∀ k ∈ s.cur.slices, ((t.sl k).mask, (t.sl k).stack, (t.sl k).pc) = f k
  frame : s.Keeps t (fun _ => []) [] [] fun x => { x with mask := 0, stack := [] }

/-- THE BRANCH of R134: with `A` the active and `T` the taking lanes of a slice, all or none of `A` go one way together, and a
slice that parts pushes the lanes that do not take it. -/
def State.branched (s : State) (g : BitVec 3) (dst : Nat → Word) (k : Nat) : BitVec 4 × List StackEntry × Word :=
  let x := s.sl k
  let t := s.act g k
  if t = x.mask then (x.mask, x.stack, dst k)
  else if t = 0 then (x.mask, x.stack, s.cur.widx + 1)
  else (t, { pc := s.cur.widx + 1, nt := x.mask &&& ~~~t, full := x.mask, pending := true } :: x.stack, dst k)

/-- THE JOIN of R135. -/
def State.joined (s : State) (k : Nat) : BitVec 4 × List StackEntry × Word :=
  match (s.sl k).stack with
  | [] => ((s.sl k).mask, [], s.cur.widx + 1)
  | e :: r =>
    if e.pending then (e.nt, { e with pending := false } :: r, e.pc) else (e.full, r, s.cur.widx + 1)

/-- The callee's window and the trap reserve fit beside the frames in the ring of every slice that calls (R219). -/
def State.fitsCall (s : State) (g : BitVec 3) (d : Nat) : Prop :=
  ∀ k ∈ s.cur.slices, s.act g k ≠ 0 → 56 + (if s.me.allot = 64 then 0 else 56) + (s.sl k).resident + d ≤ s.me.ring

/-- A CALL HAS BEEN MADE (R137): a slice with taking lanes has one frame more, its window slid by `d`, its taking lanes active and
no region open (its pending releases lose theirs, R294), and stands at its target; one without goes on at the next word, which is `n` words on. -/
structure State.Called (s t : State) (i : Instr) (kind : FrameKind) (d n : Nat) (vb : Nat → Option VBlock) (dst : Nat → Word) :
    Prop where
  energy : s.Charged t i
  dix : ∀ k ∈ s.cur.slices, (t.sl k).dix = (s.sl k).dix + 1
  enters : ∀ k ∈ s.cur.slices, s.act i.hdr.guard k ≠ 0 →
    (t.sl k).pc = dst k ∧ (t.sl k).mask = s.act i.hdr.guard k ∧ (t.sl k).wb = ((s.sl k).wb + d) % s.me.ring ∧
      (t.sl k).region = none ∧ (t.sl k).stack = (s.sl k).stack ∧
      (t.sl k).pend = (s.sl k).pend.map (fun p => { p with region := none }) ∧
      (t.sl k).frames = { kind := kind, ret := s.cur.widx + BitVec.ofNat 32 n, inst := s.me.instNo + 1,
                          stk := (s.sl k).stack.length, mask := (s.sl k).mask, slide := d, spilled := false, vb := vb k } ::
        (s.sl k).frames
  passes : ∀ k ∈ s.cur.slices, s.act i.hdr.guard k = 0 →
    (t.sl k).pc = s.cur.widx + BitVec.ofNat 32 n ∧ (t.sl k).still = (s.sl k).still
  frame : s.Keeps t (fun _ => []) [] [] (fun x => { x with mask := 0, frames := [], wb := 0, region := none, pend := [], failed := none })
    fun g => { g with instNo := 0 }

/-! ### Taking a trap -/

/-- The slices that enter the handler: in fragment mode the trapping slices, else every live slice of the gang (R287, R288). -/
def State.entering (s : State) (ti : TrapInfo) : List Nat :=
  if s.me.frag then ti.who.map TrapSlice.slice else s.liveSlices s.cur.gang

/-- A slice's own share of a trap. -/
def TrapInfo.own (ti : TrapInfo) (k : Nat) : Option TrapSlice := ti.who.find? fun w => w.slice = k

/-- No slice is refused its entry by Table 10-3. -/
def State.MayEnter (s : State) (ti : TrapInfo) : Prop :=
  ∀ k, k ∈ ti.who.map TrapSlice.slice ∨ k ∈ s.entering ti → refusedEntry s.me (ti.own k).isSome (s.sl k) = none

/-- Table 10-3: the condition under which a trapping slice may not enter the handler, row by row, and the reason of the stop (Table 10-5). -/
def RefusedWith (g : Gang) (x : Slice) (reason : Nat) : Prop :=
  let gone : Prop := x.levels ≠ [] ∧ x.reserve = false
  (g.allot = 64 ∧ reason = 4) ∨
  (g.allot ≠ 64 ∧ g.handler = 0xFFFFFFFF ∧ reason = 7) ∨
  (g.allot ≠ 64 ∧ g.handler ≠ 0xFFFFFFFF ∧ gone ∧ reason = 5) ∨
  (g.allot ≠ 64 ∧ g.handler ≠ 0xFFFFFFFF ∧ ¬gone ∧ 4 ≤ x.levels.length ∧ reason = 11) ∨
  (g.allot ≠ 64 ∧ g.handler ≠ 0xFFFFFFFF ∧ ¬gone ∧ x.levels.length < 4 ∧ g.towSize < x.committed + 976 ∧ reason = 5)

/-- What the trap registers of an entering slice hold (R284, R287), and where it stands (R289): its mask is its live lanes, its
window one frame deeper, its stack as it was, and it is at the handler's first word. -/
structure EnteredSlice (g : Gang) (ti : TrapInfo) (k : Nat) (x y : Slice) : Prop where
  tcause : y.tcause = if (ti.own k).isSome then State.causeWord g ti k else BitVec.ofNat 32 (flagBit g.frag 30)
  tpc : y.tpc = ((ti.own k).map TrapSlice.tpc).getD x.pc
  tinfo : y.tinfo = ((ti.own k).map TrapSlice.tinfo).getD 0
  tinfo2 : y.tinfo2 = ((ti.own k).map TrapSlice.tinfo2).getD 0
  amask : y.amask = laneWord k x.mask
  tmask : y.tmask = laneWord k (((ti.own k).map TrapSlice.lanes).getD x.mask)
  mask : y.mask = x.live ∧ y.live = x.live
  pc : y.pc = BitVec.ofNat 32 g.handler
  depth : y.wdep = x.wdep + 1 ∧ y.levels.tail = x.levels ∧ (y.levels.head?.map TrapLevel.depth) = some (x.wdep + 1)
  stack : y.stack = x.stack
  region : y.region = none
  window : y.wb = (x.wb + 56) % g.ring

/-- Whether a slice's window slides by 56 without a spill, the reserve kept free (R219, R220). -/
def State.roomy (s : State) (ti : TrapInfo) : Prop := ∀ k ∈ s.entering ti, (s.sl k).resident + 168 ≤ s.me.ring

/-- A TRAP HAS BEEN TAKEN from `s`: every entering slice is in the handler, every other gang, predicate and mask is as it was, and
where nothing had to be spilled every other slice, every register and all of memory stand. -/
structure State.Enters (s t : State) (ti : TrapInfo) : Prop where
  each : ∀ k ∈ s.entering ti, EnteredSlice s.me ti k (s.sl k) (t.sl k)
  away : s.roomy ti → ∀ k, k ∉ s.entering ti → t.me.slices.find k = s.me.slices.find k
  regs : s.roomy ti → ∀ k ∈ s.entering ti, (t.sl k).regs = (s.sl k).regs
  gangs : ∀ g, g ≠ s.cur.gang → t.gangs.find g = s.gangs.find g
  gang : { t.me.still with streamNo := 0, mix := 0 } = { s.me.still with streamNo := 0, mix := 0 }
  preds : t.me.preds = s.me.preds ∧ t.me.masks = s.me.masks ∧ t.me.energy = s.me.energy
  memory : s.roomy ti → t.mem = s.mem

/-! ### Waits, ends, returns -/

/-- The wait that a word begins, if it begins one. -/
def State.waitOf (s : State) : Instr → Option Wait
  | .ret _ => if s.cur.slices.all fun k => (s.sl k).frames.head?.all fun f => !f.spilled then some .ret else none
  | .regang _ => some .regang
  | .rolesw _ n => some (.rolesw n.toNat)
  | .stage _ => some (.stage s.now)
  | .sleep _ a => (s.cycleOf a).map Wait.sleep
  | .sleepC _ b a => (s.operand b).bind fun n => (s.cycleOf a).map fun w => .sleepC w n false
  | .wait _ p a => (s.operand p).bind fun v => (s.operand a).map fun n => .wait n (bitOf v 0)
  | .waitCnt _ a => (s.operand a).map Wait.waitCnt
  | .pause _ n => if n = 0 then none else some (.pause (s.now + n.toNat))
  | .fenceEng _ => some .fenceEng
  | .kick h d a b => if s.lowest 0 ≠ none ∧ s.room (.kick h d a b) = false then some .queue else none
  | .trst h a => if s.lowest 0 ≠ none ∧ s.room (.trst h a) = false then some .queue else none
  | .sload h a n => if s.lowest 0 ≠ none ∧ s.room (.sload h a n) = false then some .queue else none
  | _ => none

/-- The lanes that a word ends in slice `k` (R140, R156). -/
def State.ending (s : State) (i : Instr) (k : Nat) : BitVec 4 :=
  match i with
  | .exit h => s.act h.guard k
  | .stepend _ => (s.sl k).live
  | _ => 0

/-- What one action of `join` does to a mask, a stack and a place (R135). -/
def joinStep (p : BitVec 4 × List StackEntry × Word) : BitVec 4 × List StackEntry × Word :=
  match p.2.1 with
  | [] => p
  | e :: r => if e.pending then (e.nt, { e with pending := false } :: r, e.pc) else (e.full, r, p.2.2)

/-- A stack without the lanes that have ended. -/
def withoutLanes (e : BitVec 4) (st : List StackEntry) : List StackEntry :=
  st.map fun x => { x with nt := x.nt &&& ~~~e, full := x.full &&& ~~~e }

/-- LANES `e` OF A SLICE HAVE ENDED (R140): they are in none of its masks; a slice with none left is done; one with lanes left but
none active goes on as its stack says. -/
structure EndedSlice (e : BitVec 4) (next : Word) (x y : Slice) : Prop where
  live : y.live = x.live &&& ~~~e
  frames : x.live &&& ~~~e ≠ 0 → y.frames = x.frames.map fun f => { f with mask := f.mask &&& ~~~e }
  done : x.live &&& ~~~e = 0 → y.frames = [] ∧ y.stack = [] ∧ y.towPtr = 0 ∧ y.wait = none ∧ y.park = none
  active : x.live &&& ~~~e ≠ 0 → x.mask &&& ~~~e ≠ 0 →
    y.mask = x.mask &&& ~~~e ∧ y.stack = withoutLanes e x.stack ∧ y.pc = next
  falls : x.live &&& ~~~e ≠ 0 → x.mask &&& ~~~e = 0 → x.stack.length ≤ 8 →
    ∃ n, (y.mask, y.stack, y.pc) = iter joinStep n (0, withoutLanes e x.stack, next) ∧ (y.mask ≠ 0 ∨ y.stack = []) ∧
      ∀ m, m < n → (iter joinStep m (0, withoutLanes e x.stack, next)).1 = 0

/-- Whether `rft` takes a slice back to the start of the region that its innermost level `v` suspended (R295). -/
def Slice.restarting (x : Slice) (v : TrapLevel) : Bool := x.tcause.getLsbD 31 && v.region.isSome

/-- A SLICE HAS LEFT its innermost trap level `v` (R144, R291, R295): one frame fewer, the mask of `amask` and the place of `tpc`; an
imprecise trap inside a region restores what the region saved at START; a slice that entered parked is parked again, or performs
its word again where its park was released meanwhile. -/
structure ReturnedSlice (ring k : Nat) (v : TrapLevel) (x y : Slice) : Prop where
  levels : y.levels = x.levels.tail ∧ y.region = v.region
  window : y.frames = x.frames.tail ∧ y.wb = (x.wb + ring - ((x.frames.head?.map Frame.slide).getD 0)) % ring
  mask : x.restarting v = false →
    y.mask = nibbleOf x.amask k &&& x.live ∧ y.stack = x.stack ∧ y.dix = x.dix + 1 ∧ (v.park = none → y.pc = x.tpc)
  restart : ∀ r, v.region = some r → x.restarting v = true →
    y.mask = r.mask &&& x.live ∧ y.stack = r.stack ∧ y.dix = r.dix ∧ y.pc = x.tregion &&& 0xFFFFFF ∧ y.park = none
  again : x.restarting v = false → ∀ p, v.park = some p → p.ids ≠ [] → y.park = some { p with pmask := nibbleOf x.pmask k } ∧ y.pc = p.widx
  released : x.restarting v = false → ∀ p, v.park = some p → p.ids = [] → y.park = none ∧ y.pc = p.widx ∧
    (p.kind ≠ .fetch → y.replay = some (nibbleOf x.pmask k &&& x.live))
  free : v.park = none → y.park = none

/-- What `vqual` leaves of a slice's frames (R142): in a `callv` frame of a table that is not frozen the quality reported. -/
def reported (q : Nat) : List Frame → List Frame
  | f :: r => match f.vb with
    | some v => if v.frozen then f :: r else { f with vb := some { v with reported := some q, hot := f.spilled } } :: r
    | none => f :: r
  | [] => []

/-- What `csrw` of word `w` leaves readable in slice `k` (Table 5-9, R338, R339), none for an identifier that is not written. -/
def State.csrWritten (s : State) (k id : Nat) (w : Word) : Option Word :=
  let old := s.csrVal s.me (s.sl k) (4 * k) id
  if id ∈ [0x014, 0x015, 0x016, 0x017, 0x018, 0x041, 0x042, 0x043, 0x044, 0x045, 0x046, 0x047, 0x050] then some w
  else if id = 0x020 ∨ id = 0x021 then some (if (s.sl k).budget.isSome ∧ old.toNat ≤ w.toNat then old else w)
  else if id = 0x022 then
    let q := min w.toNat 0xFFFF
    some (BitVec.ofNat 32 (if (s.sl k).budget.isSome then max old.toNat q else q))
  else if id = 0x030 then some (w &&& 7)
  else if id = 0x031 then some ((old &&& ~~~1) ||| (w &&& 1))
  else if id = 0x040 then some (w &&& 0xC00003FF)
  else none

/-- The slice register, and the gang register, that `csrw` of an identifier changes, set aside. -/
def csrOfSlice (id : Nat) (x : Slice) : Slice :=
  if id = 0x020 then { x with tb0 := 0, frames := [] } else if id = 0x021 then { x with eb0 := 0, frames := [] }
  else if id = 0x022 then { x with qf := 0, frames := [] } else if id = 0x040 then { x with tcause := 0 }
  else if id = 0x041 then { x with tpc := 0 } else if id = 0x042 then { x with amask := 0 }
  else if id = 0x043 then { x with tmask := 0 } else if id = 0x044 then { x with tinfo := 0 }
  else if id = 0x045 then { x with tinfo2 := 0 } else if id = 0x046 then { x with tregion := 0 }
  else if id = 0x047 then { x with pmask := 0 } else x
def csrOfGang (id : Nat) (g : Gang) : Gang :=
  if id = 0x014 ∨ id = 0x015 then { g with seed := 0 } else if id = 0x016 ∨ id = 0x017 then { g with rngs := 0 }
  else if id = 0x018 then { g with lgl := 0 } else if id = 0x030 then { g with fpmode := 0 }
  else if id = 0x031 then { g with schk := false } else if id = 0x050 then { g with pmiss := 0 } else g

/-! ### The faults of execution, word by word (R66 rank 7, and the ranks that their own rules give) -/

/-- The bytes of a frame record of slide `d` (R226). -/
def callBytes (d : Nat) : Nat := 16 * d + roundUp d 16 + 16

/-- The trap that the rules of a word's own instruction raise, if any. -/
def State.faults (s : State) : Instr → Option TrapInfo
  | .shfli h _ a b => s.shufflePoison h a (s.srcIndex b)
  | .shflx h _ a i => s.shufflePoison h a fun l => some (l ^^^ i.toNat)
  | .shflu h _ a i => s.shufflePoison h a (State.srcDown i.toNat)
  | .shfld h _ a i => s.shufflePoison h a fun l => some (l + i.toNat)
  | .bcast h _ a b => s.shufflePoison h a (s.srcBcast h b)
  | .compose h _ a b => s.poisonTrap (s.cur.slices.map fun k =>
      (k, b.toNat, 1, nibOf fun j => (s.composeReads h a).contains (4 * k + j)))
  | .bra h o => s.branchTrap h.guard fun _ => s.cur.widx + o.signExtend 32
  | .brx h a => (s.agreeTrap h.guard a).or (s.branchTrap h.guard (s.laneTarget h.guard a))
  | .call h l o => s.callTrap h.guard (callBytes (8 * l.toNat)) fun _ => s.cur.widx + o.signExtend 32
  | .callx h l a => (s.agreeTrap h.guard a).or (s.callTrap h.guard (callBytes (8 * l.toNat)) (s.laneTarget h.guard a))
  | .callv h l o va vb sg off => (s.chargeWord (.callv h l o va vb sg off) 0).fenced.vTrap h l o va vb sg off
  | .ret _ => s.retTrap
  | .join _ => s.joinTrap
  | .exit h => s.exitTrap h.guard
  | .regang _ => s.arrivalTrap fun _ => (0, s.cur.widx.toNat)
  | .rolesw _ _ => s.nestTrap
  | .stage _ => s.nestTrap
  | .rft _ => s.rftFault
  | .hint _ a _ _ => s.hintTrap a
  | .sleepC _ b _ => (s.operand b).bind s.barrierFault
  | .wait _ _ a => (s.operand a).bind s.barrierFault
  | .waitCnt _ a => (s.operand a).bind s.barrierFault
  | .qpush _ _ _ n => s.poundTrap n
  | .qpop _ _ _ n => s.poundTrap n
  | .segwBase _ a _ => s.segTrap a fun v => decide (2 ^ 57 ≤ v)
  | .segwLimit _ a e => s.segTrap a fun v => e == 4 && decide (Config.basinTop < v)
  | .ldb h _ a e _ => s.memTrap h.guard e a 1 true false
  | .ldh h _ a e _ => s.memTrap h.guard e a 2 true false
  | .ldw h _ a e _ => s.memTrap h.guard e a 4 true false
  | .ldd h _ a e _ => s.memTrap h.guard e a 8 true false
  | .ldc h _ a _ => s.memTrap h.guard 5 a 4 true false
  | .ldt h _ a e _ => s.memTrap h.guard e a 4 true false
  | .stb h _ a e => s.memTrap h.guard e a 1 false true
  | .sth h _ a e => s.memTrap h.guard e a 2 false true
  | .stw h _ a e => s.memTrap h.guard e a 4 false true
  | .std h _ a e => s.memTrap h.guard e a 8 false true
  | .atomAdd h _ a e => s.memTrap h.guard e a 4 true true
  | .atomMin h _ a e => s.memTrap h.guard e a 4 true true
  | .atomMax h _ a e => s.memTrap h.guard e a 4 true true
  | .atomAnd h _ a e => s.memTrap h.guard e a 4 true true
  | .atomOr h _ a e => s.memTrap h.guard e a 4 true true
  | .atomXor h _ a e => s.memTrap h.guard e a 4 true true
  | .atomExch h _ a e => s.memTrap h.guard e a 4 true true
  | .atomAddwrap h _ a e => s.memTrap h.guard e a 4 true true
  | .cas h _ a e => s.memTrap h.guard e a 4 true true
  | .asum h _ a e => s.memTrap h.guard e a 32 true true
  | .srd h _ a e => s.memTrap h.guard e a 32 true false
  | .kick _ _ a b => s.kickTrap a b
  | .binit _ d a => s.binitTrap d a
  | .barr _ d _ _ => s.barrTrap d
  | .btest _ _ a _ => (s.operand a).bind fun n => State.trapIf (decide (Config.barriers ≤ n)) (s.barrierTrap n)
  | .trst _ a => (s.operand a).bind fun off =>
      if off % 64 ≠ 0 ∨ Config.basinTop ≤ off then some (s.descriptorTrap 0x01)
      else State.trapIf (!(TrestleCmd.ofBytes (s.recordBytes off 64)).ok) (s.trapHere 0x18 0)
  | .legal h _ a b => s.legalTrap h.guard a b
  | .dist h _ a b => s.distTrap h.guard a b
  | .sload _ a n => s.descTrap a (n.toNat + 1) fun r => s.driveReadCode s.me.reach (DriveRead.ofBytes r)
  | .nsend _ a n => s.descTrap a (n.toNat + 1) fun r => (Message.ofBytes r).code
  | .mfrd h _ a i => s.mfTrap h.guard (State.mfRead a i.toNat)
  | .mfwr h d a i => s.mfTrap h.guard (State.mfWrite d a i.toNat)
  | .mfopAppend h _ a => s.mfTrap h.guard (State.mfAppend a)
  | .mfopRollback h d a => s.mfTrap h.guard (State.mfRollback d a)
  | .mfopFinish h d a => s.mfTrap h.guard (State.mfEnd d a false)
  | .mfopFault h d a => s.mfTrap h.guard (State.mfEnd d a true)
  | _ => none

/-- The trap that a word raises: the first in the order of R66 of the checks of every word, the end of the code (R36), and the faults
of its own. -/
def State.trapOf (s : State) (i : Instr) : Option TrapInfo := s.firstFault i fun s => s.faults i

/-! ### Words that access memory -/

/-- The accesses of an M-pipe word (R164–R178): its segment, its address register, the bytes of a lane, how it uses a page, and
whether it reads and writes. -/
def accessOf : Instr → Option (BitVec 3 × BitVec 6 × Nat × Use × Bool × Bool)
  | .ldb _ _ a e _ => some (e, a, 1, .read, true, false)
  | .ldh _ _ a e _ => some (e, a, 2, .read, true, false)
  | .ldw _ _ a e _ => some (e, a, 4, .read, true, false)
  | .ldd _ _ a e _ => some (e, a, 8, .read, true, false)
  | .ldc _ _ a _ => some (5, a, 4, .read, true, false)
  | .ldt _ _ a e _ => some (e, a, 4, .read, true, false)
  | .srd _ _ a e => some (e, a, 32, .read, true, false)
  | .stb _ _ a e => some (e, a, 1, .write, false, true)
  | .sth _ _ a e => some (e, a, 2, .write, false, true)
  | .stw _ _ a e => some (e, a, 4, .write, false, true)
  | .std _ _ a e => some (e, a, 8, .write, false, true)
  | .atomAdd _ _ a e => some (e, a, 4, .write, true, true)
  | .atomMin _ _ a e => some (e, a, 4, .write, true, true)
  | .atomMax _ _ a e => some (e, a, 4, .write, true, true)
  | .atomAnd _ _ a e => some (e, a, 4, .write, true, true)
  | .atomOr _ _ a e => some (e, a, 4, .write, true, true)
  | .atomXor _ _ a e => some (e, a, 4, .write, true, true)
  | .atomExch _ _ a e => some (e, a, 4, .write, true, true)
  | .atomAddwrap _ _ a e => some (e, a, 4, .write, true, true)
  | .cas _ _ a e => some (e, a, 4, .write, true, true)
  | .asum _ _ a e => some (e, a, 32, .write, true, true)
  | _ => none

/-- THE ADDRESS of a lane as Table 2-9 forms it, and whether R58 makes it a segment fault or R224 does. -/
def State.addressOf (s : State) (e : BitVec 3) (a : BitVec 6) (n l : Nat) : Nat × Bool :=
  let off := (s.V a.toNat l).toNat
  let sg := s.me.seg e.toNat
  let va := (sg.base.toNat + off) % 2 ^ 57
  let past := decide (sg.limit.toNat < off + n)
  if e = 7 then
    let p := s.V64 a.toNat l
    let va := p.toNat % 2 ^ 57
    (va, decide (p.extractLsb' 57 7 ≠ if p.getLsbD 56 then 127#7 else 0) || s.inTowpath s.me.asid va n)
  else if e = 4 then (va, past || decide (0xF8000 < sg.base.toNat + off + n))
  else (va, past || decide (2 ^ 57 ≤ sg.base.toNat + off) || s.inTowpath s.me.asid va n)

/-- The lane's address is a segment fault or is not a multiple of the access size (R164). -/
def State.addressFails (s : State) (e : BitVec 3) (a : BitVec 6) (n l : Nat) : Bool :=
  (s.addressOf e a n l).2 || (s.addressOf e a n l).1 % n != 0

/-- The lanes of slice `k` that a word is active in and whose translation fails, and those whose does not. -/
def State.missing (s : State) (g : BitVec 3) (e : BitVec 3) (a : BitVec 6) (n : Nat) (use : Use) (k : Nat) : BitVec 4 :=
  nibOf fun j => nib (s.act g k) j && (s.laneXlat e a n use (4 * k + j)).failure.isSome
def State.reaching (s : State) (g : BitVec 3) (e : BitVec 3) (a : BitVec 6) (n : Nat) (use : Use) (k : Nat) : BitVec 4 :=
  nibOf fun j => nib (s.act g k) j && !(s.laneXlat e a n use (4 * k + j)).failure.isSome

/-- The lanes that perform, in order, with their places. -/
def State.placesOf (s : State) (g : BitVec 3) (e : BitVec 3) (a : BitVec 6) (n : Nat) (use : Use) : List (Nat × Place) :=
  (s.actLanes g).filterMap fun l => ((s.laneXlat e a n use l).place s.me.asid).map fun p => (l, p)

/-- The registers that a load writes: the first and how a value becomes its word, and the tag (R170, R171, R178). -/
def loadInto : Instr → List (Nat × (Nat → Word) × Tag)
  | .ldb _ d _ _ t => [(d.toNat, extend t 1, loadTag t)]
  | .ldh _ d _ _ t => [(d.toNat, extend t 2, loadTag t)]
  | .ldw _ d _ _ t => [(d.toNat, BitVec.ofNat 32, loadTag t)]
  | .ldd _ d _ _ t => [(d.toNat, BitVec.ofNat 32, if t = 0 then .a64 else loadTag t),
      (d.toNat + 1, fun v => BitVec.ofNat 32 (v / 2 ^ 32), if t = 0 then .a64 else loadTag t)]
  | .ldc _ d _ t => [(d.toNat, BitVec.ofNat 32, loadTag t)]
  | .ldt _ d _ _ t => [(d.toNat, BitVec.ofNat 32, loadTag t)]
  | .srd _ d _ _ => [(d.toNat, BitVec.ofNat 32, .f32)]
  | _ => []

/-- How a load reads a lane: by Fetch (R240), through a path cache (R249), or at the home of a sum cell (R178, R244). -/
def readerOf : Instr → State → Nat → Place → State.Got
  | .ldb _ _ _ _ _ => State.fetchLane 1
  | .ldh _ _ _ _ _ => State.fetchLane 2
  | .ldd _ _ _ _ _ => State.fetchLane 8
  | .ldc _ _ _ _ => State.pathLane true 4
  | .ldt _ _ _ _ _ => State.pathLane false 4
  | .srd _ _ _ _ => State.snapLane
  | _ => State.fetchLane 4

/-- Registers receive words in some lanes of each slice, `bad` of them poisoned (R51, R168). -/
structure State.Receives (s t : State) (m bad : Nat → BitVec 4) (rs : Nat → List Result) : Prop where
  lane : ∀ k ∈ s.cur.slices, ∀ r ∈ rs k, ∀ j < 4, nib (m k) j = true →
    (t.stored k (s.storage k r.reg)).lane j = r.val (4 * k + j)
  kept : ∀ k ∈ s.cur.slices, ∀ r ∈ rs k, ∀ j < 4, nib (m k) j = false →
    (t.stored k (s.storage k r.reg)).lane j = (s.stored k (s.storage k r.reg)).lane j
  tag : ∀ k ∈ s.cur.slices, ∀ r ∈ rs k,
    (t.stored k (s.storage k r.reg)).tag = if m k = 0 then (s.stored k (s.storage k r.reg)).tag else r.tag
  poison : ∀ k ∈ s.cur.slices, ∀ r ∈ rs k,
    (t.stored k (s.storage k r.reg)).poison = ((s.stored k (s.storage k r.reg)).poison &&& ~~~(m k)) ||| bad k

/-- The module without the parts that accesses may change beside the bytes they write: copies and their owners, translations kept, and
the records of faults, errors and access counts; and without what a write of a context record or of a drive's table entry brings
about (R54, R283). -/
def State.apart (s : State) : State :=
  { s with cores := [], dies := [], clusters := [], mem := [], co := [], keyOf := [], poison := [], own := [], msix := [], ctxs := [],
           quay := { s.quay with failed := [], queues := [] } }

/-- The cores, dies and contexts keep everything but copies, records, counts, and what a context record that becomes VALID renews
(R54). -/
structure State.KeepsUnits (s t : State) : Prop where
  core : ∀ c, { t.core c with l1 := [], pc := [], pt := [] } = { s.core c with l1 := [], pc := [], pt := [] }
  die : ∀ d, { t.die d with aq := [], counters := [], owed := [], correctable := [], fbHead := 0, undelivered := 0, overflow := false,
                            parkNo := 0, nqHead := 0, nqDrop := 0, erHead := 0, erDrop := 0 } =
    { s.die d with aq := [], counters := [], owed := [], correctable := [], fbHead := 0, undelivered := 0, overflow := false,
                   parkNo := 0, nqHead := 0, nqDrop := 0, erHead := 0, erDrop := 0 }
  ctx : ∀ a, { t.ctx a with launchNo := 0, key := none, created := 0 } = { s.ctx a with launchNo := 0, key := none, created := 0 }

/-- A slice without what a word that parks it changes in it: a fault record is written behind what the slice stored (R389). -/
def parkAside (x : Slice) : Slice := { x with park := none, pmask := 0, pend := [], failed := none }

/-- THE FRAME of a word of which lanes may park or cross an access counter's threshold: in the issuing slices nothing changes but the
registers `ds`, what was stored, and the park; a record written for the gang comes behind what its slices stored (R389), and no
other gang, predicate, mask or unit changes but in copies and records. -/
structure State.KeepsOn (s t : State) (ds : List Nat) (ps : List Nat := []) (m : State → State := State.apart) : Prop where
  module : m t.still = m s.still
  units : s.KeepsUnits t
  gangs : ∀ g, g ≠ s.cur.gang → t.gangs.find g = s.gangs.find g
  gang : t.me.still = s.me.still
  slice : ∀ k ∈ s.cur.slices, parkAside (t.sl k).still = parkAside (s.sl k).still
  regs : ∀ k ∈ s.cur.slices, ∀ st, (∀ d ∈ ds, s.storage k d ≠ st) → (t.sl k).regs.find st = (s.sl k).regs.find st
  preds : ∀ p, p ∉ ps → t.me.preds.find p = s.me.preds.find p
  masks : t.me.masks = s.me.masks

/-- The aqueduct of a die holds no dirty word: what it gives up to make room writes nothing (Table 0-1, R248). -/
def State.CleanAq (s : State) (die : Nat) : Prop := ∀ x ∈ (s.die die).aq, x.2.dirty = 0

/-- The kind of pending entry that a word leaves and the register of its data (R172–R177, R241). -/
def pendingOf : Instr → Option (PendKind × BitVec 6)
  | .stb _ d _ _ => some (.store, d)
  | .sth _ d _ _ => some (.store, d)
  | .stw _ d _ _ => some (.store, d)
  | .std _ d _ _ => some (.store, d)
  | .atomAdd _ d _ _ => some (.atom 0, d)
  | .atomMin _ d _ _ => some (.atom 1, d)
  | .atomMax _ d _ _ => some (.atom 2, d)
  | .atomAnd _ d _ _ => some (.atom 3, d)
  | .atomOr _ d _ _ => some (.atom 4, d)
  | .atomXor _ d _ _ => some (.atom 5, d)
  | .atomExch _ d _ _ => some (.atom 6, d)
  | .atomAddwrap _ d _ _ => some (.atom 7, d)
  | .cas _ d _ _ => some (.cas, d)
  | .asum _ d _ _ => some (.asum, d)
  | _ => none

/-- THE PENDING ENTRY of lane `l` at its place: where the store will go, and what it will write; whether the access counts, and what
tells the entry from an older one, are set aside. -/
def State.entryOf (s : State) (kind : PendKind) (d : BitVec 6) (n : Nat) (l : Nat) (p : Place) : Pend :=
  { kind := kind, pa := p.pa, size := n, va := p.va, kid := p.kid, counted := false, widx := s.cur.widx.toNat, lane := l % 4,
    region := none, stamp := 0,
    data := if kind = .store then (s.V64 d.toNat l).toNat % 2 ^ (8 * n) else (s.V d.toNat l).toNat,
    data2 := if kind = .cas then (s.V (d.toNat + 1) l).toNat else 0,
    dst := if kind = .store then 0 else s.storage (l / 4) d.toNat,
    tag := if kind = .store then .raw else s.tagOf (l / 4) d.toNat }

/-- The state in which a word performs: the word is charged, and the latency of its results is noted. -/
def State.begun (s : State) (i : Instr) : State := (s.chargeWord i 0).begin i

/-- What the lanes that perform are given, one after the other; of the words that read through the L1, after the lines that it holds
under another name have left it (R364). -/
def State.gotBy (s : State) (i : Instr) (ps : List (Nat × Place)) : List LaneGot :=
  let u := match i with
    | .ldc _ _ _ _ | .ldt _ _ _ _ _ | .srd _ _ _ _ => s.begun i
    | _ => (s.begun i).dropAliases ps
  (u.readLoop (readerOf i) ps).2.1

/-- The state with the releases of the issuing slices complete (R247). -/
def State.released (s : State) : State := s.releaseAll s.cur.gang s.cur.widx.toNat s.cur.slices

/-- What a lane of a word that reads the Basin finds, and whether a Basin word that it read carries an uncorrectable error: `legal`
(R190) a word of its table or zero, `dist` (R191) the distance of its row from the query. -/
def State.basinLane (s : State) (l : Nat) : Instr → Nat × Bool
  | .legal _ _ a b =>
    let head := s.legalRead (l / 4)
    match s.legalOff a b l with
    | some o => ((s.basinRead (l / 4) o 4).val, (s.basinRead (l / 4) o 4).bad || head.bad)
    | none => (0, head.bad)
  | .dist h _ a b => match s.distDesc h.guard a with
    | some c =>
      let q := s.basinRead (l / 4) c.query c.rowSize
      let r := s.basinRead (l / 4) (s.distRow c b l) c.rowSize
      (c.value q.val r.val (fmtF32.nanOf l s.hash), q.bad || r.bad)
    | none => (0, false)
  | _ => (0, false)

/-- What the word of a lane becomes: the device's poisoned-value marker where an error was met (R168; log 5). -/
def State.basinWord (s : State) (i : Instr) (l : Nat) : Word :=
  BitVec.ofNat 32 (if (s.basinLane l i).2 then Config.poisonedValue else (s.basinLane l i).1)

/-- The words that read the Basin by lane, and what each lane receives. -/
def State.basinResults (s : State) : Instr → Option (Nat → List Result)
  | .legal h d a b => some (tagged d .u32 (s.basinWord (.legal h d a b)))
  | .dist h d a b => (s.distDesc h.guard a).map fun _ => tagged d .f32 (s.basinWord (.dist h d a b))
  | _ => none

/-- The lanes of slice `k` whose Basin words carry an uncorrectable error. -/
def State.basinBad (s : State) (i : Instr) (k : Nat) : BitVec 4 :=
  nibOf fun j => nib (s.act i.hdr.guard k) j && (s.basinLane (4 * k + j) i).2

/-! ### Words that command an engine -/

/-- The engine that a word commands, and the records of its threads with the barrier of each (R184, R189, R194, R195). -/
def State.commandOf (s : State) : Instr → Option (ThreadKind × List (List Byte × Nat))
  | .kick _ _ a b => (s.operand b).map fun n => (.barge, (s.records (s.commandOff a) 64 n).map fun r => (r, (Barge.ofBytes r).barrier))
  | .trst _ a => (s.operand a).map fun off =>
      (.trestle, [(s.recordBytes off 64, (TrestleCmd.ofBytes (s.recordBytes off 64)).barrier)])
  | .sload _ a n => (s.operand a).map fun off =>
      (.quay, (s.records off 32 (n.toNat + 1)).map fun r => (r, (DriveRead.ofBytes r).barrier))
  | .nsend _ a n => (s.operand a).map fun off =>
      (.send, (s.records off 32 (n.toNat + 1)).map fun r => (r, (Message.ofBytes r).barrier))
  | _ => none

/-- The identifiers of the threads that a word forks. -/
def State.newThreads (s : State) (n : Nat) : List Nat := (List.range n).map (s.threadNo + ·)

/-- The scope of an invalidation word (R159). -/
def State.scopeOf (s : State) : Instr → Option InvScope
  | .tlbi _ a => (s.pairOf a).map fun v => ⟨0, v.toNat % 2 ^ 57, s.me.asid⟩
  | .tlbiAsid _ a => (s.operand a).map fun v => ⟨1, 0, v % 2 ^ 16⟩
  | .tlbiAll _ => some ⟨2, 0, 0⟩
  | _ => none

/-- The lane step of a manifest word (R197–R199), and the kind of its accesses. -/
def manifestOf : Instr → Option (Hdr × MfLane × Nat)
  | .mfrd h _ a i => some (h, State.mfRead a i.toNat, 1)
  | .mfwr h d a i => some (h, State.mfWrite d a i.toNat, 2)
  | .mfopAppend h _ a => some (h, State.mfAppend a, 3)
  | .mfopRollback h d a => some (h, State.mfRollback d a, 3)
  | .mfopFinish h d a => some (h, State.mfEnd d a false, 3)
  | .mfopFault h d a => some (h, State.mfEnd d a true, 3)
  | _ => none

/-- The register in which a manifest word leaves a result. -/
def manifestInto : Instr → Option (BitVec 6)
  | .mfrd _ d _ _ => some d
  | .mfopAppend _ d _ => some d
  | _ => none

/-! ### Events -/

/-- An event changes in gang `g` the slices `ks` and what `e` sets aside, in the rest of the module what `m` sets aside, and nothing
else. -/
structure State.Touches (s t : State) (g : Nat) (ks : List Nat) (e : Gang → Gang := id) (m : State → State := id) : Prop where
  module : m { t with gangs := [] } = m { s with gangs := [] }
  gangs : ∀ j, j ≠ g → t.gangs.find j = s.gangs.find j
  gang : e { t.gang g with slices := [] } = e { s.gang g with slices := [] }
  away : ∀ k, k ∉ ks → (t.gang g).slices.find k = (s.gang g).slices.find k

/-- A SLICE HAS GONE ON AFTER A WAIT: the word it waited at counts in `dix`, and it stands at the next word of its chain that it has
still to perform alone, else at the next word, or at the next operation of its microprogram (R31, R62, R124); `fs` are the threads it has still forked. -/
structure WentOn (x y : Slice) (fs : List Nat) : Prop where
  same : y = { x with wait := none, dix := x.dix + 1, forked := fs, pc := y.pc, rest := y.rest, replay := y.replay, again := y.again,
                      alone := y.alone, macroAt := y.macroAt, ready := y.ready, readySince := y.readySince }
  next : x.macroAt = none → x.rest = [] →
    y.pc = x.next ∧ y.rest = [] ∧ y.replay = x.replay ∧ y.again = x.again ∧ y.alone = x.alone ∧ y.macroAt = none
  chain : ∀ w m r, x.macroAt = none → x.rest = (w, m) :: r →
    y.pc = w ∧ y.rest = r ∧ y.replay = some (m &&& x.live) ∧ y.again = false ∧ y.alone = true ∧ y.macroAt = none
  operation : ∀ w n, x.macroAt = some (w, n) → y.macroAt = some (w, n + 1) ∧ y.pc = x.pc ∧ y.rest = x.rest ∧ y.replay = x.replay ∧
    y.again = x.again ∧ y.alone = x.alone

/-- A SLICE'S REGION HAS CLOSED, and with it the attribution of its releases (R294, R295): `y` is `x` but for that. -/
structure Closed (x y : Slice) : Prop where
  same : y = { x with region := none, pend := y.pend, failed := y.failed }
  pend : y.pend = x.pend.map fun p => { p with region := none }
  failed : y.failed = x.failed.map fun f => { f with region := none }

/-- The waiting slices that wait as slice `k` does have gone on, and nothing else has changed. -/
structure State.GoesOn (s t : State) (g k : Nat) : Prop where
  each : ∀ j ∈ s.mates g k, WentOn (s.slice g j) (t.slice g j) (s.slice g j).forked
  frame : s.Touches t g (s.mates g k)

/-- The L1 of a core and the aqueduct of its die after an Acquire of gang `g` (R246). -/
structure State.Acquired (t : State) (core g : Nat) : Prop where
  l1 : ∀ x ∈ (t.core core).l1, x.2.owner = some g
  aqueduct : ∀ x ∈ (t.die (dieOfCore core)).aq, keySpace (4 * x.1) = peerSpace → x.2.dirty ≠ 0 ∧ x.2.kept = x.2.dirty

/-- THE JOIN of R253 with barrier `n`: the slices that wait as slice `k` does have gone on, each without the ended threads that count on
the barrier, after an Acquire; memory stands. -/
structure State.Joins (s t : State) (g k n : Nat) : Prop where
  each : ∀ j ∈ s.mates g k, WentOn (s.slice g j) (t.slice g j) ((s.slice g j).forked.filter fun i =>
    !((s.thread i).ended.isSome && decide ((s.thread i).barrier = n) && decide ((s.thread i).core = (s.gang g).core)))
  caches : t.Acquired (s.gang g).core g
  memory : t.mem = s.mem
  frame : s.Touches t g (s.mates g k) id fun s => { s with cores := [], dies := [] }

/-- The module as a gang's own, outside an issue. -/
def State.at (s : State) (g : Nat) : State := { s with cur := { Issue.idle with gang := g } }

/-- A GANG HAS TAKEN A TRAP outside an issue, where no stop of Table 10-3 stands against it. -/
def State.Takes (s t : State) (g : Nat) (ti : TrapInfo) : Prop := (s.at g).MayEnter ti → (s.at g).Enters (t.at g) ti

/-- `tcause` of a slice that traps with a cause at the word it stands at (Table 10-1). -/
def State.causeAt (s : State) (g k cause : Nat) : Word :=
  BitVec.ofNat 32 (cause + (s.slice g k).pc.toNat % 3 * 256 + flagBit (s.gang g).frag 30)

/-- The share of slices that wait in a trap: each with the cause at its word, with its active lanes (R284, R287). -/
def State.TrapsWaiting (s : State) (g : Nat) (ks : List Nat) (cause : Nat) (a b : Word) (at_ : Nat → Word) (ti : TrapInfo) : Prop :=
  ∀ j ∈ ks, ti.own j = some ⟨j, (s.slice g j).mask, a, b, at_ j⟩ ∧ State.causeWord (s.gang g) ti j = s.causeAt g j cause

/-- The slices of a gang whose wait ends in a fault now, and those of them that missed a promise, one for each set that waits together. -/
def State.faulted (s : State) (g : Nat) : List Nat := (s.liveSlices g).filter fun k => (s.waitFault g k).isSome
def State.missedSets (s : State) (g : Nat) : List Nat :=
  (s.faulted g).filter fun k => (s.waitFault g k).any (fun f => f.1 == 0x13) && decide ((s.mates g k).head? = some k)

/-- THE FAULTS OF ITS WAITS have been met by a gang, which stands as `u` before the trap `ti` is taken: every slice whose wait ends in a
fault traps, each with its own cause (R287), and `pmiss` counts each set that missed a promise (R297). -/
structure State.MeetsFaults (s u : State) (g : Nat) (ti : TrapInfo) : Prop where
  who : ti.who.map TrapSlice.slice = s.faulted g ∧ ti.imp = false
  pmiss : (u.gang g).pmiss = (s.gang g).pmiss + BitVec.ofNat 32 (s.missedSets g).length
  frame : s.Touches u g (s.faulted g) fun y => { y with pmiss := 0 }

/-- The slices of a gang named once each. -/
def State.Distinct (s : State) (g : Nat) : Prop := (s.gang g).slices.keys.Nodup

/-- A byte that an access of `n` bytes at `pa` under a key id cannot change: it lies outside the 16-byte blocks of device memory that the
access meets, or outside its bytes elsewhere (R376). -/
def outside (pa n b : Nat) : Prop :=
  if keySpace pa = devSpace then b < pa / 16 * 16 ∨ (pa + n - 1) / 16 * 16 + 16 ≤ b else b < pa ∨ pa + n ≤ b

/-- What an RMW or `asum` leaves of the `old` bytes (R243, R173, R174, R177). -/
def Pend.result (q : Pend) (old : Nat) : Nat :=
  match q.kind with
  | .atom op => (atomNew op q.tag (BitVec.ofNat 32 old) (BitVec.ofNat 32 q.data)).toNat
  | .cas => if old = q.data then q.data2 % 2 ^ 32 else old
  | _ => (asumTerms q.tag (BitVec.ofNat 32 q.data)).foldl cellAdd old % 2 ^ 256

/-- A slice's pending buffer without the entry taken. -/
def State.without (s : State) (g k : Nat) (rest : List Pend) : State := s.modSlice g k fun x => { x with pend := rest }

/-- A SLICE HAS RETURNED FROM A CALL (R138, R217): it goes on after the call with its linkage's mask and its window slid back. -/
structure LeftFrame (ring : Nat) (x y : Slice) : Prop where
  same : y = { x with mask := y.mask, pc := y.pc, wb := y.wb, frames := x.frames.tail, wait := none, region := none, dix := x.dix + 1,
                      pend := y.pend, failed := y.failed, rest := [], replay := none, again := false, alone := false, olds := [],
                      ready := y.ready, readySince := y.readySince, stream := y.stream }
  pend : y.pend = x.pend.map fun p => { p with region := none }
  frame : ∀ f, x.frames.head? = some f → y.mask = f.mask &&& x.live ∧ y.pc = f.ret ∧ y.wb = (x.wb + ring - f.slide) % ring

/-- AN ENGINE THREAD HAS ENDED with a code, 0 where it completed, and its barrier is what `b` makes of it: no other thread, no other
byte of memory and of each gang nothing but its gauge has changed (R261, R345). -/
structure State.ThreadEnds (s t : State) (i code : Nat) (b : Barrier → Barrier) : Prop where
  ended : (t.thread i).ended = some code
  barrier : t.barrier (s.thread i).core (s.thread i).barrier = b (s.barrier (s.thread i).core (s.thread i).barrier)
  memory : ∀ a, a < barrierKey (s.thread i).core (s.thread i).barrier ∨ barrierKey (s.thread i).core (s.thread i).barrier + 16 ≤ a →
    Memory.read t.mem a = Memory.read s.mem a
  threads : ∀ j, j ≠ i → t.threads.find j = s.threads.find j
  gangs : ∀ g, { t.gang g with energy := 0 } = { s.gang g with energy := 0 }

/-- Sluice `q` has become `x`, and nothing else in the module has changed. -/
def State.SluiceOnly (s t : State) (q : Nat) (x : Sluice) : Prop :=
  t.sluice q = x ∧ (∀ j, j ≠ q → t.sluices.find j = s.sluices.find j) ∧ { t with sluices := [] } = { s with sluices := [] }

/-- A sluice that has stopped with an error, its packet not done (R322). -/
def Sluice.failed (x : Sluice) (code : Nat) : Sluice := { x with error := some code, held := none, blocked := false, blockCyc := 0 }

/-- A sluice that goes on to the packet after the one at HEAD (R321, R323). -/
def Sluice.next (x : Sluice) : Sluice := { x with head := x.head + 1, held := none, blocked := false, blockCyc := 0 }

/-- A LAUNCH PACKET HAS QUEUED ITS LAUNCH (R323): it ends the queue, it is its sluice's youngest, and HEAD has moved on. -/
structure State.Queues (s t : State) (q : Nat) (p : Packet6) : Prop where
  launch : ∃ y, t.launches.find s.launchNo = some y ∧ y.source = .sluice q (s.sluice q).seq ∧ y.state = .queued ∧ y.image = p.image ∧
    y.grid = p.grid ∧ y.asid = s.sluiceAsid q ∧ y.doneVa = p.doneVa ∧ y.doneVal = BitVec.ofNat 64 p.doneVal
  queue : t.queue = s.queue ++ [s.launchNo]
  sluice : t.sluice q = { (s.sluice q).next with launches := (s.sluice q).launches ++ [s.launchNo], seq := (s.sluice q).seq + 1 }
  rest : { t with sluices := [], launches := [], launchNo := 0, queue := [] } = { s with sluices := [], launches := [], launchNo := 0, queue := [] }

/-- The state that a write of LOCKBASE with the enable bit checks (R348). -/
def State.enabling (s : State) (r : Nat) (v : BitVec 64) : State :=
  s.modLock r fun x => { x with record := v &&& ~~~63#64, error := x.error && !v.getLsbD 1, enable := true, skipped := 0 }

/-- No access of a stage of a Lock is held, from its beginning to its end (R359, R408). -/
def State.Serves (s : State) (m : LockM Unit) : Prop := ∃ v, m ⟨s, [], []⟩ = .ok () v

/-- Whether an entry of a TLB is one that an invalidation's scope names (R365, Table 16-4). -/
def InvScope.names (v : InvScope) (e : TlbEntry) : Prop :=
  (v.scope = 0 ∧ e.asid = v.asid ∧ e.va ≤ v.va ∧ v.va < e.va + e.size) ∨ (v.scope = 1 ∧ e.asid = v.asid) ∨ 2 ≤ v.scope

/-- A PARKED SLICE HAS BEEN RELEASED (R165, R369): it stands at its word and performs again the lanes still to perform. -/
structure Freed (p : Park) (x y : Slice) : Prop where
  same : y = { x with park := none, pc := p.widx, replay := y.replay, again := y.again, alone := y.alone, ready := y.ready,
                      readySince := y.readySince, stream := y.stream, levels := y.levels }
  lanes : y.replay = if p.kind = .fetch then x.replay else some (p.pmask &&& x.live)

/-- The parks that a release of scope `sc` and value `v` names on die `d`: one park id, one ASID, or all (Table 16-6). -/
abbrev named (d sc v die asid id : Nat) : Prop := die = d ∧ (sc = 0 ∧ id = v ∨ sc = 1 ∧ asid = v ∨ 2 ≤ sc)

/-- A RELEASE HAS REACHED THE SLICES: one parked under ids that are all named goes on, and one with an id that is not stays parked;
a slice held at its handler's first word is set apart (R222). -/
def State.Releases (s t : State) (d sc v : Nat) : Prop :=
  ∀ g k p, s.Distinct g → (s.slice g k).park = some p → (s.slice g k).reserve = true →
    if ∀ i ∈ p.ids, named d sc v p.die (s.gang g).asid i then Freed p (s.slice g k) (t.slice g k)
    else ∃ q, (t.slice g k).park = some q ∧ q.widx = p.widx ∧ q.pmask = p.pmask ∧
      ∀ i, i ∈ q.ids ↔ i ∈ p.ids ∧ ¬named d sc v p.die (s.gang g).asid i

/-- Every slice stands as it did. -/
def State.SameSlices (s t : State) : Prop := ∀ g k, t.slice g k = s.slice g k

/-! ### Invariants of every step -/

/-- The sparse maps that hold gangs, slices and loading microprograms list each key once, rising. -/
structure State.Sorted (s : State) : Prop where
  gangs : s.gangs.keys.Pairwise (· < ·)
  slices : ∀ x ∈ s.gangs, x.2.slices.keys.Pairwise (· < ·)
  saved : ∀ v ∈ s.saved, v.2.gangs.keys.Pairwise (· < ·) ∧ ∀ x ∈ v.2.gangs, x.2.slices.keys.Pairwise (· < ·)
  loading : ∀ c ∈ s.cores, c.2.loading.keys.Pairwise (· < ·)

/-- The hard-wired predicate p0 holds no bits of its own, on the module and in what a save holds (R50), and the power cap stands
between its bounds (R332). -/
structure State.Bounded (s : State) : Prop where
  here : ∀ x ∈ s.gangs, x.2.preds.find 0 = none
  saved : ∀ v ∈ s.saved, ∀ x ∈ v.2.gangs, x.2.preds.find 0 = none
  cap : 600 ≤ s.power.cap.toNat ∧ s.power.cap.toNat ≤ 3600

/-- The shifts by register (R96): opcode, destination, operands, and the word they give for a count `n`. -/
def shiftOf : Instr → Option (Nat × BitVec 6 × BitVec 6 × BitVec 6 × (Word → Nat → Word))
  | .shl _ d a b => some (0x14, d, a, b, fun x n => if n < 32 then BitVec.ofNat 32 (x.toNat * 2 ^ n) else 0)
  | .shr _ d a b => some (0x15, d, a, b, fun x n => if n < 32 then BitVec.ofNat 32 (x.toNat / 2 ^ n) else 0)
  | .sar _ d a b => some (0x16, d, a, b, fun x n =>
      if n < 32 then BitVec.ofInt 32 (x.toInt / 2 ^ n) else if x.msb then BitVec.allOnes 32 else 0)
  | .rot _ d a b => some (0x17, d, a, b, fun x n =>
      BitVec.ofNat 32 (x.toNat * 2 ^ (n % 32) + x.toNat / 2 ^ (32 - n % 32)))
  | _ => none

/-! ### The results of the register words, family by family -/

/-- An elementwise result of two sources (R74): element by element on the words of `a` and `b`. -/
def State.elements (s : State) (d a b : BitVec 6) (fi : Int → Int → Int) (ff : Fmt → FEnv → Nat → Nat → Nat) : Nat → List Result :=
  s.like d a fun l => s.elem2 (s.tagOf (l / 4) a.toNat) l fi ff (s.V a.toNat l) (s.V b.toNat l)

/-- An elementwise result of one source (R74). -/
def State.elements1 (s : State) (d a : BitVec 6) (fi : Int → Int) (ff : Fmt → FEnv → Nat → Nat) : Nat → List Result :=
  s.like d a fun l => s.elem1 (s.tagOf (l / 4) a.toNat) l fi ff (s.V a.toNat l)

/-- Arithmetic and moves (R82–R91, R94, R101). -/
def State.arithResults (s : State) : Instr → Option (Nat → List Result)
  | .add _ d a b => some (s.elements d a b (· + ·) Fmt.add)
  | .sub _ d a b => some (s.elements d a b (· - ·) Fmt.sub)
  | .mul _ d a b => some (s.elements d a b (· * ·) Fmt.mul)
  | .mulh _ d a b => some (s.like d a fun l =>
      let t := s.tagOf (l / 4) a.toNat
      s.elem2 t l (fun x y => x * y / 2 ^ elemBits t) Fmt.mul (s.V a.toNat l) (s.V b.toNat l))
  | .fma _ d a b => some (s.like d a fun l =>
      let t := s.tagOf (l / 4) a.toNat
      ofElems t fun j =>
        let x := elemOf t (s.V a.toNat l) j
        let y := elemOf t (s.V b.toNat l) j
        let z := elemOf t (s.V d.toNat l) j
        match fmtOf t with
        | some f => f.fma (s.fenv f l) x y z
        | none => wrapNat (elemInt t x * elemInt t y + elemInt t z) (elemBits t))
  | .min _ d a b => some (s.elements d a b min fun f v => f.pick v.ftz true)
  | .max _ d a b => some (s.elements d a b max fun f v => f.pick v.ftz false)
  | .unopAbs _ d a => some (s.elements1 d a (fun x => (x.natAbs : Int)) fun f v => f.withSign v fun _ => false)
  | .unopNeg _ d a => some (s.elements1 d a (fun x => -x) fun f v => f.withSign v not)
  | .unopNabs _ d a => some (s.elements1 d a (fun x => -(x.natAbs : Int)) fun f v => f.withSign v fun _ => true)
  | .unopSat _ d a => some (s.elements1 d a (fun x => max x 0) Fmt.unit)
  | .unopNot _ d a => some (s.like d a fun l => ~~~(s.V a.toNat l))
  | .addl _ d a lit => some (s.like d a fun l => s.elem2 (s.tagOf (l / 4) a.toNat) l (· + ·) Fmt.add (s.V a.toNat l) lit)
  | .movl _ d t lit => some (tagged d (Tag.ofCode t.toNat) fun _ => lit)
  | .movi _ d i => some (tagged d .i32 fun _ => i.signExtend 32)
  | .mov _ d a => some (s.like d a (s.V a.toNat))
  | .sel h d a b => some (s.like d a fun l => if s.P h.guard.toNat l then s.V a.toNat l else s.V b.toNat l)
  | .add64 _ d a b => some (pairResult d.toNat fun l => s.V64 a.toNat l + s.V64 b.toNat l)
  | .dot4 _ d a b => some (s.like d d (s.dot4Lane a b d))
  | _ => none

/-- Logic, shifts and bit operations (R95–R100). -/
def State.logicResults (s : State) : Instr → Option (Nat → List Result)
  | .and _ d a b => some (s.like d a fun l => s.V a.toNat l &&& s.V b.toNat l)
  | .or _ d a b => some (s.like d a fun l => s.V a.toNat l ||| s.V b.toNat l)
  | .xor _ d a b => some (s.like d a fun l => s.V a.toNat l ^^^ s.V b.toNat l)
  | .andn _ d a b => some (s.like d a fun l => s.V a.toNat l &&& ~~~(s.V b.toNat l))
  | .shl _ d a b => some (s.like d a fun l => s.V a.toNat l <<< (s.V b.toNat l).toNat)
  | .shr _ d a b => some (s.like d a fun l => s.V a.toNat l >>> (s.V b.toNat l).toNat)
  | .sar _ d a b => some (s.like d a fun l => (s.V a.toNat l).sshiftRight (s.V b.toNat l).toNat)
  | .rot _ d a b => some (s.like d a fun l => (s.V a.toNat l).rotateLeft (s.V b.toNat l).toNat)
  | .shli _ d a i => some (s.like d a fun l => s.V a.toNat l <<< i.toNat)
  | .shri _ d a i => some (s.like d a fun l => s.V a.toNat l >>> i.toNat)
  | .sari _ d a i => some (s.like d a fun l => (s.V a.toNat l).sshiftRight i.toNat)
  | .bitsClz _ d a => some (tagged d .u32 fun l => BitVec.ofNat 32 (clzW (s.V a.toNat l)))
  | .bitsPopc _ d a => some (tagged d .u32 fun l => BitVec.ofNat 32 (popCount 32 (s.V a.toNat l).toNat))
  | .bitsBrev _ d a => some (s.like d a fun l => (s.V a.toNat l).reverse)
  | .bitsFfs _ d a => some (tagged d .u32 fun l => BitVec.ofNat 32 (ffsW (s.V a.toNat l)))
  | .bitsByterev _ d a => some (s.like d a fun l => byterevW (s.V a.toNat l))
  | .bfx _ d a pos lit => some fun k =>
      [⟨d.toNat, fun l => bfxW (s.tagOf (l / 4) a.toNat) (s.V a.toNat l) pos.toNat (lit.toNat % 64),
        if s.tagOf k a.toNat = .i32 then .i32 else .u32⟩]
  | .bfi _ d a pos lit => some (s.like d d fun l => bfiW (s.V d.toNat l) (s.V a.toNat l) pos.toNat (lit.toNat % 64))
  | _ => none

/-- `fn`, whose approximate form differs on F32 alone (R104). -/
def State.special (s : State) (d a : BitVec 6) (x : BitVec 1) (f : SFn) : Nat → List Result :=
  s.elements1 d a id fun m v e => if x == 1#1 && decide (m = fmtF32) then fnApprox v f e else m.fn v f e

/-- Special functions, division, conversion and block quantisation (R103–R120). -/
def State.convertResults (s : State) : Instr → Option (Nat → List Result)
  | .fnRcp _ d a x => some (s.special d a x .rcp)
  | .fnRsq _ d a x => some (s.special d a x .rsq)
  | .fnSqrt _ d a x => some (s.special d a x .sqrt)
  | .fnExp2 _ d a x => some (s.special d a x .exp2)
  | .fnLog2 _ d a x => some (s.special d a x .log2)
  | .fnTanh _ d a x => some (s.special d a x .tanh)
  | .fnSigm _ d a x => some (s.special d a x .sigm)
  | .fdiv _ d a b => some (s.elements d a b (fun x _ => x) Fmt.div)
  | .fscale _ d a b => some (s.like d a fun l =>
      s.elem1 (s.tagOf (l / 4) a.toNat) l id (fun f v x => f.scale v x (s.V b.toNat l).toInt) (s.V a.toNat l))
  | .fcls _ d a m => some (tagged d .u32 fun l =>
      let t := s.tagOf (l / 4) a.toNat
      match fmtOf t with
      | none => 0
      | some f => BitVec.ofNat 32 (((List.range (nelem t)).map fun j =>
          flagBit (m.getLsbD (f.classOf s.me.ftz (elemOf t (s.V a.toNat l) j))) j).sum))
  | .cvt _ d a r t => some fun k =>
      let tg := Tag.ofCode t.toNat
      (List.range (cvtDsts d (BitVec.ofNat 4 tg.code) (s.tagOf k a.toNat)).length).map fun n =>
        ⟨d.toNat + n, s.cvtLane a tg r.toNat n, tg⟩
  | .tag _ d a t => some (tagged d (Tag.ofCode t.toNat) (s.V a.toNat))
  | .qblk h d a k => some fun _ =>
      let bs := s.blocks h a k (s.tagOf (s.cur.slices.headD 0) a.toNat)
      let w := 1 + blockBits (k.toNat % 4)
      let stream := ((bs.flatMap fun b => b.2.2).zipIdx.map fun (x, i) => x * 2 ^ (w * i)).sum
      [⟨d.toNat, fun l => BitVec.ofNat 32 (bitsOf stream (32 * l) 32), .blk⟩,
       ⟨d.toNat + 1, fun l => ((bs[l]?).map fun b => scaleWord (k.toNat % 4) (bitsOf k.toNat 2 1) b.1 b.2.1).getD 0, .scl⟩]
  | .unpb _ d a k => some (tagged d (unpbTag k) fun l =>
      ofElems (unpbTag k) fun j => s.unpbElem a k ((fmtOf (unpbTag k)).getD fmtF32) (l * nelem (unpbTag k) + j))
  | .frnd _ d a r => some (s.elements1 d a id fun f v x =>
      f.integral v.ftz (if r = 0#2 then .ne else if r = 1#2 then .z else if r = 2#2 then .down else .up) x)
  | _ => none

/-- The source word of a lane: lane `src l` where that is a lane of the issuing set, else its own (R123, R125). -/
def State.fromLane (s : State) (d a : BitVec 6) (src : Nat → Option Nat) : Nat → List Result :=
  s.like d a fun l => match src l with
    | some j => if j < 32 ∧ s.issuing j = true then s.V a.toNat j else s.V a.toNat l
    | none => s.V a.toNat l

/-- One word for every active lane, from the words of the active lanes in lane order (R127). -/
def State.reduced (s : State) (h : Hdr) (d a : BitVec 6) (f : Tag → List Word → Word) : Nat → List Result :=
  s.like d a fun _ => f (s.tagOf (s.cur.slices.headD 0) a.toNat) (s.words a (s.actLanes h.guard))

/-- One word for each active lane, from the words of the active lanes below it, and its own unless exclusive (R128). -/
def State.scanned (s : State) (h : Hdr) (d a : BitVec 6) (e : BitVec 1) (f : Tag → List Word → Word) : Nat → List Result :=
  s.like d a fun l => f (s.tagOf (s.cur.slices.headD 0) a.toNat)
    (s.words a ((s.actLanes h.guard).filter fun j => decide (j < l) || (e != 1#1 && decide (j = l))))

/-- Cross-lane words (R125–R128, R132), `qv` to a vector (R129), `topk` (R192), and `segr` (R158). -/
def State.laneResults (s : State) : Instr → Option (Nat → List Result)
  | .shfli _ d a b => some (s.fromLane d a fun l => some ((s.V b.toNat l).toNat % 32))
  | .shflx _ d a i => some (s.fromLane d a fun l => some (l ^^^ i.toNat))
  | .shflu _ d a i => some (s.fromLane d a fun l => if i.toNat ≤ l then some (l - i.toNat) else none)
  | .shfld _ d a i => some (s.fromLane d a fun l => some (l + i.toNat))
  | .bcast h d a b => some (s.fromLane d a fun _ => (s.lowest h.guard).map fun j => (s.V b.toNat j).toNat % 32)
  | .matchEq h d a => some (tagged d .u32 fun l =>
      lanesWord ((s.actLanes h.guard).filter fun j => decide (s.V a.toNat j = s.V a.toNat l)))
  | .redSum h d a => some (s.reduced h d a fun t ws => s.sumWords t ((s.actLanes h.guard).headD 0) ws ws)
  | .redEsum h d a => some (pairResult d.toNat fun _ => BitVec.ofInt 64 (s.esum h a))
  | .redMin h d a => some (s.reduced h d a fun t ws => s.pickWords t true 0 ws)
  | .redMax h d a => some (s.reduced h d a fun t ws => s.pickWords t false 0 ws)
  | .redAnd h d a => some (s.reduced h d a fun _ ws => ws.foldl (· &&& ·) (BitVec.allOnes 32))
  | .redOr h d a => some (s.reduced h d a fun _ ws => ws.foldl (· ||| ·) 0)
  | .redXor h d a => some (s.reduced h d a fun _ ws => ws.foldl (· ^^^ ·) 0)
  | .scanSum h d a e => some (s.scanned h d a e fun t ws =>
      s.sumWords t ((s.lowest h.guard).getD 0) (s.words a (s.actLanes h.guard)) ws)
  | .scanMin h d a e => some (s.scanned h d a e fun t ws => s.pickWords t true (scanIdentity t true) ws)
  | .scanMax h d a e => some (s.scanned h d a e fun t ws => s.pickWords t false (scanIdentity t false) ws)
  | .compose _ d a b => some (tagged d .idx fun l =>
      ofElems .idx fun j =>
        let e := elemOf .idx (s.V a.toNat l) j
        if 128 ≤ e then e else if s.issuing (e / 4) then elemOf .idx (s.V b.toNat (e / 4)) (e % 4) else 0xFF)
  | .qvToVector _ d a => some (tagged d .u32 fun _ => s.Q a.toNat)
  | .topk h d a b => some fun _ =>
      let best := s.bestList h.guard d a b
      let free := s.issLanes.any fun l => isNanWord (s.V d.toNat l)
      let at_ (l : Nat) : Option (Word × Word) := best[4 * s.cur.slices.idxOf (l / 4) + l % 4]?
      [⟨d.toNat, fun l => if free then s.freeWord (256 + 64 * d.toNat + l) else ((at_ l).map Prod.fst).getD 0, .f32⟩,
       ⟨d.toNat + 1, fun l => if free then s.freeWord (256 + 64 * (d.toNat + 1) + l) else ((at_ l).map Prod.snd).getD 0, .u32⟩]
  | .segrBase _ d e => some (pairResult d.toNat fun _ => (s.me.seg e.toNat).base)
  | .segrLimit _ d e => some (pairResult d.toNat fun _ => (s.me.seg e.toNat).limit)
  | _ => none

/-- The four 32-bit words of an AES block output, the most significant byte first (R193). -/
def drawWord (out : List Nat) (j : Nat) : Word :=
  BitVec.ofNat 32 (((List.range 4).map fun i => (out[4 * j + i]?).getD 0 * 2 ^ (24 - 8 * i)).sum)

/-- `rng` (R193): the block of each slice, from lane 0 of the slice's position register. -/
def State.drawResults (s : State) (d a : BitVec 6) (b : BitVec 2) (p : BitVec 4) (k : Nat) : List Result :=
  [⟨d.toNat, fun l => drawWord (aes256 (s.randomKey s.me.asid) (drawInput s.me.rngs (s.V a.toNat (4 * k)) p.toNat b.toNat)) (l % 4), .u32⟩]

/-- Comparisons, votes and `pq` to a predicate (R92, R129): the predicate and its bit per lane. -/
def State.predResults (s : State) : Instr → Option (BitVec 3 × (Nat → Bool))
  | .cmpEq _ p a b => some (p, s.cmpLane .eq a b)
  | .cmpNe _ p a b => some (p, s.cmpLane .ne a b)
  | .cmpLt _ p a b => some (p, s.cmpLane .lt a b)
  | .cmpLe _ p a b => some (p, s.cmpLane .le a b)
  | .cmpGt _ p a b => some (p, s.cmpLane .gt a b)
  | .cmpGe _ p a b => some (p, s.cmpLane .ge a b)
  | .cmpUnord _ p a b => some (p, s.cmpLane .unord a b)
  | .cmpOrd _ p a b => some (p, s.cmpLane .ord a b)
  | .voteAny h p k => some (p, fun _ => (s.actLanes h.guard).any (s.P k.toNat))
  | .voteAll h p k => some (p, fun _ => (s.actLanes h.guard).all (s.P k.toNat))
  | .voteUni h p a => some (p, fun _ =>
      (s.actLanes h.guard).all fun l => decide (s.V a.toNat l = s.V a.toNat ((s.lowest h.guard).getD 0)))
  | .pqToPredicate _ p a => some (p, fun l => (s.Q a.toNat).getLsbD l)
  | _ => none

/-- The words that write a mask register (R129–R131): the register and its word. -/
def State.maskResults (s : State) : Instr → Option (BitVec 4 × Word)
  | .ballot h d k => some (d, lanesWord ((s.actLanes h.guard).filter (s.P k.toNat)))
  | .qopAnd _ d a b => some (d, s.Q a.toNat &&& s.Q b.toNat)
  | .qopOr _ d a b => some (d, s.Q a.toNat ||| s.Q b.toNat)
  | .qopXor _ d a b => some (d, s.Q a.toNat ^^^ s.Q b.toNat)
  | .qopAndn _ d a b => some (d, s.Q a.toNat &&& ~~~(s.Q b.toNat))
  | .qopOrn _ d a b => some (d, s.Q a.toNat ||| ~~~(s.Q b.toNat))
  | .qopXnor _ d a b => some (d, ~~~(s.Q a.toNat ^^^ s.Q b.toNat))
  | .qopMov _ d a => some (d, s.Q a.toNat)
  | .qopNot _ d a => some (d, ~~~(s.Q a.toNat))
  | .qopLsb _ d a _ => some (d, s.Q a.toNat &&& -(s.Q a.toNat))
  | .qopClrlsb _ d a _ => some (d, s.Q a.toNat &&& (s.Q a.toNat - 1))
  | .qi _ d i => some (d, i.signExtend 32)
  | .qvToMask _ d a => (s.lowest 0).map fun l => (d, s.V a.toNat l)
  | .pqToMask h d k =>
      let m := lanesWord (s.actLanes h.guard)
      some (d, (s.Q d.toNat &&& ~~~m) ||| lanesWord ((s.actLanes h.guard).filter (s.P k.toNat)))
  | _ => none

/-! ### Invariants -/

/-- Memory stands in its one canonical form. -/
def State.Canonical (s : State) : Prop := Memory.wf s.mem = true

end Sys2Proof.Machine
end

