-- ==== Sys2Proof/Certificates/Slice0/Obligations.lean ====
section
/-! DEFINITION. The statements. Each says in its docstring which rule of spec/ it formalises. -/

section

open Sys2Proof Sys2Proof.Machine

/-! ### Register words -/

/-- R82–R91, R94, R101 with R51, R74: an arithmetic word or a move completes and delivers its results, and changes nothing
else.

R95–R100 with R51, R74: a word of logic, a shift or a bit operation completes and delivers its results. -/
def Obligations.ArithmeticAndLogicDeliver : Prop :=
  (∀ (s : State) (i : Instr) (rs : Nat → List Result), s.arithResults i = some rs → s.Settled → s.trapOf i = none →
    ∃ t, exec i s = .next t ∧ s.Delivers t i rs) ∧
  ∀ (s : State) (i : Instr) (rs : Nat → List Result), s.logicResults i = some rs → s.Settled → s.trapOf i = none →
    ∃ t, exec i s = .next t ∧ s.Delivers t i rs

/-- R103–R120: a special function, a division, a conversion or a block quantisation completes and delivers its results; `cvt`
writes in each slice as many registers as the slice's source tag asks. -/
def Obligations.ConversionsDeliver : Prop :=
  ∀ (s : State) (i : Instr) (rs : Nat → List Result), s.convertResults i = some rs → s.Settled → s.trapOf i = none →
    ∃ t, exec i s = .next t ∧ s.Delivers t i rs

/-- R125–R128, R132, R129, R158, R192: a cross-lane word, `qv` to a vector, `topk` or `segr` completes and delivers its results.
The entries of a list that holds a NaN score are free values (log 13).

R193: `rng` completes and each slice with an active lane receives the four words of its block. -/
def Obligations.LanesDeliver : Prop :=
  (∀ (s : State) (i : Instr) (rs : Nat → List Result), s.laneResults i = some rs → s.Settled → s.trapOf i = none →
    ∃ t, exec i s = .next t ∧ s.Delivers t i rs) ∧
  ∀ (s : State) (h : Hdr) (d a : BitVec 6) (b : BitVec 2) (p : BitVec 4), s.Settled → s.trapOf (.rng h d a b p) = none →
    ∃ t, exec (.rng h d a b p) s = .next t ∧ s.Delivers t (.rng h d a b p) (s.drawResults d a b p)

/-- R92, R93, R129, R50: a comparison, a vote or `pq` to a predicate completes and sets its predicate in the active lanes; p0
takes nothing.

R129–R131: a word whose destination is a mask register completes and writes it; `qv` to a mask with no active lane writes
nothing. -/
def Obligations.PredicatesAndMasksAreSet : Prop :=
  (∀ (s : State) (i : Instr) (p : BitVec 3) (f : Nat → Bool), s.predResults i = some (p, f) → s.Settled → s.trapOf i = none →
    ∃ t, exec i s = .next t ∧ s.Sets t i p f) ∧
  (∀ (s : State) (i : Instr) (q : BitVec 4) (w : Word), s.maskResults i = some (q, w) → s.Settled → s.trapOf i = none →
    ∃ t, exec i s = .next t ∧ s.Masks t i q w) ∧
  ∀ (s : State) (h : Hd0) (d : BitVec 4) (a : BitVec 6), s.lowest 0 = none → s.Settled → s.trapOf (.qvToMask h d a) = none →
    ∃ t, exec (.qvToMask h d a) s = .next t ∧ s.Passes t (.qvToMask h d a)

/-- R13, R75: element j of an integer result is the exact integer of elements j of the operands, wrapped to the element's
width; the elements of a word are its bits, 32 divided by their number wide (R7).

R34, R77: an F32 sum, difference or product whose first operand is a NaN is that NaN with its quiet bit set, and one whose
second operand alone is a NaN is that one quieted. -/
def Obligations.ElementsAreExact : Prop :=
  ((∀ (s : State) (t : Tag) (l : Nat) (fi : Int → Int → Int) (ff : Fmt → FEnv → Nat → Nat → Nat) (x y : Word) (j : Nat),
    fmtOf t = none → j < nelem t →
      (elemOf t (s.elem2 t l fi ff x y) j : Int) =
        fi (elemInt t (elemOf t x j)) (elemInt t (elemOf t y j)) % 2 ^ elemBits t) ∧
  (∀ (t : Tag) (x : Word), ofElems t (elemOf t x) = x) ∧
  ∀ (t : Tag) (x : Word) (j : Nat), j < nelem t →
    elemInt t (elemOf t x j) % 2 ^ elemBits t = (elemOf t x j : Int) ∧
      (if isSint t then -(2 ^ (elemBits t - 1)) ≤ elemInt t (elemOf t x j) ∧ elemInt t (elemOf t x j) < 2 ^ (elemBits t - 1)
       else 0 ≤ elemInt t (elemOf t x j) ∧ elemInt t (elemOf t x j) < 2 ^ elemBits t)) ∧
  ∀ (v : FEnv) (a b : Nat) (op : Fmt → FEnv → Nat → Nat → Nat), op = Fmt.add ∨ op = Fmt.sub ∨ op = Fmt.mul →
    a < 2 ^ 32 → b < 2 ^ 32 →
      ((fmtF32.decode a).isNan = true → op fmtF32 v a b = a ||| 2 ^ 22) ∧
      ((fmtF32.decode a).isNan = false → (fmtF32.decode b).isNan = true → op fmtF32 v a b = b ||| 2 ^ 22)

/-- R98: `clz`, `ffs` and `popc` count what their names say, and `byterev` reverses the four bytes.

R99, R100: `bfi` places the low bits of a and leaves the rest of d; `bfx` of what `bfi` placed gives them back, signed under
I32. -/
def Obligations.BitsAreCountedAndPlaced : Prop :=
  ((∀ a : Word, clzW a ≤ 32 ∧ (∀ i, 32 - clzW a ≤ i → i < 32 → a.getLsbD i = false) ∧ (clzW a < 32 → a.getLsbD (31 - clzW a) = true)) ∧
  (∀ a : Word, ffsW a ≤ 32 ∧ (∀ i < ffsW a, a.getLsbD i = false) ∧ (ffsW a < 32 → a.getLsbD (ffsW a) = true)) ∧
  (∀ a : Word, popCount 32 a.toNat = ((List.finRange 32).filter fun i => a.getLsbD i.val).length) ∧
  ∀ (a : Word) (j i : Nat), j < 4 → i < 8 → (byterevW a).getLsbD (8 * j + i) = a.getLsbD (8 * (3 - j) + i)) ∧
  ∀ (t : Tag) (d a : Word) (pos width : Nat), 0 < width → pos + width ≤ 32 →
    (∀ i < 32, (bfiW d a pos width).getLsbD i = if pos ≤ i ∧ i < pos + width then a.getLsbD (i - pos) else d.getLsbD i) ∧
    (t ≠ .i32 → (bfxW t (bfiW d a pos width) pos width).toNat = a.toNat % 2 ^ width) ∧
    (t = .i32 → (bfxW t (bfiW d a pos width) pos width).toInt = signedOf a.toNat width)

/-! ### Traps of the checks -/

/-- R66 ranks 2 to 6, R64, R63, R48, R52, R79: which of the checks made before a word performs is reported. -/
def Obligations.ChecksRank : Prop :=
  ∀ (s : State) (i : Instr),
    ((i.wf = false ∨ s.valueIllegal i = true) → s.screen i = some (s.trapAll 2 0x02 s.cur.chain 0)) ∧
    (i.wf = true → s.valueIllegal i = false →
      (s.mayRun i = false → s.screen i = some (s.trapAll 3 0x03 s.cur.chain 0)) ∧
      (s.mayRun i = true →
        ((s.me.schk = true ∧ s.early i = true) → s.screen i = some (s.trapAll 4 0x04 s.cur.chain 0)) ∧
        (¬(s.me.schk = true ∧ s.early i = true) →
          (∀ ti, s.formatFault i = some ti → s.screen i = some ti ∧ ti.rank = 5 ∧ ti.cause = 0x05) ∧
          (s.formatFault i = none →
            (∀ ti, s.poisonFault i = some ti → s.screen i = some ti ∧ ti.rank = 6 ∧ ti.cause = 0x09) ∧
            (s.poisonFault i = none → s.screen i = none)))))

/-- R66, R284, R287, R289: a word that a trap meets performs nothing, and every entering slice takes the entry steps, where no
stop of Table 10-3 stands against it.

Table 10-3, R301: where a stop stands against the entry of the first trapping slice, the gang stops with that reason and enters
nothing: an allotment of 64 registers gives 4, no handler 7, a handler whose reserve is gone 5, four levels open 11; and a trap frame
beyond the towpath limit (R227) 5. -/
def Obligations.TrapsAreTakenOrStop : Prop :=
  (∀ (s : State) (i : Instr) (ti : TrapInfo), isEvent i = false → s.Settled → s.trapOf i = some ti → s.MayEnter ti →
    ∃ t, exec i s = .next t ∧ s.Enters t ti) ∧
  ∀ (s : State) (i : Instr) (ti : TrapInfo) (w : TrapSlice) (r : Nat), isEvent i = false → s.Settled → s.me.stop = none →
    s.trapOf i = some ti → ti.who.head? = some w → RefusedWith s.me (s.sl w.slice) r →
    ∃ t st, exec i s = .next t ∧ t.me.stop = some st ∧ st.reason = r ∧ st.tcause = State.causeWord s.me ti w.slice ∧ st.tpc = w.tpc ∧
      ∀ k ∈ s.cur.slices, (t.sl k).levels = (s.sl k).levels ∧ (t.sl k).frames = (s.sl k).frames ∧ (t.sl k).regs = (s.sl k).regs

/-! ### Control words -/

/-- R81: `nop` performs nothing; a `dbrk` of a context without a debugger, a `pause` of no cycles, and a word that takes its operands
from the lowest active lane, or a `trap`, with no active lane go on as it does. Of these, `nop`, `dbrk`, `pause`, `csrw` and `trap` rest on
R81, R147, R153, R155 and R143; that `sleep`, `sleep.c`, `wait`, `wait.cnt`, `kick`, `trst`, `sload`, `nsend`, `binit`, `barr`, `btest`,
`tlbi`, `tlbi.asid`, `vqual`, `segw` and `dist` (log 69) and `mcsld` (log 65) with no active lane only go on is the model's own choice. -/
def Obligations.EmptyWordsPass : Prop :=
  ∀ (s : State) (i : Instr), s.Settled → s.trapOf i = none →
    (match i with
      | .nop _ => True
      | .dbrk _ _ => (s.ctx s.me.asid).debugger = false
      | .pause _ n => n = 0
      | .sleep _ a => s.cycleOf a = none
      | .sleepC _ b a => s.cycleOf a = none ∨ s.operand b = none
      | .wait _ p a => s.operand a = none ∨ s.operand p = none
      | .waitCnt _ a => s.operand a = none
      | .trap h _ => s.actLanes h.guard = []
      | .vqual _ _ => s.actLanes 0 = []
      | .csrw _ _ _ => s.actLanes 0 = []
      | .segwBase _ _ _ => s.actLanes 0 = []
      | .segwLimit _ _ _ => s.actLanes 0 = []
      | .kick _ _ _ _ => s.actLanes 0 = []
      | .trst _ _ => s.actLanes 0 = []
      | .sload _ _ _ => s.actLanes 0 = []
      | .nsend _ _ _ => s.actLanes 0 = []
      | .binit _ _ _ => s.actLanes 0 = []
      | .barr _ _ _ _ => s.actLanes 0 = []
      | .btest _ _ _ _ => s.actLanes 0 = []
      | .tlbi _ _ => s.actLanes 0 = []
      | .tlbiAsid _ _ => s.actLanes 0 = []
      | .mcsld _ _ _ => s.actLanes 0 = []
      | .dist h _ _ _ => s.actLanes h.guard = []
      | _ => False) →
    ∃ t, exec i s = .next t ∧ s.Passes t i

/-- R134, R136: `bra` and `brx`. A slice whose lanes do not all go one way pushes the lanes that stay, with the full mask, and
goes on with those that take the branch; with no room on its stack a word whose packet ends within the code traps and no slice moves.

R134, R135: a slice whose lanes part at a `bra` comes back at its second `join` with the mask and the stack it had, having
run the taken lanes first. -/
def Obligations.BranchesDivergeAndJoin : Prop :=
  ((∀ (s : State) (h : Hdr) (o : BitVec 18), s.Settled → s.trapOf (.bra h o) = none →
    ∃ t, exec (.bra h o) s = .next t ∧ s.Steers t (.bra h o) (s.branched h.guard fun _ => s.cur.widx + o.signExtend 32)) ∧
  (∀ (s : State) (h : Hdr) (a : BitVec 6), s.Settled → s.trapOf (.brx h a) = none →
    ∃ t, exec (.brx h a) s = .next t ∧
      s.Steers t (.brx h a) (s.branched h.guard fun k => s.V a.toNat (4 * k + lowBit (s.act h.guard k)))) ∧
  ∀ (s : State) (h : Hdr) (o : BitVec 18) (k : Nat), s.Settled → s.screen (.bra h o) = none → s.endTrap (.bra h o) = none →
    s.badTarget (s.cur.widx + o.signExtend 32) = none → k ∈ s.cur.slices →
    s.act h.guard k ≠ 0 → s.act h.guard k ≠ (s.sl k).mask → (s.sl k).stack.length = 8 →
    ∃ ti, s.trapOf (.bra h o) = some ti ∧ ti.cause = 0x0A ∧ ti.rank = 7 ∧ ∀ w ∈ ti.who, w.tpc = s.cur.widx) ∧
  ∀ (s : State) (g : BitVec 3) (dst : Nat → Word) (k : Nat) (u v : State),
    s.act g k ≠ (s.sl k).mask → s.act g k ≠ 0 →
    ((u.sl k).mask, (u.sl k).stack, (u.sl k).pc) = s.branched g dst k →
    ((v.sl k).mask, (v.sl k).stack, (v.sl k).pc) = u.joined k →
    (u.sl k).mask = s.act g k ∧ (v.sl k).mask = (s.sl k).mask &&& ~~~(s.act g k) ∧ (v.sl k).pc = s.cur.widx + 1 ∧
      (v.joined k).1 = (s.sl k).mask ∧ (v.joined k).2.1 = (s.sl k).stack ∧ (v.joined k).2.2 = v.cur.widx + 1

/-- R135: `join` acts on the top entry of each issuing slice's stack. -/
def Obligations.JoinActsOnTheTop : Prop :=
  (∀ h : Hd0, (encode (.join h)).map (fun w => (w.extractLsb' 21 7, w.extractLsb' 0 21)) = [(0x41, 0)]) ∧
  ∀ (s : State) (h : Hd0), s.Settled → s.trapOf (.join h) = none →
    ∃ t, exec (.join h) s = .next t ∧ s.Steers t (.join h) s.joined

/-- R137, R217: `call` and `callx`, where the callee's window and the trap reserve fit beside the frames that stand in the ring:
each slice with a taking lane records its linkage, slides its window and goes to its target with its taking lanes, all under
one call instance, and each other slice goes on at the next word.

R137, R124, R222: a `call` is performed for the whole issuing set or not at all: where a spill it needs meets a translation
fault, no slice has moved and every slice is parked on the word with its taking lanes in `pmask`. -/
def Obligations.CallsEnterWhole : Prop :=
  ((∀ (s : State) (h : Hdr) (l : BitVec 3) (o : BitVec 15), s.Settled → s.trapOf (.call h l o) = none →
    s.fitsCall h.guard (8 * l.toNat) → ∃ t, exec (.call h l o) s = .next t ∧
      s.Called t (.call h l o) .call (8 * l.toNat) 1 (fun _ => none) fun _ => s.cur.widx + o.signExtend 32) ∧
  ∀ (s : State) (h : Hdr) (l : BitVec 3) (a : BitVec 6), s.Settled → s.trapOf (.callx h l a) = none →
    s.fitsCall h.guard (8 * l.toNat) → ∃ t, exec (.callx h l a) s = .next t ∧
      s.Called t (.callx h l a) .call (8 * l.toNat) 1 (fun _ => none) fun k => s.V a.toNat (4 * k + lowBit (s.act h.guard k))) ∧
  ∀ (s : State) (h : Hdr) (l : BitVec 3) (o : BitVec 15), s.Settled → s.trapOf (.call h l o) = none →
    ∃ t, exec (.call h l o) s = .next t ∧
      ((∀ k ∈ s.cur.slices, (t.sl k).park = none ∧
          if s.act h.guard k = 0 then (t.sl k).wdep = (s.sl k).wdep ∧ (t.sl k).pc = s.cur.widx + 1
          else (t.sl k).wdep = (s.sl k).wdep + 1 ∧ (t.sl k).pc = s.cur.widx + o.signExtend 32 ∧ (t.sl k).mask = s.act h.guard k) ∨
       (∃ id, ∀ k ∈ s.cur.slices, ((t.sl k).park.map Park.ids) = some [id] ∧ (t.sl k).pc = s.cur.widx ∧
          (t.sl k).pmask = laneWord k (s.act h.guard k) ∧ (t.sl k).frames = (s.sl k).frames ∧ (t.sl k).wb = (s.sl k).wb ∧
          (t.sl k).mask = (s.sl k).mask ∧ (t.sl k).dix = (s.sl k).dix))

/-- R141, R338, R343: `callv` whose table reads, where the callee fits: the slices with a taking lane enter the entry that the
selection gives, each with a variant block that holds the effective limits, and `vsel` says what was selected. With no taking
lane in the issuing set the word does nothing.

R344: a `callv` of a FROZEN table in device memory writes nothing: with the callee's frame fitting, all of memory stands as the
slices' earlier fences leave it. -/
def Obligations.CallvEntersItsChoice : Prop :=
  (∀ (s : State) (h : Hdr) (l o : BitVec 3) (va vb : BitVec 6) (sg : BitVec 3) (off : BitVec 29), s.Settled →
    s.trapOf (.callv h l o va vb sg off) = none →
    (s.actLanes h.guard = [] → ∃ t, exec (.callv h l o va vb sg off) s = .next t ∧
      ∀ k ∈ s.cur.slices, (t.sl k).pc = s.cur.widx + 2 ∧ (t.sl k).frames = (s.sl k).frames ∧ (t.sl k).mask = (s.sl k).mask) ∧
    (∀ x head c w lim, (s.chargeWord (.callv h l o va vb sg off) 0).fenced.vplan h o va vb sg off = .go x head c w lim → s.fitsCall h.guard (8 * l.toNat) →
      ∃ t, exec (.callv h l o va vb sg off) s = .next t ∧ ∀ k ∈ s.cur.slices,
        if s.act h.guard k = 0 then (t.sl k).pc = s.cur.widx + 2 ∧ (t.sl k).frames = (s.sl k).frames
        else (t.sl k).pc = w ∧ (t.sl k).mask = s.act h.guard k ∧ (t.sl k).frames.tail = (s.sl k).frames ∧
          (t.sl k).vsel = State.vselOf c ∧
          ∃ f v, (t.sl k).frames.head? = some f ∧ f.kind = .callv ∧ f.ret = s.cur.widx + 2 ∧ f.slide = 8 * l.toNat ∧
            f.mask = (s.sl k).mask ∧ f.vb = some v ∧ v.tb0 = BitVec.ofNat 32 lim.t ∧ v.eb0 = BitVec.ofNat 32 lim.e ∧
            v.qf = BitVec.ofNat 32 lim.q ∧ v.entry = c.entry ∧ v.reported = none ∧ v.frozen = head.frozen)) ∧
  ∀ (s : State) (h : Hdr) (l o : BitVec 3) (va vb : BitVec 6) (sg : BitVec 3) (off : BitVec 29) x head c w lim, s.Settled →
    s.trapOf (.callv h l o va vb sg off) = none →
    (s.chargeWord (.callv h l o va vb sg off) 0).fenced.vplan h o va vb sg off = .go x head c w lim →
    head.frozen = true → keySpace x.pa = devSpace → s.fitsCall h.guard (8 * l.toNat) →
    ∃ t, exec (.callv h l o va vb sg off) s = .next t ∧ ∀ a, Memory.read t.mem a = Memory.read s.fenced.mem a

/-- R138, R139, R148, R149, R151–R153, R179, R182: a word that waits completes by holding each of its slices at the word with its
wait; `dix` counts it only when the wait ends (R31).

R138, R218, R222, R225, R347: a slice at a `ret` of a spilled frame refills it and waits; where its refill meets a translation fault it
alone is parked on the word with its linkage mask, and where a record is refused the gang stops with reason 6. -/
def Obligations.WaitingWordsHold : Prop :=
  (∀ (s : State) (i : Instr) (w : Wait), s.waitOf i = some w → s.Settled → s.trapOf i = none →
    ∃ t, exec i s = .next t ∧ s.Holds t i w) ∧
  ∀ (s : State) (h : Hd0), s.Settled → s.trapOf (.ret h) = none → ∃ t, exec (.ret h) s = .next t ∧ ∀ k ∈ s.cur.slices,
    ((t.sl k).wait = some .ret ∧ (t.sl k).pc = s.cur.widx ∧ (t.sl k).dix = (s.sl k).dix ∧
        (t.sl k).frames.length = (s.sl k).frames.length ∧ ∃ f, (t.sl k).frames.head? = some f ∧ f.spilled = false) ∨
     (∃ id, ((t.sl k).park.map Park.ids) = some [id] ∧ (t.sl k).pc = s.cur.widx ∧
        (t.sl k).dix = (s.sl k).dix ∧ (t.sl k).frames = (s.sl k).frames ∧
        (t.sl k).pmask = laneWord k (((s.sl k).frames.head?.map Frame.mask).getD 0)) ∨
     (∃ st, t.me.stop = some st ∧ (s.me.stop = none → st.reason = 6) ∧ (t.sl k).frames = (s.sl k).frames)

/-- R140, R156, R213: `exit` ends the active lanes of its slices, `stepend` every lane of them; a gang whose last lane ends leaves the
module and counts as ended in its launch. A `stepend` is the case of slices none of whose releases has failed, and in a step of the Lock
of slices with nothing to release. -/
def Obligations.LanesEnd : Prop :=
  ∀ (s : State) (i : Instr), s.Settled → s.trapOf i = none →
    ((∃ h, i = .exit h) ∨ ∃ h, i = .stepend h ∧ (∀ k ∈ s.cur.slices, (s.sl k).failed = none) ∧
      (s.inStep = true → ∀ k ∈ s.cur.slices, (s.sl k).pend = [] ∧ s.dirtyOf (dieOfCore s.me.core) s.cur.gang k = [])) →
    ∃ t, exec i s = .next t ∧
      ((∃ k ∈ s.liveSlices s.cur.gang, k ∉ s.cur.slices ∨ (s.sl k).live &&& ~~~(s.ending i k) ≠ 0) →
        s.Charged t i ∧ (∀ k ∈ s.cur.slices, EndedSlice (s.ending i k) (s.cur.widx + 1) (s.sl k) (t.sl k) ∧
          ((s.sl k).live &&& ~~~(s.ending i k) ≠ 0 → (t.sl k).dix = (s.sl k).dix + 1)) ∧
        s.Keeps t (fun _ => []) [] [] (fun x => { x with
          mask := 0, live := 0, stack := [], frames := [], towPtr := 0, wait := none, park := none, levels := [], region := none,
          macroAt := none, rest := [] }) fun g => { g with instReports := [] }) ∧
      ((∀ k ∈ s.liveSlices s.cur.gang, k ∈ s.cur.slices ∧ (s.sl k).live &&& ~~~(s.ending i k) = 0) →
        t.gangs.find s.cur.gang = none ∧
        ∀ l, s.launches.find s.me.launch = some l → (t.launches.find s.me.launch).map Launch.ended = some (l.ended + 1))

/-- R143: `trap` retires, and then the slices with an active lane trap with cause 0x12, its immediate in `tinfo` and the next word
in `tpc`.

R144, R291, R295: `rft` of slices whose handler frame stands in the ring leaves the handler. That a slice whose park was released while
it was in the handler performs its word again, and does not park again, is the model's reading (log 29, DEDUCED). -/
def Obligations.HandlersAreLeft : Prop :=
  (∀ (s : State) (h : Hdr) (n : BitVec 12), s.Settled → s.trapOf (.trap h n) = none → s.actLanes h.guard ≠ [] →
    ∃ u ti, s.Passes u (.trap h n) ∧ ti.cause = 0x12 ∧ ti.imp = false ∧
      ti.who.map TrapSlice.slice = s.cur.slices.filter (fun k => decide (s.act h.guard k ≠ 0)) ∧
      (∀ w ∈ ti.who, w.lanes = s.act h.guard w.slice ∧ w.tinfo = n.zeroExtend 32 ∧ w.tinfo2 = 0 ∧ w.tpc = s.cur.widx + 1) ∧
      (u.MayEnter ti → ∃ t, exec (.trap h n) s = .next t ∧ u.Enters t ti)) ∧
  ∀ (s : State) (h : Hd0), s.Settled → s.trapOf (.rft h) = none →
    (∀ k ∈ s.cur.slices, ∃ f, (s.sl k).frames.head? = some f ∧ f.spilled = false) →
    ∃ t, exec (.rft h) s = .next t ∧ s.Charged t (.rft h) ∧
      (∀ k ∈ s.cur.slices, ∃ v, (s.sl k).levels.head? = some v ∧ ReturnedSlice s.me.ring k v (s.sl k) (t.sl k)) ∧
      s.Keeps t (fun _ => []) [] [] (fun x => { x with
        mask := 0, stack := [], frames := [], wb := 0, levels := [], region := none, park := none, rest := [], macroAt := none,
        reserve := false, stream := 0 }) fun g => { g with streamNo := 0 }

/-- R145, R294: `region` completes: each slice's region is its mask, its stack, the `dix` of the next word and the immediate, and
`tregion` counts and names that word.

R146: `hint` completes; a register its mask does not name keeps its value or becomes zero tagged RAW, every other stands, and
where a pre-emption of the context is pending the slice stops with the hint recorded.

R62, R157: `macro` completes by entering its microprogram: each slice stands at the word before operation 0, and goes on at the
next word when the microprogram ends.

R142, R346: `vqual` completes and reports the least of the lane words, at most 65535, in the frame that each slice stands in. -/
def Obligations.RegionsAndMarksAreKept : Prop :=
  (∀ (s : State) (h : Hd0) (n : BitVec 12), s.Settled → s.trapOf (.region h n) = none →
    ∃ t, exec (.region h n) s = .next t ∧ s.Advances t (.region h n) ∧
      (∀ k ∈ s.cur.slices, (t.sl k).region = some ⟨(s.sl k).mask, (s.sl k).stack, (s.sl k).dix + 1, n.toNat⟩ ∧
        (t.sl k).tregion.extractLsb' 0 24 = (s.cur.widx + 1).extractLsb' 0 24 ∧
        (t.sl k).tregion.extractLsb' 24 8 = (s.sl k).tregion.extractLsb' 24 8 + 1) ∧
      s.Keeps t (fun _ => []) [] [] fun x => { x with region := none, tregion := 0 }) ∧
  (∀ (s : State) (h : Hd0) (a : BitVec 6) (lo hi : Word), s.Settled → s.trapOf (.hint h a lo hi) = none →
    ∃ t, exec (.hint h a lo hi) s = .next t ∧ s.Advances t (.hint h a lo hi) ∧
      (∀ k ∈ s.cur.slices, ∀ n < 64,
        (t.stored k (s.storage k n) = s.stored k (s.storage k n) ∨
          ((hi ++ lo).getLsbD n = false ∧ t.stored k (s.storage k n) = Reg.zero))) ∧
      (∀ k ∈ s.cur.slices,
        if s.preempting s.me.asid then (t.sl k).halted = true ∧ (t.sl k).hint = some (hi ++ lo) ∧
          (∀ l, s.lowest 0 = some l → (t.sl k).hintBasin = s.V a.toNat l)
        else (t.sl k).halted = (s.sl k).halted ∧ (t.sl k).hint = (s.sl k).hint ∧ (t.sl k).hintBasin = (s.sl k).hintBasin) ∧
      s.Keeps t (fun _ => (List.range 64).filter fun n => !(hi ++ lo).getLsbD n) [] []
        fun x => { x with halted := false, hint := none, hintBasin := 0 }) ∧
  (∀ (s : State) (h : Hd0) (p a b c d : BitVec 6), s.Settled → s.trapOf (.macroOp h p a b c d) = none →
    ∃ t, exec (.macroOp h p a b c d) s = .next t ∧ s.Charged t (.macroOp h p a b c d) ∧
      (∀ k ∈ s.cur.slices, (t.sl k).macroAt = some (s.cur.widx, 0) ∧ (t.sl k).pc = s.cur.widx ∧ (t.sl k).next = s.cur.next ∧
        (t.sl k).dix = (s.sl k).dix) ∧
      s.Keeps t (fun _ => []) [] [] fun x => { x with macroAt := none }) ∧
  ∀ (s : State) (h : Hd0) (a : BitVec 6), s.Settled → s.trapOf (.vqual h a) = none → s.actLanes 0 ≠ [] →
    ∃ t q, exec (.vqual h a) s = .next t ∧ s.Advances t (.vqual h a) ∧
      (∀ l ∈ s.actLanes 0, q ≤ (s.V a.toNat l).toNat) ∧ q ≤ 0xFFFF ∧ (q = 0xFFFF ∨ ∃ l ∈ s.actLanes 0, q = (s.V a.toNat l).toNat) ∧
      (∀ k ∈ s.cur.slices, (t.sl k).frames = reported q (s.sl k).frames) ∧
      s.Keeps t (fun _ => []) [] [] fun x => { x with frames := [] }

/-- R147, R301: `dbrk` under a debugger retires and stops its gang with reason 1, the immediate and the next word in the stop record,
and every other gang of its quarter with reason 12.

R300, R301: an access of a watchpoint that stops performs in no lane: the gang stops with reason 3, the hit lanes and the address
of the lowest of them in the stop record, which names the first word of the chain that has not issued. -/
def Obligations.DebuggersStop : Prop :=
  (∀ (s : State) (h : Hd0) (n : BitVec 12), s.Settled → s.trapOf (.dbrk h n) = none → (s.ctx s.me.asid).debugger = true →
    s.me.stop = none → ∃ t st, exec (.dbrk h n) s = .next t ∧ t.me.stop = some st ∧ st.reason = 1 ∧ st.info = n.zeroExtend 32 ∧
      st.widx = s.cur.next ∧ s.Advances t (.dbrk h n) ∧ (∀ k ∈ s.cur.slices, (t.sl k).regs = (s.sl k).regs) ∧
      (∀ g y, g ≠ s.cur.gang → s.gangs.find g = some y → y.quarterId = s.me.quarterId → y.stop = none →
        ∃ z, (t.gang g).stop = some z ∧ z.reason = 12) ∧
      ((∀ g, (s.ctx (s.gang g).asid).dump = 0) → t.mem = s.mem)) ∧
  ∀ (s : State) (i : Instr) (e : BitVec 3) (a : BitVec 6) (n : Nat) (use : Use) (rd wr : Bool) (w : Watch),
    accessOf i = some (e, a, n, use, rd, wr) → s.Settled → s.trapOf i = none → s.me.stop = none →
    s.watchHit i.hdr.guard e a n rd wr = some w →
    ∃ t st, exec i s = .next t ∧ t.me.stop = some st ∧ st.reason = 3 ∧ st.widx = s.cur.chain ∧
      (∀ l < 32, st.hit.getLsbD l = true ↔
        (l ∈ s.actLanes i.hdr.guard ∧ w.va < (s.addressOf e a n l).1 + n ∧ (s.addressOf e a n l).1 < w.va + w.size)) ∧
      (s.cur.slices.Pairwise (· < ·) → ∀ l < 32, st.hit.getLsbD l = true → (∀ j < l, st.hit.getLsbD j = false) →
        st.addr = (s.addressOf e a n l).1) ∧
      ∀ k ∈ s.cur.slices, (t.sl k).regs = (s.sl k).regs ∧ (t.sl k).pend = (s.sl k).pend ∧ (t.sl k).pc = (s.sl k).pc ∧
        (t.sl k).dix = (s.sl k).dix ∧ (t.sl k).park = none

/-! ### Special registers and segments -/

/-- R53, R54, R154: `csrr` completes and delivers the special register to every active lane under the tag of Table 2-8, `ebud`
after the word's own charge (R378, DEDUCED); reading the low half of `cyc` or of `dix` latches its high half, and reading the
high half releases it. -/
def Obligations.SpecialRegistersRead : Prop :=
  ∀ (s : State) (h : Hdr) (d : BitVec 6) (n : BitVec 12), s.Settled → s.trapOf (.csrr h d n) = none →
    ∃ t, exec (.csrr h d n) s = .next t ∧
      s.Delivers t (.csrr h d n)
        (tagged d (if 0x010 ≤ n.toNat ∧ n.toNat ≤ 0x017 then .a64 else .u32) fun l =>
          let u := s.chargeWord (.csrr h d n) 0
          u.csrVal u.me (u.sl (l / 4)) l n.toNat)
        (fun x => { x with cycHi := none, dixHi := none }) ∧
      ∀ k ∈ s.cur.slices,
        (t.sl k).cycHi = (if n = 0x010 then some (s.cyc.extractLsb' 32 32) else if n = 0x011 then none else (s.sl k).cycHi) ∧
        (t.sl k).dixHi = (if n = 0x012 then some ((s.dixNow k (s.sl k)).extractLsb' 32 32) else if n = 0x013 then none
                          else (s.sl k).dixHi)

/-- R155, Table 5-9, R338, R339: `csrw` of a special register that it writes completes, and what a `csrr` then reads is the lowest
active lane's word, with the bits and bounds that the register allows; nothing else changes. The budgets are those after the
word's own charge (R378, DEDUCED).

R158: `segw` completes and writes the base or the limit of its segment from the lowest active lane, and no other segment. -/
def Obligations.SpecialRegistersWrite : Prop :=
  (∀ (s : State) (h : Hd0) (d : BitVec 6) (n : BitVec 12) (l : Nat), s.Settled → s.trapOf (.csrw h d n) = none →
    s.lowest 0 = some l → ∃ t, exec (.csrw h d n) s = .next t ∧ s.Advances t (.csrw h d n) ∧
      (∀ k ∈ s.cur.slices, ∀ w, (s.chargeWord (.csrw h d n) 0).csrWritten k n.toNat (s.V d.toNat l) = some w →
        t.csrVal t.me (t.sl k) (4 * k) n.toNat = w) ∧
      s.Keeps t (fun _ => []) [] [] (csrOfSlice n.toNat) (csrOfGang n.toNat)) ∧
  (∀ (s : State) (h : Hd0) (a : BitVec 6) (e : BitVec 3) (l : Nat), s.Settled → s.trapOf (.segwBase h a e) = none →
    s.lowest 0 = some l → ∃ t, exec (.segwBase h a e) s = .next t ∧ s.Advances t (.segwBase h a e) ∧
      t.me.seg e.toNat = { s.me.seg e.toNat with base := s.V64 a.toNat l } ∧
      (∀ n, n ≠ e.toNat → t.me.seg n = s.me.seg n) ∧ s.Keeps t (fun _ => []) [] [] id fun g => { g with segs := [] }) ∧
  ∀ (s : State) (h : Hd0) (a : BitVec 6) (e : BitVec 3) (l : Nat), s.Settled → s.trapOf (.segwLimit h a e) = none →
    s.lowest 0 = some l → ∃ t, exec (.segwLimit h a e) s = .next t ∧ s.Advances t (.segwLimit h a e) ∧
      t.me.seg e.toNat = { s.me.seg e.toNat with limit := s.V64 a.toNat l } ∧
      (∀ n, n ≠ e.toNat → t.me.seg n = s.me.seg n) ∧ s.Keeps t (fun _ => []) [] [] id fun g => { g with segs := [] }

/-! ### Words that access memory -/

/-- R57, R58, R164, R224: the address of a lane, and the fault of the lowest active lane whose address is a segment fault or is not
a multiple of the access size: `tmask` holds every lane that fails either check, and no lane performs (`TrapsAreTaken`).

R164, R165, R391: of a word that accesses memory the lanes that translate perform; a slice with a lane that does not is parked on
the word with those lanes in `pmask`, and the word counts in `dix` for the others alone. -/
def Obligations.AccessesAreCheckedAndPark : Prop :=
  (∀ (s : State) (i : Instr) (e : BitVec 3) (a : BitVec 6) (n : Nat) (use : Use) (rd wr : Bool),
    accessOf i = some (e, a, n, use, rd, wr) →
    (∀ l, s.laneAddr e a n l = s.addressOf e a n l) ∧
    ∀ l, s.screen i = none → s.endTrap i = none → (s.actLanes i.hdr.guard).find? (s.addressFails e a n) = some l →
      ∃ ti, s.trapOf i = some ti ∧ ti.rank = 7 ∧ ti.cause = (if (s.addressOf e a n l).2 then 0x06 else 0x07) ∧
        ti.who.map TrapSlice.slice = s.cur.slices.filter (fun k =>
          decide (nibOf (fun j => nib (s.act i.hdr.guard k) j && s.addressFails e a n (4 * k + j)) ≠ 0)) ∧
        ∀ w ∈ ti.who, w.tpc = s.cur.chain ∧ w.lanes = nibOf (fun j =>
            nib (s.act i.hdr.guard w.slice) j && s.addressFails e a n (4 * w.slice + j)) ∧
          w.tinfo.toNat + 2 ^ 32 * w.tinfo2.toNat = (s.addressOf e a n (4 * w.slice + lowBit w.lanes)).1) ∧
  ∀ (s : State) (i : Instr) (e : BitVec 3) (a : BitVec 6) (n : Nat) (use : Use) (rd wr : Bool),
    accessOf i = some (e, a, n, use, rd, wr) → s.Settled → s.trapOf i = none → s.watchHit i.hdr.guard e a n rd wr = none →
    ∃ t, exec i s = .next t ∧ s.Charged t i ∧ ∀ k ∈ s.cur.slices,
      if s.missing i.hdr.guard e a n use k = 0 then
        (t.sl k).park = none ∧ (t.sl k).pc = s.cur.next ∧ (t.sl k).dix = (s.sl k).dix + 1
      else (∃ p, (t.sl k).park = some p ∧ p.widx = s.cur.widx ∧ p.pmask = s.missing i.hdr.guard e a n use k ∧ p.ids ≠ []) ∧
        (t.sl k).pc = s.cur.widx ∧ (t.sl k).pmask = laneWord k (s.missing i.hdr.guard e a n use k) ∧
        (t.sl k).dix = (s.sl k).dix

/-- R170, R171, R178, R168: a load or `srd` delivers in the lanes that perform what their reads return, with the extension and the
tag of the word, poisoned where a memory word was; where every lane performs, no access counts, and no slice has an access under way to an item that
lanes of two slices read (which is taken first, so that both receive the same: R167), nothing else changes but copies, and without poison, and no dirty word for the aqueduct to give up, all of memory stands. For `srd`, no slice has an older access of the cells under way.

R240, R242: what a Fetch of `n` bytes returns. It changes no byte of memory unless the aqueduct gives up dirty words for the line; a slice's own youngest store of exactly those bytes
is what it reads back; where no store of the slice is pending and no copy stands nearer, it returns the bytes of their home. -/
def Obligations.LoadsDeliver : Prop :=
  (∀ (s : State) (i : Instr) (e : BitVec 3) (a : BitVec 6) (n : Nat), accessOf i = some (e, a, n, .read, true, false) → s.Settled →
    s.trapOf i = none → s.watchHit i.hdr.guard e a n true false = none →
    (n = 32 → ∀ k ∈ s.cur.slices, (s.sl k).pend = []) →
    let ps := s.placesOf i.hdr.guard e a n .read
    let vs := s.gotBy i ps
    let bad (k : Nat) : BitVec 4 := nibOf fun j => vs.any fun v => v.lane == 4 * k + j && v.bad
    ∃ t, exec i s = .next t ∧
      s.Receives t (s.reaching i.hdr.guard e a n .read) bad (fun _ => (loadInto i).map fun (r, f, tg) =>
        ⟨r, fun l => f (((vs.find? fun v => v.lane == l).map LaneGot.val).getD 0), tg⟩) ∧
      s.KeepsOn t ((loadInto i).map Prod.fst) ∧
      ((∀ k ∈ s.cur.slices, s.missing i.hdr.guard e a n .read k = 0) → (∀ p ∈ ps, p.2.counted = false) →
        ((∃ h d t, i = .ldc h d a t) ∨ (∃ h d t, i = .ldt h d a e t) ∨ ∀ k ∈ s.cur.slices, (s.begun i).contests ps k = false) →
        s.Keeps t (fun _ => (loadInto i).map Prod.fst) [] [] id id State.apart ∧
        ((∀ k ∈ s.cur.slices, bad k = 0) → s.CleanAq (dieOfCore s.me.core) → t.mem = s.mem))) ∧
  ∀ (s : State) (g k : Nat) (p : Place) (n : Nat), 0 < n → (∀ q ∈ (s.slice g k).pend, q.isRmw = false) →
    (s.CleanAq (dieOfCore (s.gang g).core) → (s.fetch g k p n true).st.mem = s.mem) ∧
    (∀ r q, (s.slice g k).pend = r ++ [q] → q.kind = .store → q.pa = p.pa → q.size = n →
      (s.fetch g k p n true).val = q.data % 2 ^ (8 * n)) ∧
    ((s.slice g k).pend = [] → (∀ b, p.pa ≤ b → b < p.pa + n →
        (s.core (s.gang g).core).l1.find (b / 4) = none ∧ (s.die (dieOfCore (s.gang g).core)).aq.find (b / 4) = none) →
      (s.fetch g k p n true).val = s.homeRead p.pa p.kid n)

/-- R172–R177, R241: where every lane translates, a store or an RMW appends to the pending buffer of each slice one entry for each lane
that performs, in lane order, with the address of that lane and what it writes; it changes no register, and no byte of memory: the
bytes land with the entry (`PendingEntriesLand`). Where some lane does not translate, the slices' entries are brought to their
home before the fault record (R389), and nothing else changes but the data register of an RMW, whose result has returned. -/
def Obligations.StoresArePending : Prop :=
  ∀ (s : State) (i : Instr) (e : BitVec 3) (a : BitVec 6) (n : Nat) (rd : Bool) (kind : PendKind) (d : BitVec 6),
    accessOf i = some (e, a, n, .write, rd, true) → pendingOf i = some (kind, d) → s.Settled → s.trapOf i = none →
    s.watchHit i.hdr.guard e a n rd true = none →
    ∃ t, exec i s = .next t ∧ s.KeepsOn t (if kind = .store ∨ kind = .asum then [] else [d.toNat]) ∧
      ((∀ k ∈ s.cur.slices, s.missing i.hdr.guard e a n .write k = 0) →
        (∀ k ∈ s.cur.slices, (t.sl k).pend.map (fun p => { p with counted := false, stamp := 0 }) =
          ((s.sl k).pend.map fun p => { p with counted := false, stamp := 0 }) ++
            ((s.placesOf i.hdr.guard e a n .write).filter fun p => p.1 / 4 == k).map fun p => s.entryOf kind d n p.1 p.2) ∧
        s.Keeps t (fun _ => []) [] [] (fun x => { x with pend := [] }) id State.apart ∧ t.mem = s.mem)

/-- R179, R246, R247, R249: the fences. An acquire leaves in the core's L1 the words that the gang itself wrote, and in its die's
aqueduct no clean peer word; a release stands behind the older entries of each slice; `fence.acqrel` completes the release first;
`fence.path` empties the path caches that its mask names. Only a release that completes changes memory. -/
def Obligations.FencesOrder : Prop :=
  (∀ (s : State) (h : Hd0), s.Settled → s.trapOf (.fenceAcq h) = none →
    ∃ t, exec (.fenceAcq h) s = .next t ∧ s.Advances t (.fenceAcq h) ∧ t.mem = s.mem ∧
      s.Keeps t (fun _ => []) [] [] id id State.apart ∧ s.KeepsUnits t ∧
      (∀ x, x ∈ (t.core s.me.core).l1 ↔ x ∈ (s.core s.me.core).l1 ∧ x.2.owner = some s.cur.gang) ∧
      ∀ x ∈ (t.die (dieOfCore s.me.core)).aq, keySpace (4 * x.1) = peerSpace → x.2.dirty ≠ 0 ∧ x.2.kept = x.2.dirty) ∧
  (∀ (s : State) (h : Hd0), s.Settled → s.trapOf (.fenceRel h) = none →
    ∃ t, exec (.fenceRel h) s = .next t ∧ s.Advances t (.fenceRel h) ∧
      s.Keeps t (fun _ => []) [] [] (fun x => { x with pend := [] }) ∧
      ∀ k ∈ s.cur.slices, ∃ p, (t.sl k).pend = (s.sl k).pend ++ [p] ∧ p.kind = .release ∧ p.widx = s.cur.widx.toNat) ∧
  (∀ (s : State) (h : Hd0), s.Settled → s.trapOf (.fenceAcqrel h) = none →
    ∃ t, exec (.fenceAcqrel h) s = .next t ∧ s.Advances t (.fenceAcqrel h) ∧
      t.mem = ((s.begun (.fenceAcqrel h)).released).mem ∧
      (∀ k ∈ s.cur.slices, (t.sl k).pend = [] ∧ (t.sl k).regs = ((s.begun (.fenceAcqrel h)).released.sl k).regs) ∧
      ∀ x ∈ (t.core s.me.core).l1, x.2.owner = some s.cur.gang) ∧
  ∀ (s : State) (h : Hd0) (m : BitVec 2), s.Settled → s.trapOf (.fencePath h m) = none →
    ∃ t, exec (.fencePath h m) s = .next t ∧ s.Advances t (.fencePath h m) ∧ t.mem = s.mem ∧
      s.Keeps t (fun _ => []) [] [] id id State.apart ∧ s.KeepsUnits t ∧
      (t.core s.me.core).l1 = (s.core s.me.core).l1 ∧
      (t.core s.me.core).pc = (if m.getLsbD 0 then [] else (s.core s.me.core).pc) ∧
      (t.core s.me.core).pt = (if m.getLsbD 1 then [] else (s.core s.me.core).pt)

/-- R159, R364, R365: an invalidation completes with no covered entry in its cluster's TLB, every other entry and every other
cluster's TLB as they were, and no line of the cluster's L1s that a covered entry may have brought (log 21); with no pending entry and no dirty word in the module it
changes nothing else.

R60, R61, R160: `mcsld` loads the 32 operations it reads; where it refuses one, the microprogram is invalid and the word traps as
illegal; where a page of them does not translate, every slice is parked on the word. That the address is the lowest active lane's, cut to
57 bits, and that the whole set is parked under one id, is the model's choice (log 65). -/
def Obligations.InvalidationsAndLoadsComplete : Prop :=
  (∀ (s : State) (i : Instr) (v : InvScope), s.scopeOf i = some v → s.Settled → s.trapOf i = none →
    ∃ t, exec i s = .next t ∧ (∀ k ∈ s.cur.slices, (t.sl k).pc = s.cur.next ∧ (t.sl k).dix = (s.sl k).dix + 1) ∧
      (∀ e, e ∈ t.tlb (clusterOfCore s.me.core) ↔ e ∈ s.tlb (clusterOfCore s.me.core) ∧
        ¬((v.scope = 0 ∧ e.asid = v.asid ∧ e.va ≤ v.va ∧ v.va < e.va + e.size) ∨ (v.scope = 1 ∧ e.asid = v.asid) ∨ 2 ≤ v.scope)) ∧
      (∀ c, c ≠ clusterOfCore s.me.core → t.tlb c = s.tlb c) ∧
      (∀ c x, clusterOfCore c = clusterOfCore s.me.core → x ∈ (t.core c).l1 →
        v.covers v.asid x.2.va = false) ∧
      ((∀ g k, (s.slice g k).pend = []) → (∀ d, ∀ x ∈ (s.die d).aq, x.2.dirty = 0) →
        t.mem = s.mem ∧ s.Keeps t (fun _ => []) [] [] id id State.apart)) ∧
  ∀ (s : State) (h : Hd0) (a p : BitVec 6) (l : Nat), s.Settled → s.trapOf (.mcsld h a p) = none → s.lowest 0 = some l →
    (s.core s.me.core).loading.keys.Pairwise (· < ·) →
    (∀ ps, (s.begun (.mcsld h a p)).readOps ((s.V64 a.toNat l).toNat % 2 ^ 57) 32 = .ok ps →
      let os := ((s.begun (.mcsld h a p)).loadOps (l / 4) ps).2
      ∃ t, exec (.mcsld h a p) s = .next t ∧
        if os.any opRefused then
          t.micro s.me.core p.toNat = ⟨false, os⟩ ∧
          (s.MayEnter (s.trapAll 7 0x02 s.cur.chain 0) → ∀ k ∈ s.entering (s.trapAll 7 0x02 s.cur.chain 0),
            EnteredSlice s.me (s.trapAll 7 0x02 s.cur.chain 0) k (s.sl k) (t.sl k))
        else t.micro s.me.core p.toNat = ⟨true, os⟩ ∧ s.Advances t (.mcsld h a p)) ∧
    (∀ x, (s.begun (.mcsld h a p)).readOps ((s.V64 a.toNat l).toNat % 2 ^ 57) 32 = .error x →
      ∃ t id, exec (.mcsld h a p) s = .next t ∧ t.micro s.me.core p.toNat = s.micro s.me.core p.toNat ∧
        ∀ k ∈ s.cur.slices, ((t.sl k).park.map Park.ids) = some [id] ∧ (t.sl k).pc = s.cur.widx ∧ (t.sl k).dix = (s.sl k).dix)

/-! ### Pounds -/

/-- R150, R313: `qpush` of a declared pound whose places translate gives items to the lowest active lanes up to the free places,
advances the tail, and sets its predicate in those lanes; the items lie in the ring in lane order, and where no place is host memory
(whose line is gained first, R234) nothing outside their 16-byte places is written but what the release before it writes.

R150, R313, R168: `qpop` of a declared pound whose places translate gives the oldest items to the lowest active lanes, in order, in
four registers tagged RAW, with the poisoned-value marker for a poisoned word; it advances the head and sets its predicate in those
lanes; without a poisoned word it changes no byte of memory. -/
def Obligations.PoundsFillAndEmpty : Prop :=
  (∀ (s : State) (h : Hdr) (a : BitVec 6) (p n : BitVec 3) (d : PoundDesc) (c : Pound) (xs : List Xlat), s.Settled →
    s.Canonical → s.trapOf (.qpush h a p n) = none → s.poundOf n.toNat = some (d, c) →
    let u := s.begun (.qpush h a p n)
    let ls := (s.actLanes h.guard).take (d.cap - (c.tail - c.head))
    u.ringItems s.me.asid s.me.reach (clusterOfCore s.me.core) d .write c.tail ls.length = .ok xs →
    ∃ t, exec (.qpush h a p n) s = .next t ∧
      (∀ k ∈ s.cur.slices, (t.sl k).pc = s.cur.next ∧ (t.sl k).dix = (s.sl k).dix + 1 ∧ (t.sl k).pend = []) ∧
      (t.launch s.me.launch).pounds.find n.toNat = some { c with tail := c.tail + ls.length } ∧
      (p ≠ 0 → ∀ l < 32, (t.predWord p.toNat).getLsbD l =
        if l ∈ s.actLanes h.guard then decide (l ∈ ls) else (s.predWord p.toNat).getLsbD l) ∧
      ((∀ x ∈ xs, keySpace x.pa ≠ hostSpace) →
        ∀ b : Nat, (∀ x ∈ xs, b < x.pa / 16 * 16 ∨ (x.pa + 15) / 16 * 16 + 16 ≤ b) → Memory.read t.mem b = Memory.read u.released.mem b) ∧
      ∀ (j : Nat) (x : Xlat) (l : Nat), xs[j]? = some x → ls[j]? = some l →
        (∀ (m : Nat) (y : Xlat), xs[m]? = some y → m ≠ j →
          (y.pa + 15) / 16 * 16 + 16 ≤ x.pa / 16 * 16 ∨ (x.pa + 15) / 16 * 16 + 16 ≤ y.pa / 16 * 16) →
        t.homeRead x.pa x.kid 16 = (s.V a.toNat l).toNat + 2 ^ 32 * (s.V (a.toNat + 1) l).toNat +
          2 ^ 64 * (s.V (a.toNat + 2) l).toNat + 2 ^ 96 * (s.V (a.toNat + 3) l).toNat) ∧
  ∀ (s : State) (h : Hdr) (d : BitVec 6) (p n : BitVec 3) (q : PoundDesc) (c : Pound) (xs : List Xlat), s.Settled →
    s.trapOf (.qpop h d p n) = none → s.poundOf n.toNat = some (q, c) →
    let u := s.begun (.qpop h d p n)
    let ls := (s.actLanes h.guard).take (c.tail - c.head)
    u.ringItems s.me.asid s.me.reach (clusterOfCore s.me.core) q .read c.head ls.length = .ok xs →
    ∃ t, exec (.qpop h d p n) s = .next t ∧ s.Advances t (.qpop h d p n) ∧
      ((∀ x ∈ xs, s.poisoned x.pa 16 = false) → t.mem = s.mem) ∧
      (t.launch s.me.launch).pounds.find n.toNat = some { c with head := c.head + ls.length } ∧
      (p ≠ 0 → ∀ l < 32, (t.predWord p.toNat).getLsbD l =
        if l ∈ s.actLanes h.guard then decide (l ∈ ls) else (s.predWord p.toNat).getLsbD l) ∧
      (∀ (j : Nat) (x : Xlat) (l : Nat), xs[j]? = some x → ls[j]? = some l → ∀ i < 4,
        (t.stored (l / 4) (s.storage (l / 4) (d.toNat + i))).lane (l % 4) =
            BitVec.ofNat 32 (if s.poisoned (x.pa + 4 * i) 4 then Config.poisonedValue else s.homeRead x.pa x.kid 16 / 2 ^ (32 * i)) ∧
          nib (t.stored (l / 4) (s.storage (l / 4) (d.toNat + i))).poison (l % 4) = s.poisoned (x.pa + 4 * i) 4 ∧
          (t.stored (l / 4) (s.storage (l / 4) (d.toNat + i))).tag = .raw) ∧
      (∀ l ∈ s.issLanes, l ∉ ls → ∀ i < 4, (t.stored (l / 4) (s.storage (l / 4) (d.toNat + i))).lane (l % 4) =
        (s.stored (l / 4) (s.storage (l / 4) (d.toNat + i))).lane (l % 4)) ∧
      s.Keeps t (fun _ => (List.range 4).map (d.toNat + ·)) [p.toNat] [] id id fun s => { s.apart with launches := [] }

/-! ### Words of the engines -/

/-- R182, R184, R185, R189, R194, R195, R251, R253: a command that finds room forks one thread for each of its records, after a release
of its slices, each with the record and the barrier it counts on; `kick` gives every active lane a promise at least 64 cycles
from now, tagged A64. -/
def Obligations.CommandsFork : Prop :=
  ∀ (s : State) (i : Instr) (kind : ThreadKind) (rs : List (List Byte × Nat)), (s.begun i).commandOf i = some (kind, rs) →
    s.Settled → s.trapOf i = none → s.room i = true →
    ∃ t, exec i s = .next t ∧ t.threadNo = s.threadNo + rs.length ∧
      (∀ k ∈ s.cur.slices, (t.sl k).pc = s.cur.next ∧ (t.sl k).dix = (s.sl k).dix + 1 ∧ (t.sl k).pend = [] ∧
        (t.sl k).forked = (s.sl k).forked ++ s.newThreads rs.length) ∧
      (∀ n x, rs[n]? = some x → ∃ y, t.threads.find (s.threadNo + n) = some y ∧ y.kind = kind ∧ y.record = x.1 ∧ y.barrier = x.2 ∧
        y.gang = s.cur.gang ∧ y.launch = s.me.launch ∧ y.asid = s.me.asid ∧ y.core = s.me.core ∧ y.widx = s.cur.widx.toNat ∧
        y.index = n ∧ y.earlier = s.newThreads n ∧ y.ended = none ∧ y.fired = false ∧ y.started = s.now) ∧
      (∀ m, m < s.threadNo → t.threads.find m = s.threads.find m) ∧
      (∀ h d a b, i = .kick h d a b → ∀ l ∈ s.actLanes 0,
        ∃ v, s.now + 64 ≤ v ∧ (t.stored (l / 4) (s.storage (l / 4) d.toNat)).tag = .a64 ∧
          (t.stored (l / 4) (s.storage (l / 4) d.toNat)).lane (l % 4) = BitVec.ofNat 32 v ∧
          (t.stored (l / 4) (s.storage (l / 4) (d.toNat + 1))).lane (l % 4) = BitVec.ofNat 32 (v / 2 ^ 32)) ∧
      (kind ≠ .barge → ∀ k ∈ s.cur.slices, (t.sl k).regs = (s.sl k).regs)

/-- R186, R203: `binit` completes: the barrier holds what its operand says and nothing is pending, its launch is recorded, and no
other byte of memory changes.

R187, R260: `barr` completes as one update: bytes are added and arrivals counted, and where that leaves neither bytes nor
arrivals the phase flips, the arrivals are reloaded and, without a fault, the stamp is the cycle. A `barr` with arrivals releases
first. A refused arrival leaves a fault in the barrier, and no other change to it.

R188: `btest` completes and gives every active lane the field of the barrier, tagged U32. -/
def Obligations.BarriersAreKept : Prop :=
  (∀ (s : State) (h : Hd0) (d a : BitVec 6) (n v : Nat), s.Settled → s.Canonical → s.trapOf (.binit h d a) = none →
    s.operand d = some n → s.operand a = some v →
    ∃ t, exec (.binit h d a) s = .next t ∧ s.Advances t (.binit h d a) ∧
      t.barrier s.me.core n = { pending := 0, expect := v % 2 ^ 16, remain := v % 2 ^ 16, group := v / 2 ^ 16 % 2 ^ 8, fault := false,
                                armed := true, phase := false, stamp := s.cyc.extractLsb' 0 32 } ∧
      (t.core s.me.core).barrierLaunch.find n = some s.me.launch ∧
      (∀ b, b < barrierKey s.me.core n ∨ barrierKey s.me.core n + 16 ≤ b → Memory.read t.mem b = Memory.read s.mem b) ∧
      s.Keeps t (fun _ => []) [] [] id id fun s => { s with mem := [], cores := [] }) ∧
  (∀ (s : State) (h : Hd0) (d a b : BitVec 6) (n bytes k : Nat), s.Settled → s.Canonical →
    s.trapOf (.barr h d a b) = none →
    s.operand d = some n → s.operand a = some bytes → s.operand b = some k →
    let u := if k = 0 then s.begun (.barr h d a b) else (s.begun (.barr h d a b)).released
    let x := u.barrier s.me.core n
    ∃ t, exec (.barr h d a b) s = .next t ∧
      (if (k = 0 ∨ s.memberOf s.me n = true) ∧ x.pending + bytes < 2 ^ 32 ∧ k ≤ x.remain then
        (∀ j ∈ s.cur.slices, (t.sl j).pc = s.cur.next ∧ (t.sl j).dix = (s.sl j).dix + 1) ∧
        (∀ m, m < barrierKey s.me.core n ∨ barrierKey s.me.core n + 16 ≤ m → Memory.read t.mem m = Memory.read u.mem m) ∧
        (if (0 < bytes ∨ 0 < k) ∧ x.pending + bytes = 0 ∧ x.remain = k then
           t.barrier s.me.core n = { x with phase := !x.phase, pending := 0, remain := x.expect,
                                            stamp := if x.fault then x.stamp else BitVec.ofNat 32 s.now }
         else t.barrier s.me.core n = { x with pending := x.pending + bytes, remain := x.remain - k })
      else (k = 0 ∨ s.memberOf s.me n = true) → s.MayEnter (s.barrierTrap n) → s.roomy (s.barrierTrap n) →
        t.barrier s.me.core n = { x with fault := true, stamp := if x.fault then x.stamp else 4 }) ∧
      (k ≠ 0 → s.memberOf s.me n = false → s.MayEnter (s.barrierTrap n) → s.roomy (s.barrierTrap n) →
        let y := s.barrier s.me.core n
        t.barrier s.me.core n = { y with fault := true, stamp := if y.fault then y.stamp else 3 })) ∧
  ∀ (s : State) (h : Hd0) (d a f : BitVec 6) (n : Nat), s.Settled → s.trapOf (.btest h d a f) = none → s.operand a = some n →
    let x := s.barrier s.me.core n
    ∃ t, exec (.btest h d a f) s = .next t ∧ s.Delivers t (.btest h d a f) (tagged d .u32 fun _ =>
      if f = 0 then (if x.phase then 1 else 0) else if f = 1 then BitVec.ofNat 32 x.pending
      else if f = 2 then BitVec.ofNat 32 (x.remain + 2 ^ 16 * x.expect)
      else if f = 3 then BitVec.ofNat 32 (256 * x.group + (if x.fault then 4 else 0) + (if x.armed then 2 else 0) + if x.phase then 1 else 0)
      else x.stamp)

/-- R190, R191, R168: `legal` and `dist` complete: each active lane receives the word of its state and index, or zero beyond the table; or
the distance of its row. A lane is poisoned, and holds the poisoned-value marker, where a Basin word that it read was. -/
def Obligations.BasinTablesAnswer : Prop :=
  ∀ (s : State) (i : Instr) (rs : Nat → List Result), (s.begun i).basinResults i = some rs → s.Settled → s.trapOf i = none →
    ∃ t, exec i s = .next t ∧ s.Receives t (fun k => s.act i.hdr.guard k) ((s.begun i).basinBad i) rs ∧
      s.Advances t i ∧ s.Keeps t (fun k => (rs k).map Result.reg) [] [] id id State.apart ∧
      ((∀ k ∈ s.cur.slices, (s.begun i).basinBad i k = 0) → t.mem = s.mem)

/-- R196–R199, R165: a manifest word performs in ascending lane order what its lanes do, gives `mfrd` and `mfop.append` their results
under the tag U32, poisoned where the word read was (R168), and parks a slice with a lane whose places do not translate; where none does, memory is what the lanes
leave.

R199, Table 15-2: `mfop.finish` and `mfop.fault` give bits 3:0 of STATE 4 and 5, `.finish` the reason in bits 23:16 and bit 13, and
leave every other bit; the first that reaches a manifest stands: in a state that is finished or faulted a lane changes
nothing. -/
def Obligations.ManifestWordsPerform : Prop :=
  (∀ (s : State) (i : Instr) (h : Hdr) (f : MfLane) (kind : Nat), manifestOf i = some (h, f, kind) → s.Settled → s.trapOf i = none →
    let r := (s.begun i).mfLanes f (s.actLanes h.guard)
    ∃ t, exec i s = .next t ∧
      (∀ k ∈ s.cur.slices, if ∀ x ∈ r.2.2, x.1 / 4 ≠ k then
          (t.sl k).park = none ∧ (t.sl k).pc = s.cur.next ∧ (t.sl k).dix = (s.sl k).dix + 1
        else (t.sl k).park.isSome = true ∧ (t.sl k).pc = s.cur.widx ∧ (t.sl k).dix = (s.sl k).dix) ∧
      (r.2.2 = [] → t.mem = r.1.mem) ∧
      (∀ d, manifestInto i = some d → ∀ x ∈ r.2.1, (t.stored (x.1 / 4) (s.storage (x.1 / 4) d.toNat)).lane (x.1 % 4) = x.2.1 ∧
        nib (t.stored (x.1 / 4) (s.storage (x.1 / 4) d.toNat)).poison (x.1 % 4) = x.2.2 ∧
        (t.stored (x.1 / 4) (s.storage (x.1 / 4) d.toNat)).tag = .u32) ∧
      (∀ d a, i = .mfopAppend h d a → h.guard ≠ 0 → ∀ x ∈ r.2.1, x.2.1 = 0xFFFFFFFF →
        (t.predWord h.guard.toNat).getLsbD x.1 = false) ∧
      s.KeepsOn t ((manifestInto i).toList.map BitVec.toNat) (if kind = 3 ∧ (manifestInto i).isSome then [h.guard.toNat] else [])
        fun s => { s.apart with locks := [] }) ∧
  (∀ v r : Nat, v < 2 ^ 32 → bitsOf (finishState v r) 0 4 = 4 ∧ bitOf (finishState v r) 13 = true ∧ bitsOf (finishState v r) 16 8 = r % 256 ∧
    ∀ n, 4 ≤ n → n < 32 → n ≠ 13 → ¬(16 ≤ n ∧ n < 24) → bitOf (finishState v r) n = bitOf v n) ∧
  (∀ v : Nat, bitsOf (setSt v 5) 0 4 = 5 ∧ ∀ n, 4 ≤ n → bitOf (setSt v 5) n = bitOf v n) ∧
  ∀ (s : State) (d a : BitVec 6) (fault : Bool) (l i m : Nat) (st f : Place), s.mfIndex a l = .ok (i, m) →
    s.mfField m 0 .write l = .ok st → s.mfField m 14 .write l = .ok f → (s.sl (l / 4)).pend = [] →
    (s.homeWord st % 16 = 4 ∨ s.homeWord st % 16 = 5) → State.mfEnd d a fault s l = .ok (s, 0, false)

/-! ### Moves of the ordering machine -/

/-- R242, R243, R173–R177, R241: the oldest entry of its kind that no older release or overlapping entry holds back, and no lane of its
word that comes before it, leaves the pending buffer. A store's bytes stand at their home, or dirty in the die's aqueduct where the
home is the host's or a peer's, and no byte outside them changes; an RMW leaves what its operation makes of the bytes it reads and
returns those bytes, under the tag of its data; what else of memory it changes is stated where no word that it reads carries an
uncorrectable error (an error is logged in a record: log 69). The statement is of a page that does not count accesses. -/
def Obligations.PendingEntriesLand : Prop :=
  (∀ (s : State) (g k : Nat) (older rest : List Pend) (q : Pend), movable Pend.isStore (s.slice g k).pend = some (older, q, rest) →
    s.laneBlocked g k q = false → q.counted = false → q.size = 1 ∨ q.size = 2 ∨ q.size = 4 ∨ q.size = 8 → q.pa % q.size = 0 →
    s.Canonical →
    ∃ t, exec (.moveRegister g k) s = .next t ∧ t.gangs = (s.without g k (older ++ rest)).gangs ∧
      (if keySpace q.pa = hostSpace ∨ keySpace q.pa = peerSpace then
        (∀ i < q.size, t.belowL1 (dieOfCore (s.gang g).core) false (q.pa + i) q.kid = BitVec.ofNat 8 (q.data / 2 ^ (8 * i))) ∧
          (keySpace q.pa = peerSpace → s.CleanAq (dieOfCore (s.gang g).core) → t.mem = s.mem)
      else t.homeRead q.pa q.kid q.size = q.data % 2 ^ (8 * q.size) ∧
        ∀ b, outside q.pa q.size b → Memory.read t.mem b = Memory.read s.mem b)) ∧
  ∀ (s : State) (g k : Nat) (older rest : List Pend) (q : Pend), movable Pend.isRmw (s.slice g k).pend = some (older, q, rest) →
    s.laneBlocked g k q = false → q.counted = false →
    (if q.kind = .asum then q.size = 32 ∧ q.pa % 32 = 0 else q.size = 4 ∧ q.pa % 4 = 0) → s.Canonical →
    let die := dieOfCore (s.gang g).core
    let r := (s.without g k (older ++ rest)).atomicRead die (q.place (s.gang g).asid) q.size
    (keySpace q.pa = devSpace ∨ keySpace q.pa = basinSpace → r.2 = s.homeRead q.pa q.kid q.size ∧ r.1.mem = s.mem) ∧
    ∃ t, exec (.moveAtomic g k) s = .next t ∧
      ((∀ w ∈ State.wordsOf q.pa q.size, s.wordBad die w = false) → if keySpace q.pa = hostSpace then
        (s.CleanAq die → t.mem = r.1.mem) ∧ ∀ i < q.size, t.belowL1 die true (q.pa + i) q.kid = BitVec.ofNat 8 (q.result r.2 / 2 ^ (8 * i))
      else t.homeRead q.pa q.kid q.size = q.result r.2 ∧ ∀ b, outside q.pa q.size b → Memory.read t.mem b = Memory.read r.1.mem b) ∧
      (t.slice g k).pend = older ++ rest ∧
      (q.kind = .asum → t.gangs = (s.without g k (older ++ rest)).gangs) ∧
      (q.kind ≠ .asum →
        (((t.slice g k).regs.getOr q.dst Reg.zero).lane q.lane = BitVec.ofNat 32 r.2 ∧
          ((t.slice g k).regs.getOr q.dst Reg.zero).tag = q.tag) ∧
        (∀ st, st ≠ q.dst → (t.slice g k).regs.find st = (s.slice g k).regs.find st) ∧
        { t.slice g k with regs := [], pend := [] } = { s.slice g k with regs := [], pend := [] } ∧
        (∀ j, j ≠ k → (t.gang g).slices.find j = (s.gang g).slices.find j) ∧ ∀ j, j ≠ g → t.gangs.find j = s.gangs.find j)

/-- R244–R248, R180: the other moves. A release at the head of the buffer completes with every word of its slice written back, or notes
the failure; a write-back moves the dirty bytes of one aqueduct word home, and does nothing where the page is no longer writable; a fill
brings the whole line in, its words unowned; a drop takes out a line, of an aqueduct its clean bytes alone. Fills and drops change no
byte of memory. -/
def Obligations.CopiesMove : Prop :=
  (∀ (s : State) (g k : Nat) (p : Pend), (s.slice g k).pend.head? = some p → p.kind = .release →
    ∃ t, exec (.moveReleaseComplete g k) s = .next t ∧
      (t.dirtyOf (dieOfCore (s.gang g).core) g k = [] ∨ (t.slice g k).failed.isSome = true) ∧
      { t.slice g k with failed := none } = { s.slice g k with failed := none, pend := (s.slice g k).pend.tail } ∧
      s.Touches t g [k] id State.apart ∧ t.cores = s.cores) ∧
  (∀ (s : State) (die key : Nat) (a : AqWord), (s.die die).aq.find (key / 4) = some a → s.Canonical →
    ∃ t, exec (.moveWriteBack die key) s = .next t ∧ t.gangs = s.gangs ∧ t.cores = s.cores ∧
      if a.dirty ≠ 0 ∧ s.stillWritable (key / 4) a = true then
        (t.die die).aq.find (key / 4) = some { a with dirty := 0, whole := false, dirtied := [] } ∧
        (∀ j < 4, t.homeByte (key / 4 * 4 + j) 0 = if nib a.dirty j then wordByte a.val j else s.homeByte (key / 4 * 4 + j) 0) ∧
        ∀ b, outside (key / 4 * 4) 4 b → Memory.read t.mem b = Memory.read s.mem b
      else t = s) ∧
  (∀ (s : State) (core asid va : Nat) (x : Xlat) (p : Place), s.fillPlace core asid va = some (x, p) →
    ∃ t, exec (.moveFill core asid va) s = .next t ∧ t.mem = s.mem ∧ t.gangs = s.gangs ∧ t.dies = s.dies ∧
      ∀ w ∈ State.lineWords x.pa, (t.core core).l1.find w =
        some ⟨s.wordBelow (dieOfCore core) true w x.kid, 15, none, va / 64 * 64, x.kid, s.wordBad (dieOfCore core) w⟩) ∧
  (∀ (s : State) (cache : CacheName) (unit key : Nat), ∃ t, exec (.moveDrop cache unit key) s = .next t ∧ t.mem = s.mem ∧
    t.gangs = s.gangs ∧ ∀ w,
      (t.core unit).l1.find w = (if cache = .l1 ∧ w ∈ State.lineWords key then none else (s.core unit).l1.find w) ∧
      (t.core unit).pc.find w = (if cache = .path ∧ w ∈ State.lineWords key then none else (s.core unit).pc.find w) ∧
      (t.core unit).pt.find w = (if cache = .tile ∧ w ∈ State.lineWords key then none else (s.core unit).pt.find w) ∧
      (t.die unit).aq.find w = if cache = .aqueduct ∧ w ∈ State.lineWords key then
          ((s.die unit).aq.find w).bind fun a => if a.dirty = 0 then none else some { a with kept := a.dirty }
        else (s.die unit).aq.find w)

/-! ### Waits, meetings, traps outside an issue -/

/-- R151–R153, R182, R253, R298: how a wait ends. A sleeper whose time has come, a pause run out, and the queue of an engine with room let
the slices that wait so go on; a wait on a barrier that has completed joins it first, and `fence.eng` with every thread ended forgets
them all.

R151, R152, R287, R297, R298: a wait that ends in a trap, which every slice of the gang whose wait ends in a fault takes with its own
cause. A barrier fault names the barrier and its stamp, and traps the waiting slices at their word; a promise missed retires the word,
counts in `pmiss` and traps with the word behind it in `tpc` (R122; log 11) and the bytes still pending; `fence.eng` with a faulted thread
reports its lowest faulted barrier and forgets the threads that count on it. A word that waited for room in an engine's queue issues again
alone (log 69). -/
def Obligations.WaitsEnd : Prop :=
  (∀ (s : State) (g k : Nat), s.awake g k = true → s.Distinct g →
    (∀ w, (s.slice g k).wait = some (.sleep w) → w ≤ s.now → ∃ t, exec (.sleepWake g k) s = .next t ∧ s.GoesOn t g k) ∧
    (∀ w, (s.slice g k).wait = some (.pause w) → w ≤ s.now → ∃ t, exec (.pauseEnd g k) s = .next t ∧ s.GoesOn t g k) ∧
    (∀ w n sp, (s.slice g k).wait = some (.sleepC w n sp) → (s.barrier (s.gang g).core n).fault = false →
      (s.barrier (s.gang g).core n).pending = 0 → ∃ t, exec (.sleepWake g k) s = .next t ∧ s.Joins t g k n) ∧
    (∀ n ph, (s.slice g k).wait = some (.wait n ph) → (s.barrier (s.gang g).core n).fault = false →
      (s.barrier (s.gang g).core n).phase ≠ ph → ∃ t, exec (.waitRelease g k) s = .next t ∧ s.Joins t g k n) ∧
    (∀ n, (s.slice g k).wait = some (.waitCnt n) → (s.barrier (s.gang g).core n).fault = false →
      (s.barrier (s.gang g).core n).pending = 0 → ∃ t, exec (.waitRelease g k) s = .next t ∧ s.Joins t g k n) ∧
    ((s.slice g k).wait = some .queue → s.roomNow g k = true → ∃ t, exec (.engineQueueRoom g k) s = .next t ∧
      (∀ j ∈ s.mates g k, t.slice g j = { s.slice g j with
        wait := none, replay := some (s.slice g j).mask, again := true, readySince := s.now }) ∧ s.Touches t g (s.mates g k)) ∧
    ((s.slice g k).wait = some .fenceEng → (∀ j ∈ s.mates g k, ∀ i ∈ (s.slice g j).forked, (s.thread i).ended = some 0) →
      ∃ t, exec (.fenceEngJoin g k) s = .next t ∧ (∀ j ∈ s.mates g k, WentOn (s.slice g j) (t.slice g j) []) ∧
        t.Acquired (s.gang g).core g ∧ t.mem = s.mem ∧
        s.Touches t g (s.mates g k) id fun s => { s with cores := [], dies := [] })) ∧
  ∀ (s : State) (g k n : Nat), s.awake g k = true → s.Distinct g →
    let b := s.barrier (s.gang g).core n
    ((∃ w sp, (s.slice g k).wait = some (.sleepC w n sp)) → b.fault = true → ∃ u t ti, exec (.sleepWake g k) s = .next t ∧
      s.MeetsFaults u g ti ∧ (∀ j ∈ s.mates g k, u.slice g j = s.slice g j) ∧
      s.TrapsWaiting g (s.mates g k) 0x14 (BitVec.ofNat 32 n) b.stamp (fun j => (s.slice g j).pc) ti ∧ u.Takes t g ti) ∧
    ((∃ ph, (s.slice g k).wait = some (.wait n ph)) ∨ (s.slice g k).wait = some (.waitCnt n) → b.fault = true →
      ∃ u t ti, exec (.waitRelease g k) s = .next t ∧
      s.MeetsFaults u g ti ∧ (∀ j ∈ s.mates g k, u.slice g j = s.slice g j) ∧
      s.TrapsWaiting g (s.mates g k) 0x14 (BitVec.ofNat 32 n) b.stamp (fun j => (s.slice g j).pc) ti ∧ u.Takes t g ti) ∧
    (∀ w, (s.slice g k).wait = some (.sleepC w n false) → b.fault = false → b.pending ≠ 0 → w ≤ s.now →
      ∃ u t ti, exec (.sleepWake g k) s = .next t ∧ s.MeetsFaults u g ti ∧
        (∀ j ∈ s.mates g k, WentOn (s.slice g j) (u.slice g j) (s.slice g j).forked) ∧
        s.TrapsWaiting g (s.mates g k) 0x13 (BitVec.ofNat 32 n) (BitVec.ofNat 32 b.pending) (fun j => (s.slice g j).pc + 1) ti ∧
        (∃ m ∈ s.missedSets g, m ∈ s.mates g k) ∧ u.Takes t g ti) ∧
    ((s.slice g k).wait = some .fenceEng → (∀ j ∈ s.mates g k, ∀ i ∈ (s.slice g j).forked, (s.thread i).ended.isSome = true) →
      (∃ j ∈ s.mates g k, ∃ i ∈ (s.slice g j).forked, (s.thread i).ended ≠ some 0 ∧ (s.thread i).barrier = n) →
      (∀ j ∈ s.mates g k, ∀ i ∈ (s.slice g j).forked, (s.thread i).ended ≠ some 0 → n ≤ (s.thread i).barrier) →
      ∃ u t ti, exec (.fenceEngJoin g k) s = .next t ∧ s.MeetsFaults u g ti ∧
        (∀ j ∈ s.mates g k, u.slice g j =
          { s.slice g j with forked := (s.slice g j).forked.filter fun i => decide ((s.thread i).barrier ≠ n) }) ∧
        s.TrapsWaiting g (s.mates g k) 0x14 (BitVec.ofNat 32 n) (if b.fault then b.stamp else 0) (fun j => (s.slice g j).pc) ti ∧
        u.Takes t g ti)

/-- R138, R139, R294, R346, R347: the meetings. Slices that all wait at one `regang` at one depth go on as one stream with no region
open. The slices of a call instance that all wait at their `ret`, the frames in the ring, return to its call as one stream; where a
`callv` entered it and its table is not frozen, the entry in device memory is updated from the time and energy spent and the quality
reported; where the entry does not translate, the slice whose `ret` came last is parked and none returns. -/
def Obligations.SlicesMeet : Prop :=
  (∀ (s : State) (g : Nat), (s.allMeet g fun w => decide (w = .regang)) = true → s.Distinct g →
    ∃ t, exec (.regangRelease g) s = .next t ∧
      (∀ k ∈ s.liveSlices g, (t.slice g k).stream = (s.gang g).streamNo + 1 ∧
        ∃ x, WentOn (s.slice g k) x (s.slice g k).forked ∧ Closed x { t.slice g k with stream := x.stream }) ∧
      s.Touches t g (s.liveSlices g) fun y => { y with streamNo := 0 }) ∧
  ∀ (s : State) (g inst : Nat), s.instanceMeets g inst = true → s.Distinct g →
    (∀ k ∈ s.instanceOf g inst, ∃ f, (s.slice g k).frames.head? = some f ∧ f.spilled = false) →
    let ks := s.instanceOf g inst
    let vb := (s.slice g (ks.headD 0)).frames.head?.bind Frame.vb
    (vb = none → ∃ t, exec (.retRendezvous g inst) s = .next t ∧
      (∀ k ∈ ks, LeftFrame (s.gang g).ring (s.slice g k) (t.slice g k) ∧ (t.slice g k).stream = (s.gang g).streamNo + 1) ∧
      s.Touches t g ks fun y => { y with streamNo := 0, instReports := [] }) ∧
    (∀ v a, vb = some v → s.updateXlat (s.gang g) v = .ok a → ∃ t, exec (.retRendezvous g inst) s = .next t ∧
      (∀ k ∈ ks, LeftFrame (s.gang g).ring (s.slice g k) (t.slice g k)) ∧
      (a = none → t.mem = s.mem) ∧
      (∀ x y, a = some (x, y) → keySpace y.pa = devSpace → y.pa % 32 = 0 → y.counted = false → s.Canonical →
        let old := s.homeRead y.pa y.kid 32
        let e := VEntry.ofBytes (leBytes 32 old)
        let full := ((s.slice g (ks.headD 0)).frames.head?.map Frame.inst).getD inst
        let u := e.update (VHeader.ofBytes (s.table32 x)).ksh (min (s.elapsed (s.gang g) v) (2 ^ 32 - 1))
          (min ((s.gang g).energy - v.energy) (2 ^ 32 - 1)) (s.instanceQ g full ks)
        t.homeRead y.pa y.kid 32 = old % 2 ^ 32 + 2 ^ 32 * (u.1 % 2 ^ 32) + 2 ^ 64 * (u.2.1 % 2 ^ 32) + 2 ^ 96 * (u.2.2 % 2 ^ 16) +
            2 ^ 112 * min (e.samples + 1) 255 + 2 ^ 120 * (old / 2 ^ 120 % 256) + 2 ^ 128 * (s.now / 2 ^ 16 % 2 ^ 32) +
            2 ^ 160 * (old / 2 ^ 160) ∧
          ∀ b, outside y.pa 32 b → Memory.read t.mem b = Memory.read s.mem b)) ∧
    ∀ v e va, vb = some v → s.updateXlat (s.gang g) v = .error (e, va) → let k := s.lastReturner g ks
      ∃ t id, exec (.retRendezvous g inst) s = .next t ∧ ((t.slice g k).park.map Park.ids) = some [id] ∧
        (∀ j ∈ ks, (s.slice g j).issuedAt ≤ (s.slice g k).issuedAt) ∧
        ∀ j ∈ ks, (t.slice g j).frames = (s.slice g j).frames ∧ (t.slice g j).dix = (s.slice g j).dix

/-- R289, R295, R139, R299: traps outside an issue. Slices whose release failed take an imprecise trap at the start of the region that was open when the release issued, or
stop the gang where one has no such region open (log 66); slices whose regang points can no longer meet take the mismatch; and where the phase of a
bound barrier cannot complete, every waiting slice of its members takes the deadlock, with the arrivals still due. -/
def Obligations.GangsTrapOutsideAnIssue : Prop :=
  (∀ (s : State) (g : Nat) (y : Gang), s.gangs.find g = some y → y.stop = none → s.Distinct g → s.failedSlices g ≠ [] →
    (∀ k ∈ s.failedSlices g, (s.slice g k).live ≠ 0) →
    (∀ at_ : Nat → Word × Region, (∀ k ∈ s.failedSlices g, State.blamed (s.slice g k) = some (at_ k)) →
      ∃ u t ti, exec (.trapEntry g) s = .next t ∧
      (∀ k ∈ s.failedSlices g, u.slice g k = { s.slice g k with
        failed := none, region := some (at_ k).2, tregion := (s.slice g k).tregion &&& 0xFF000000 ||| (at_ k).1 }) ∧
      s.Touches u g (s.failedSlices g) ∧
      ti.cause = 0x1B ∧ ti.imp = true ∧ ti.who.map TrapSlice.slice = s.failedSlices g ∧
      (∀ w ∈ ti.who, w.lanes = (s.slice g w.slice).mask ∧ w.tpc = (at_ w.slice).1 ∧
        ∀ f, (s.slice g w.slice).failed = some f → w.tinfo.toNat = f.va % 2 ^ 32 ∧
          w.tinfo2.toNat = f.va / 2 ^ 32 % 2 ^ 25 + wordHash f.store % 2 ^ 7 * 2 ^ 25 ∧
          State.causeWord (s.gang g) ti w.slice = BitVec.ofNat 32 (0x1B + f.widx % 3 * 256 + flagBit (s.gang g).frag 30 + 2 ^ 31)) ∧
      u.Takes t g ti) ∧
    (∀ k, k ∈ s.failedSlices g → State.blamed (s.slice g k) = none → ∃ t st, exec (.trapEntry g) s = .next t ∧
      (t.gang g).stop = some st ∧ st.reason = 10)) ∧
  (∀ (s : State) (g : Nat) (y : Gang), s.gangs.find g = some y → y.stop = none → s.Distinct g → s.failedSlices g = [] →
    s.unmatched g ≠ [] → ∃ t ti, exec (.trapEntry g) s = .next t ∧ ti.who.map TrapSlice.slice = s.unmatched g ∧ ti.imp = false ∧
      s.TrapsWaiting g (s.unmatched g) 0x0F 0 0 (fun k => (s.slice g k).pc) ti ∧ s.Takes t g ti) ∧
  ∀ (s : State) (core n : Nat) (gs : List Nat), s.deadlocked core n = true → s.memberGangs core n = some gs → s.gangs.keys.Nodup →
    (∀ g ∈ gs, s.Distinct g) →
    let tr (g : Nat) : TrapInfo := s.waitTrap g 0x1C (s.liveSlices g) (BitVec.ofNat 32 n) (BitVec.ofNat 32 (s.barrier core n).remain)
    (∀ g ∈ gs, (s.at g).MayEnter (tr g)) → ∃ t, exec (.barrierDeadlock core n) s = .next t ∧
      (∀ g ∈ gs, s.TrapsWaiting g (s.liveSlices g) 0x1C (BitVec.ofNat 32 n) (BitVec.ofNat 32 (s.barrier core n).remain)
          (fun k => (s.slice g k).pc) (tr g) ∧
        ∀ k ∈ s.liveSlices g, EnteredSlice (s.gang g) (tr g) k (s.slice g k) (t.slice g k)) ∧
      ((∀ g ∈ gs, (s.at g).roomy (tr g)) → t.mem = s.mem)

/-! ### Engine threads -/

/-- R252, R262, R265, R367: one access of an engine thread. The word of its source that holds byte `n` is read as the engine sees it,
below every L1; once its bytes are there the word of its destination is written at home; an access that does not translate is held
under a park id with nothing moved; one out of reach ends the thread, once no unit that is written is still to land. The pages are of
those that do not count accesses; a read changes no byte of memory unless its word carries an uncorrectable error, which is logged. A word
of the Basin that a command or an index list needs is read into the thread's hands (log 23). A command of a context that leaves the device
takes no access (R373). -/
def Obligations.EnginesAccess : Prop :=
  (∀ (s : State) (i n : Nat) (r : Row) (dst : Bool), let t := s.thread i
    t.ended = none → t.parks.find n = none → (t.kind = .matrix → t.fired = true ∨ s.leaving t.asid = false) → s.slowed t = false →
    n ∉ t.todo → n < s.extent t → s.rowOf t dst n = some r → s.Canonical →
    (if dst then t.wrote.contains n = false ∧ ∀ j < (r.word n).2.2, (t.byte ((r.word n).1 + j)).isSome = true
     else t.byte n = none) → (t.byte n).isSome = dst → 0 < (r.word n).2.2 →
    if s.reachBad t.asid r.space r.base r.len then (∀ v, s.landReady i v = true → t.kind = .quay) →
      ∃ u, exec (.engineAccess i n) s = .next u ∧ s.ThreadEnds u i 0x11 fun b => b.fail 0x11 (s.faultIndex t) 0
    else match s.enginePlace t r.space (r.word n).2.1 (if dst then .write else .read) with
      | .error _ => ∃ u, exec (.engineAccess i n) s = .next u ∧ ((u.thread i).parks.find n).isSome = true ∧
          (u.thread i).buffer = t.buffer ∧ (u.thread i).wrote = t.wrote ∧ u.gangs = s.gangs
      | .ok x => x.counted = false → ∃ u, exec (.engineAccess i n) s = .next u ∧ u.gangs = s.gangs ∧
          if dst then
            (∀ j < (r.word n).2.2, (u.thread i).wrote.contains ((r.word n).1 + j) = true ∧
              some (u.homeByte (x.pa + j) x.kid) = t.byte ((r.word n).1 + j)) ∧
            (keySpace x.pa ≠ hostSpace → ∀ b, outside x.pa (r.word n).2.2 b → Memory.read u.mem b = Memory.read s.mem b) ∧
            ∀ d, (u.die d).aq.find (x.pa / 4) = none
          else (s.poisoned x.pa (r.word n).2.2 = false → u.mem = s.mem) ∧ ∀ j < (r.word n).2.2,
            (u.thread i).buffer.find ((r.word n).1 + j) = some (s.belowL1 (dieOfCore t.core) false (x.pa + j) x.kid)) ∧
  (∀ (s : State) (i a : Nat), let t := s.thread i; let w := srcKey 1 t.core a
    t.ended = none → t.parks.find w = none → (t.kind = .matrix → t.fired = true ∨ s.leaving t.asid = false) → s.slowed t = false →
    w ∈ t.todo → w < 2 ^ 130 → a + 4 ≤ Config.basinTop →
    ∃ u, exec (.engineAccess i w) s = .next u ∧ (s.poisoned w 4 = false → u.mem = s.mem) ∧ u.gangs = s.gangs ∧
      (u.thread i).todo = t.todo.erase w ∧
      ∀ j < 4, (u.thread i).buffer.find (w + j) = some (s.belowL1 (dieOfCore t.core) false (w + j) 0)) ∧
  ∀ (s : State) (i n : Nat), let t := s.thread i; let w := State.indexKey t n
    t.ended = none → t.parks.find n = none → State.indexDue t n = true → s.slowed t = false → n ∉ t.todo → n < s.extent t →
    w < 2 ^ 130 → keyAddr w + 4 ≤ Config.basinTop →
    ∃ u, exec (.engineAccess i n) s = .next u ∧ (s.poisoned w 4 = false → u.mem = s.mem) ∧ u.gangs = s.gangs ∧
      State.indexDue (u.thread i) n = false

/-- R260, R261, R265, R282, R283, R195, R404: landings and ends. A unit that is written lands and counts its bytes on the barrier; a barge
thread without a follow-on ends when its last unit lands. A follow-on fires by forking its matrix command at the tail of the span array's
queue. A drive's completion leaves its bytes and its status with the thread, which writes them; then the completion entry stands in the
drive's queue, its doorbell is rung, and the bytes count, or the thread ends with the drive's error. A command that is late, or whose
drive has failed, ends its thread. A message that has left counts when it is acknowledged over a port that has link, and ends with a fault
when it cannot be delivered. The layout of the drive's completion entry, its doorbell at 4 bytes behind the submission doorbell and the mark
of poisoned data are the model's choice (log 39), as is the port of a send (log 3). -/
def Obligations.ThreadsLand : Prop :=
  (∀ (s : State) (i n : Nat), s.landReady i n = true → (s.thread i).kind ≠ .quay → s.Canonical →
    ∃ u, exec (.landing i n) s = .next u ∧ let t := s.thread i
    u.barrier t.core t.barrier = (s.barrier t.core t.barrier).land (s.unitBytes t n).2 t.index s.now ∧
    (u.thread i).landed = addSorted t.landed n ∧
    (∀ a, a < barrierKey t.core t.barrier ∨ barrierKey t.core t.barrier + 16 ≤ a → Memory.read u.mem a = Memory.read s.mem a) ∧
    (t.kind = .barge → State.follows t = false →
      (u.thread i).ended = if ∀ v, v < s.units t → v = n ∨ v ∈ t.landed then some 0 else none)) ∧
  (∀ (s : State) (i : Nat), s.fireReady i = true → i < s.threadNo → ∃ u, exec (.followOnFire i) s = .next u ∧ let t := s.thread i
    (u.thread i).ended = some 0 ∧ u.threadNo = s.threadNo + 1 ∧ u.mem = s.mem ∧
    (u.core t.core).matrixQueue = (s.core t.core).matrixQueue ++ [s.threadNo] ∧
    (let m := u.thread s.threadNo
     m.kind = .matrix ∧ m.record = (Barge.ofBytes t.record).cmd ∧ m.barrier = t.barrier ∧ m.core = t.core ∧ m.ended = none ∧
       m.fired = false) ∧
    ∀ k, i ∈ (s.slice t.gang k).forked → (u.slice t.gang k).forked = (s.slice t.gang k).forked ++ [s.threadNo]) ∧
  (∀ (s : State) (i c status : Nat) (data : List Byte), let t := s.thread i; let q := DriveRead.ofBytes t.record; let d := s.drive q.drive
    s.outstanding i c = true → data.length = q.bytesOf d c → ∃ u, exec (.nvmeCompletion i c status data) s = .next u ∧
      { u with threads := [] } = { s with threads := [] } ∧ (∀ j, j ≠ i → u.threads.find j = s.threads.find j) ∧
      (u.thread i).status.find c = some (status % 2 ^ 16) ∧
      (∀ n, n ∈ (u.thread i).poisoned ↔
        n ∈ t.poisoned ∨ (bitOf status 16 = true ∧ c * d.most ≤ n ∧ n < c * d.most + data.length)) ∧
      ∀ j < data.length, (u.thread i).buffer.find (c * d.most + j) = data[j]?) ∧
  (∀ (s : State) (i c cid status : Nat), let t := s.thread i; let q := DriveRead.ofBytes t.record; let d := s.drive q.drive
    let w := s.driveQueue q.drive; let at_ := d.cq + 16 * w.head; let head := (w.head + 1) % max d.entries 1
    s.landReady i c = true → t.kind = .quay → s.Canonical → t.status.find c = some status → s.commandId i c = some cid →
    at_ + 16 ≤ 2 ^ 64 → ∃ u, exec (.landing i c) s = .next u ∧
      (∀ j < 16, some (u.homeByte (keyAt devSpace 0 at_ + j) 0) = (doneEntry w.tail cid status w.phase)[j]?) ∧
      u.driveQueue q.drive = { w with head := head, phase := if head = 0 then !w.phase else w.phase, out := w.out.del cid } ∧
      u.quay.bells = s.quay.bells ++ [(d.bell + 4, head)] ∧
      (status = 0 → u.barrier t.core t.barrier = (s.barrier t.core t.barrier).land (q.bytesOf d c) t.index s.now ∧
        (u.thread i).landed = addSorted t.landed c) ∧
      (status ≠ 0 → t.ended = none → (u.thread i).ended = some 0x40 ∧
        u.barrier t.core t.barrier = (s.barrier t.core t.barrier).fail 0x40 t.index (status % 2 ^ 15))) ∧
  (∀ (s : State) (i : Nat), let t := s.thread i; let q := DriveRead.ofBytes t.record
    s.driveLate i = true → s.Canonical → ∃ u, exec (.quayTimeout i) s = .next u ∧ q.drive ∈ u.quay.failed ∧
      (∀ x ∈ (u.driveQueue q.drive).out, x.2.1 ≠ i) ∧
      (t.ended = none → s.ThreadEnds u i 0x41 fun b => b.fail 0x41 t.index 0) ∧
      (t.ended ≠ none → u.threads = s.threads ∧ u.mem = s.mem)) ∧
  ∀ (s : State) (i : Nat), let t := s.thread i; let m := Message.ofBytes t.record
    t.kind = .send → t.ended = none → s.Canonical → (∀ n < t.size, (t.byte n).isSome = true) →
    (s.portUp i = true → ∃ u, exec (.messageAcknowledged i) s = .next u ∧
      s.ThreadEnds u i 0 (fun b => b.land m.bytes t.index s.now) ∧
      u.sent = s.sent ++ [(m.node, leBytes 4 m.tag ++ (List.range t.size).map fun n => (t.byte n).getD 0)]) ∧
    ∃ u, exec (.messageUndeliverable i) s = .next u ∧ s.ThreadEnds u i 0x50 fun b => b.fail 0x50 t.index 0

/-- R267, R271–R276, R278–R280: the span array and the Trestle unit. A command at the head of its core's queue that holds the words it
needs accumulates its products in its slot, new with an OPEN, and ends, or stays to close; one that lacks words asks for them; a command
with a fault ends with its code, and its slot stands closed after a shape, summary or checksum fault or an uncorrectable error. A CLOSE of a
slot whose checksum agrees leaves its output in the thread's hands, the slot's where no operand of the run has changed since it was read,
and its STATUS in the output record; with the last of the output's units the command leaves the queue and its slot is closed. One whose
checksum does not agree is run again. A Trestle thread that holds what it needs holds its output. That a poisoned word poisons every byte of
a Trestle thread's output is the model's choice (log 23). -/
def Obligations.SpanAndTrestleRun : Prop :=
  (∀ (s : State) (core i : Nat) (opens : Bool), s.spanReady core (· == 0) (fun c => c.opens == opens) = true → s.spanHead core = some i →
    (s.thread i).kind = .matrix → (s.thread i).core = core → s.Canonical →
    let t := s.thread i; let c := MatCmd.ofBytes t.record; let ev := if opens then Instr.matrixOpen core else .matrixAccumulate core
    match s.spanJob i c (s.slot core c.slot) none with
    | .ok j => ∃ u, exec ev s = .next u ∧ u.mem = s.mem ∧
        u.slot core c.slot = (if opens then Slot.start j false else s.slot core c.slot).accumulate j (State.keptCmd t) t.widx ∧
        (∀ m, m ≠ c.slot → u.slot core m = s.slot core m) ∧
        if c.closes then (u.core core).matrixStep = 1 ∧ u.spanHead core = some i ∧ (u.thread i).ended = none
        else (u.core core).matrixStep = 0 ∧ i ∉ (u.core core).matrixQueue ∧ (u.thread i).ended = some 0
    | .error (.fault code d) => (code = 0x25 → (s.slot core c.slot).flaw = false) → ∃ u, exec ev s = .next u ∧
        (code = 0x20 ∨ code = 0x22 ∨ code = 0x25 → u.slot core c.slot = Slot.blank) ∧
        s.ThreadEnds u i code fun b => if code = 0 then b else b.fail code (s.slot core c.slot).cmds.length d
    | .error (.bad _) => ∃ u, exec ev s = .next u ∧ (u.thread i).ended = some 0x25 ∧ u.slot core c.slot = Slot.blank ∧
        i ∉ (u.core core).matrixQueue ∧ u.barrier core t.barrier = (s.barrier core t.barrier).fail 0x25 (s.slot core c.slot).cmds.length 0
    | .error (.need ws) => ∃ u, exec ev s = .next u ∧ (u.thread i).todo = ws ∧ { u with threads := [] } = { s with threads := [] }) ∧
  (∀ (s : State) (core i : Nat) (o : Shape) (ch : Option Chain), s.spanReady core (· == 1) MatCmd.closes = true →
    s.spanHead core = some i → (s.thread i).kind = .matrix → s.Canonical → let t := s.thread i; let c := MatCmd.ofBytes t.record
    let x := s.slot core c.slot
    s.closeJob i c x = .ok (o, ch) →
    (x.checked = true → let r := s.outputOf i x ch o.format t.widx
      (s.changedRows i x = [] → r = x.output ch o.format t.widx) ∧
      ∃ u, exec (.matrixClose core) s = .next u ∧ (u.thread i).fired = true ∧ (∀ n, (u.thread i).buffer.find n = r.1[n]?) ∧
        (if ∀ v, v < u.units (u.thread i) → v ∈ t.landed then (u.thread i).ended = some 0 ∧ u.slot core c.slot = Slot.blank ∧
            (u.core core).matrixStep = 0 ∧ i ∉ (u.core core).matrixQueue
         else (u.thread i).ended = none ∧ u.slot core c.slot = x ∧ (u.core core).matrixStep = 1 ∧ u.spanHead core = some i) ∧
        Memory.readLE u.mem (keyAt basinSpace core (64 * c.out + 0x24)) 4 = r.2 % 2 ^ 32 ∧
        ∀ b, outside (keyAt basinSpace core (64 * c.out + 0x24)) 4 b → Memory.read u.mem b = Memory.read s.mem b) ∧
    (x.checked = false → x.replayed = false → ∃ u, exec (.matrixClose core) s = .next u ∧ u.slot core c.slot = x ∧
      (u.core core).matrixStep = 2 ∧ u.spanHead core = some i ∧ (u.thread i).ended = none)) ∧
  (∀ (s : State) (i n : Nat), let t := s.thread i; let c := MatCmd.ofBytes t.record
    s.landReady i n = true → t.kind = .matrix → t.fired = true → 64 * c.out + 64 ≤ Config.basinTop → s.Canonical →
    (∀ v, v < s.units t → v = n ∨ v ∈ t.landed) → ∃ u, exec (.landing i n) s = .next u ∧ (u.thread i).ended = some 0 ∧
      u.slot t.core c.slot = Slot.blank ∧ i ∉ (u.core t.core).matrixQueue ∧
      ((s.spanHead t.core) = some i → (u.core t.core).matrixStep = 0)) ∧
  ∀ (s : State) (i : Nat), s.trestleReady i = true → s.Canonical →
    match s.trestleOut i (TrestleCmd.ofBytes (s.thread i).record) with
    | .ok (bytes, bad) => ∃ u, exec (.trestleThread i) s = .next u ∧ u.mem = s.mem ∧ (u.thread i).fired = true ∧
        (∀ n, (u.thread i).buffer.find n = bytes[n]?) ∧ (∀ n, n ∈ (u.thread i).poisoned ↔ (bad = true ∧ n < bytes.length))
    | .error (.fault code n) => ∃ u, exec (.trestleThread i) s = .next u ∧
        s.ThreadEnds u i code fun b => if code = 0 then b else b.fail code n 0
    | .error (.bad _) => False
    | .error (.need ws) => ∃ u, exec (.trestleThread i) s = .next u ∧ (u.thread i).todo = ws ∧
        { u with threads := [] } = { s with threads := [] }

/-! ### Launches -/

/-- R54, R312, R319, R320, R254, R214: how a launch begins. The launch taken from the queue receives its context's next id and, when its
image reads and passes its checks, is being placed; one whose context is not valid or whose image is refused ends with the code, and one
whose image does not translate waits at a fault. A placed gang has its place, a block of its quarter's backing that no other gang has, and
slices whose lanes all stand at its role's entry with the role's registers. Compaction moves the blocks of a quarter and nothing else of its
gangs. A gang starts after an acquire and with empty path caches. The context's key as its first gang starts (log 8), where a gang is
placed among the places that R319 allows (log 44) and what a role switch leaves open (log 45) are the model's choice.

R148, R149, R316, R317, R254, R326, R302: how a launch goes on and ends. The first waiting gang takes the oldest item of the pound of
the role it chooses, and begins that role, the item in v4 to v7 of every slice; a switch to another role gives its slices that role's
registers, entry, window and block. Where no role can be taken the pounds close and every gang ends. A launch whose gangs have ended
finishes, and writes its DONE word. -/
def Obligations.LaunchesRun : Prop :=
  ((∀ (s : State) (l : Nat) (y : Launch), s.rereads = none → s.placedBefore = true → s.nextQueued = some l →
    s.launches.find l = some y → y.cores = [] → ∃ t, exec .launchDequeue s = .next t ∧ l ∉ t.queue ∧
      if s.ctxValid y.asid = false then (t.launch l).state = .finished 4
      else (t.launch l).id = (s.ctx y.asid).launchNo ∧ (t.launch l).reach = s.ctxReach y.asid ∧ match s.imageNow y with
        | .error _ => (t.launch l).state = .reading ∧ (t.launch l).park.isSome = true
        | .ok (.error c) => (t.launch l).state = .finished c
        | .ok (.ok m) => State.localSets m = [] → (t.launch l).state = .placing ∧ (t.launch l).img = some m ∧
            (t.ctx y.asid).launchNo = (if (s.ctx y.asid).launchNo = 0xFFFFFFFF then 1 else (s.ctx y.asid).launchNo + 1) ∧
            (t.launch l).gangs = m.started y.grid ∧ t.mem = s.mem ∧ (0 < m.started y.grid → l ∈ t.placing)) ∧
  (∀ (s : State) (l i c q : Nat), s.placeable l = some (i, c, q) → ∃ t y, exec (.gangPlacement l) s = .next t ∧
    t.gangs.find s.gangNo = some y ∧ t.gangNo = s.gangNo + 1 ∧ (∀ g, g ≠ s.gangNo → t.gangs.find g = s.gangs.find g) ∧
    y.launch = l ∧ y.index = i ∧ y.core = c ∧ y.quarter = q ∧ y.started = false ∧ y.asid = (s.launch l).asid ∧
    y.launchId = (s.launch l).id ∧ y.allot = s.gangAllot l i ∧
    (∀ g z, g ≠ s.gangNo → s.gangs.find g = some z → z.core = c → z.quarter = q →
      overlap y.base y.allot z.base z.allot = false ∧ z.place ≠ y.place) ∧
    let r := (s.imageOf l).role ((s.imageOf l).firstRole i)
    ∀ k x, y.slices.find k = some x → x.pc = BitVec.ofNat 32 r.entry ∧ x.mask = 15 ∧ x.live = 15 ∧ x.frames = [] ∧ x.stack = [] ∧
      ((s.launch l).offset = none → x.regs = r.regs)) ∧
  (∀ (s : State) (l i c q : Nat) (m : List (Nat × Nat)), s.switchFragmented c q = none → s.placeFragmented c q = some (l, i) →
    s.repack c q none s.gangNo (s.gangAllot l i) = some m → ∃ t y, exec (.compaction c q) s = .next t ∧
      t.gangs.find s.gangNo = some y ∧ y.launch = l ∧ y.index = i ∧ y.core = c ∧ y.quarter = q ∧
      ∀ g, g ≠ s.gangNo → { t.gang g with base := 0, paused := 0 } = { s.gang g with base := 0, paused := 0 }) ∧
  ∀ (s : State) (g : Nat), s.startDue g = true → let y := s.gang g
    (s.launch y.launch).loaded.contains y.core = true → (s.launch y.launch).lost.contains y.core = false →
    ∃ t, exec (.gangStart g) s = .next t ∧ (t.gang g).started = true ∧ t.Acquired y.core g ∧ (t.core y.core).pc = [] ∧
      (t.core y.core).pt = [] ∧ t.mem = s.mem ∧ { t.gang g with started := false, slices := [] } = { y with started := false, slices := [] } ∧
      (t.ctx y.asid).key = some ((s.ctx y.asid).key.getD (leBytes 32 (s.ctxField y.asid 0x20 32)))) ∧
  (∀ (s : State) (g n : Nat) (x : Xlat), let y := s.gang g; let k := (((s.imageOf y.launch).role n).inp).getD 0
    s.stageDue g = true → s.chooseRole y.launch y.role = some n → s.Distinct g → (s.launches.find y.launch).isSome = true →
    s.ringItems y.asid y.reach (clusterOfCore y.core) (s.poundAt y.launch k).1 .read (s.poundAt y.launch k).2.head 1 = .ok [x] →
    s.poisoned x.pa 16 = false → ∃ t, exec (.stageItemTaken g) s = .next t ∧
      ((∀ j ∈ s.liveSlices g, ∀ q ∈ (s.slice g j).pend, q.isRmw = false) → t.mem = s.mem) ∧ t.Acquired y.core g ∧
      (t.launch y.launch).pounds.find k = some { (s.poundAt y.launch k).2 with head := (s.poundAt y.launch k).2.head + 1 } ∧
      let item := s.homeRead x.pa x.kid 16
      if n = y.role then
        ∀ j ∈ s.liveSlices g, (t.slice g j).pc = BitVec.ofNat 32 ((s.imageOf y.launch).role n).entry ∧ (t.slice g j).wait = none ∧
          (t.slice g j).dix = (s.slice g j).dix + 1 ∧ ∀ i < 4, ∀ l < 4,
            ((t.slice g j).regs.getOr (4 + i) Reg.zero).lane l = BitVec.ofNat 32 (item / 2 ^ (32 * i)) ∧
              ((t.slice g j).regs.getOr (4 + i) Reg.zero).tag = .u32
      else (∃ w, (t.gang g).gwait = some w ∧ w.role = n ∧ w.item % 2 ^ 128 = item % 2 ^ 128) ∧ (t.gang g).slices = y.slices) ∧
  (∀ (s : State) (g n : Nat), s.pendingRole g = some (n, none) → n = (s.gang g).role → s.Distinct g →
    ∃ t, exec (.roleSwitchBacking g) s = .next t ∧ (∀ k ∈ s.liveSlices g, ∃ x, WentOn (s.slice g k) x (s.slice g k).forked ∧
        Closed x { t.slice g k with stream := x.stream }) ∧
      s.Touches t g (s.liveSlices g) fun y => { y with streamNo := 0 }) ∧
  (∀ (s : State) (g n b : Nat), s.pendingRole g = some (n, none) → n ≠ (s.gang g).role → s.roleBlock g n = some b → s.Distinct g →
    (∀ k ∈ s.liveSlices g, (s.slice g k).pend = []) → let r := (s.imageOf (s.gang g).launch).role n
    ∃ t, exec (.roleSwitchBacking g) s = .next t ∧ t.mem = s.mem ∧ (t.gang g).role = n ∧ (t.gang g).base = b ∧
      (t.gang g).allot = r.allot ∧ (t.gang g).fpmode = 0 ∧
      (∀ z h, h ≠ g → s.gangs.find h = some z → z.core = (s.gang g).core → z.quarter = (s.gang g).quarter →
        overlap b r.allot z.base z.allot = false) ∧
      ∀ k ∈ s.liveSlices g, (t.slice g k).pc = BitVec.ofNat 32 r.entry ∧ (t.slice g k).mask = (s.slice g k).live ∧
        (t.slice g k).regs = r.regs ∧ (t.slice g k).stack = [] ∧ (t.slice g k).frames = [] ∧ (t.slice g k).wb = 0 ∧
        (t.slice g k).wait = none ∧ (t.slice g k).dix = (s.slice g k).dix + 1) ∧
  (∀ (s : State) (l : Nat) (y : Launch), s.closeDue l = true → s.launches.find l = some y → s.gangs.keys.Nodup →
    ∃ t, exec (.poundClose l) s = .next t ∧ (∀ g z, s.gangs.find g = some z → z.launch = l → t.gangs.find g = none) ∧
      (t.launch l).ended = y.gangs ∧ ∀ n p, (t.launch l).pounds.find n = some p → p.closed = true) ∧
  ∀ (s : State) (l q n : Nat) (y : Launch) (x : Xlat), s.allEnded l = true → s.launches.find l = some y → y.source = .sluice q n →
    (s.sluice q).launches = [l] → y.reported = false → y.doneVa ≠ 0 → s.unitXlat y.asid y.doneVa .write = .ok x → s.Canonical →
    ∃ t, exec (.launchEnd l) s = .next t ∧ (t.launch l).state = .finished y.code ∧ (t.launch l).reported = true ∧
      t.homeRead x.pa x.kid 8 = (if y.code = 0 then y.doneVal.toNat else (2 ^ 63 + y.code) % 2 ^ 64) ∧
      (keySpace x.pa ≠ hostSpace → ∀ b, outside x.pa 8 b → Memory.read t.mem b = Memory.read s.mem b) ∧ (t.sluice q).launches = [] ∧
      t.gangs = s.gangs

/-! ### Sluices and armed launches -/

/-- R321–R323, R325, R327: what the host does to a sluice, and what its packets do. A packet that waits for a semaphore is held while its
condition fails, and goes on once it holds; a semaphore that does not translate, and a packet that is refused, set ERROR 2. A LAUNCH queues
its launch, a SIGNAL writes its word, an ARM adds an armed launch under a tag of its own or sets ERROR 3, a DISARM removes it. That a
semaphore that does not translate sets ERROR 2, what a sluice has held back and when it tests again are the model's choice (log 47, log
48). -/
def Obligations.SluicesProcess : Prop :=
  (∀ (s : State) (q tail : Nat) (m : Bool), s.security.booted = true → q < 64 →
    (∃ t, exec (.sluiceDoorbell q tail) s = .next t ∧ s.SluiceOnly t q { s.sluice q with tail := BitVec.ofNat 32 tail }) ∧
    ∃ t v, exec (.sluiceMap q m) s = .next t ∧ s.SluiceOnly t q (if (s.sluice q).mapped = m then s.sluice q
      else { s.sluice q with mapped := m, seen := s.co.length, semVal := v })) ∧
  (∀ (s : State) (q : Nat), s.security.booted = true → (s.sluice q).error.isSome = true →
    ∃ t, exec (.sluiceErrorClear q) s = .next t ∧ s.SluiceOnly t q { s.sluice q with error := none }) ∧
  (∀ (s : State) (q : Nat), s.packetDue q 0 = true → s.nextPacket q = none →
    ∃ t, exec (.sluiceLaunch q) s = .next t ∧ s.SluiceOnly t q ((s.sluice q).failed 2)) ∧
  (∀ (s : State) (q : Nat) (b : List Byte), s.nextPacket q = some b → let p := Packet6.ofBytes b
    (s.packetDue q 1 = true → p.waits = false → ∃ t, exec (.sluiceLaunch q) s = .next t ∧ s.Queues t q p) ∧
    (∀ k, k = 1 ∨ k = 2 → s.packetDue q k = true → p.waits = true →
      let ev := if k = 1 then Instr.sluiceLaunch q else .sluiceWait q
      match s.semWord q p with
      | none => ∃ t, exec ev s = .next t ∧ s.SluiceOnly t q ((s.sluice q).failed 2)
      | some v =>
        if condHolds p.cond v p.operand = false then
          ∃ t, exec ev s = .next t ∧ s.SluiceOnly t q { s.sluice q with held := some b, blocked := true, blockCyc := 0,
                                                                              seen := s.co.length, semVal := v }
        else if k = 2 then ∃ t, exec ev s = .next t ∧ s.SluiceOnly t q (s.sluice q).next
        else if p.ordered = true ∧ s.launchesOver q = false then
          ∃ t, exec ev s = .next t ∧ s.SluiceOnly t q { s.sluice q with held := some (passed b), blocked := false, blockCyc := 0 }
        else ∃ t, exec ev s = .next t ∧ s.Queues t q p) ∧
    (s.packetDue q 3 = true → s.Canonical → match s.unitXlat (s.sluiceAsid q) p.sem .write with
      | .error _ => ∃ t, exec (.sluiceSignal q) s = .next t ∧
          s.SluiceOnly t q ((s.sluice q).failed 2)
      | .ok x => ∃ t, exec (.sluiceSignal q) s = .next t ∧ t.sluice q = (s.sluice q).next ∧
          t.homeRead x.pa x.kid 8 = p.operand % 2 ^ 64 ∧
          (keySpace x.pa ≠ hostSpace → ∀ a, outside x.pa 8 a → Memory.read t.mem a = Memory.read s.mem a) ∧
          t.gangs = s.gangs) ∧
    (s.packetDue q 4 = true → let a := s.sluiceAsid q
      ((s.armedOf a p.tag).isSome = true → ∃ t, exec (.sluiceArm q) s = .next t ∧
        s.SluiceOnly t q ((s.sluice q).failed 3)) ∧
      (s.armedOf a p.tag = none → s.ctxValid a = true → ∀ m, s.readImage a p.image 0 false = .ok (.ok m) →
        if State.bufferFits m p then
          ∃ t r, exec (.sluiceArm q) s = .next t ∧ t.sluice q = (s.sluice q).next ∧ (t.ctx a).armed = (s.ctx a).armed ++ [r] ∧
            r.tag = p.tag ∧ r.image = p.image ∧ r.buffer = p.buffer ∧ r.slotShift = p.slotShift ∧ r.slots = 2 ^ p.slotsShift ∧
            r.img = m ∧ r.busy = [] ∧ t.mem = s.mem
        else ∃ t y, exec (.sluiceArm q) s = .next t ∧ t.launches.find s.launchNo = some y ∧ y.state = .finished 1 ∧
          y.source = .sluice q (s.sluice q).seq ∧ y.doneVa = p.doneVa ∧ (t.sluice q).head = (s.sluice q).head + 1 ∧
          (t.sluice q).held = none ∧ t.gangs = s.gangs)) ∧
    (s.packetDue q 5 = true → ∃ t, exec (.sluiceDisarm q) s = .next t ∧ t.sluice q = (s.sluice q).next ∧
      (∀ a, a ∈ (t.ctx (s.sluiceAsid q)).armed ↔ a ∈ (s.ctx (s.sluiceAsid q)).armed ∧ a.tag ≠ p.tag) ∧ t.launches = s.launches ∧
      t.mem = s.mem)) ∧
  (∀ (s : State) (q v : Nat) (b : List Byte), s.retestDue q = true → (s.sluice q).held = some b →
    s.semWord q (Packet6.ofBytes b) = some v → let p := Packet6.ofBytes b
    if p.kind = 2 then ∃ t, exec (.semaphoreRetest q) s = .next t ∧ s.SluiceOnly t q (s.sluice q).next
    else if p.ordered = true ∧ s.launchesOver q = false then
      ∃ t, exec (.semaphoreRetest q) s = .next t ∧ s.SluiceOnly t q { s.sluice q with held := some (passed b), blocked := false, blockCyc := 0 }
    else ∃ t, exec (.semaphoreRetest q) s = .next t ∧ s.Queues t q p) ∧
  ∀ (s : State), s.rotationDue = true → exec .rotationInterrupt s = .next { s with rotStat := true, msix := s.msix ++ [1] }

/-- R328, R324, R326, R327: a message whose tag is armed, with a free slot that holds it, writes its payload into the lowest such slot, the
rest of the slot zero, and fires a launch of the armed image, as ARM validated it, with the slot's offset: the launch joins the queue behind
the others; it is acknowledged to its source. -/
def Obligations.MessagesFire : Prop :=
  ∀ (s : State) (asid tag source k : Nat) (payload : List Byte) (a : Armed) (v : State),
    s.messageFires asid tag payload.length = true → s.armedOf asid tag = some a → State.freeSlotOf a = some k →
    let n := 2 ^ a.slotShift
    s.unitWrite asid (a.buffer + n * k) (payload ++ List.replicate (n - payload.length) 0) = .ok v →
    ∃ t y, exec (.messageArrival asid tag source payload) s = .next t ∧ t.mem = v.mem ∧
      t.launches.find s.launchNo = some y ∧ y.source = .armed a.key k ∧ y.state = .queued ∧ y.img = some a.img ∧ y.asid = asid ∧
      t.queue = s.queue ++ [s.launchNo] ∧ t.queuedClass s.launchNo = a.img.cls ∧ t.imageNow y = .ok (.ok a.img) ∧
      y.offset = some (a.buffer + n * k - (a.img.seg a.seg).1) ∧
      t.sent = s.sent ++ [(source, leBytes 4 tag)] ∧ ∀ b, b ∈ (t.ctx asid).armed → b.key = a.key → k ∈ b.busy

/-! ### The Lock -/

/-- R348, R351, R353–R358, R411, Table 15-5: the Lock's states. An enable whose checks pass leaves it idle with a full pool and nothing
taken, or in its first cycle where entries wait; one whose checks fail sets its error. A stage goes on to the next one or waits in its own
at an access, the retire stage also for room in the completion ring. A push queues the step's launch, one berth for each live request; a
Lock disabled pushes no more. That an enable fails where its context is not valid or its record is of another reach is the model's reading
(log 49, DEDUCED). -/
def Obligations.LocksCycle : Prop :=
  (∀ (s : State) (r : Nat) (v : BitVec 64), s.security.booted = true → r < 8 → v.getLsbD 0 = true → (s.lock r).enable = false →
    let u := s.enabling r v; let a := (s.lock r).asid
    (∀ ps b, s.ctxValid a = true → s.ctxReach a = r → u.unitPlaces a .read (parts (u.lockRecord r) 128) = .ok ps →
      u.unitRead a (u.lockRecord r) 128 = .ok b → let z := Setup.ofBytes b
      if (∀ p ∈ ps, keySpace p.1.pa = devSpace) ∧ setupOk b = true then
        ∃ t, exec (.lockEnable r v) s = .next t ∧ t.mem = s.mem ∧ (t.lock r).enable = true ∧ (t.lock r).asid = a ∧
          (t.lock r).served = true ∧ (t.lock r).pages = z.pool ∧ (t.lock r).out = [] ∧ (t.lock r).taken = [] ∧
          (t.lock r).stepNo = 0 ∧ (t.lock r).skipped = 0 ∧ (t.lock r).subHead = z.subHead ∧ (t.lock r).cTail = z.cTail ∧
          (t.lock r).error = ((s.lock r).error && !v.getLsbD 1) ∧
          (t.lock r).state = if z.subTail ≠ z.subHead then .retire else .idle
      else ∃ t, exec (.lockEnable r v) s = .next t ∧ (t.lock r).enable = false ∧ (t.lock r).error = true) ∧
    (s.ctxValid a = false ∨ s.ctxReach a ≠ r → ∃ t, exec (.lockEnable r v) s = .next t ∧ (t.lock r).enable = false ∧
      (t.lock r).error = true)) ∧
  (∀ (s : State) (r : Nat), (s.lock r).enable = true →
    ∃ t, exec (.lockDisable r) s = .next t ∧ (t.lock r).enable = false ∧ (t.lock r).state = .disabled ∧
      (t.lock r).error = (s.lock r).error ∧ (t.lock r).record = (s.lock r).record ∧
      { t with locks := [] } = { s with locks := [] }) ∧
  (∀ (s : State) (r : Nat) (b : List Byte), s.lockIn r .idle = true → s.unitRead (s.lock r).asid (s.lockRecord r) 128 = .ok b →
    (Setup.ofBytes b).subTail ≠ (s.lock r).subHead →
    exec (.subtailWrite r (BitVec.ofNat 32 (Setup.ofBytes b).subTail)) s = .next (s.modLock r fun x => { x with state := .retire })) ∧
  (∀ (s : State) (r l : Nat), s.lockIn r .step = true → (s.lock r).launch = some l → s.isOver l = true → s.stepBroken l = false →
    ∃ t, exec (.stepFinished r) s = .next t ∧ (t.lock r).state = .retire ∧ { t with locks := [] } = { s with locks := [] }) ∧
  (∀ (s : State) (r : Nat), (s.lock r).journal = [] →
    (s.retireDue r = true → ∃ t, exec (.lockRetire r) s = .next t ∧
      ((t.lock r).state = .retire ∨ (t.lock r).state = .reserve) ∧
      (s.Serves (LockM.retireStage r) → (t.lock r).state = .reserve ∧ (t.lock r).recent = [] ∧ (t.lock r).park = none)) ∧
    (s.lockIn r .reserve = true → ∃ t, exec (.lockReserve r) s = .next t ∧
      ((t.lock r).state = .admission ∨ (t.lock r).state = .reserve ∧ (t.lock r).park.isSome = true) ∧
      (s.Serves (LockM.reserveStage r) → (t.lock r).state = .admission ∧ (t.lock r).park = none)) ∧
    (s.lockIn r .admission = true → ∃ t, exec (.lockAdmit r) s = .next t ∧
      ((t.lock r).state = .publish ∨ (t.lock r).state = .admission ∧ (t.lock r).park.isSome = true) ∧
      (s.Serves (LockM.admitStage r) → (t.lock r).state = .publish ∧ (t.lock r).park = none)) ∧
    (s.lockIn r .publish = true → ∃ t, exec (.lockPublish r) s = .next t ∧
      ((t.lock r).state ∈ [.push, .idle, .retire] ∨ (t.lock r).state = .publish ∧ (t.lock r).park.isSome = true) ∧
      (s.Serves (LockM.publishStage r) → (t.lock r).state ∈ [.push, .idle, .retire] ∧ (t.lock r).admitted = [] ∧
        (t.lock r).park = none))) ∧
  ∀ (s : State) (r : Nat), s.lockIn r .push = true → s.queueRoom r = true → (s.lock r).journal = [] →
    ∃ t, exec (.lockPush r) s = .next t ∧
      (s.Serves (LockM.pushStage r) →
        (t.lock r).state = .step ∧ (t.lock r).launch = some s.launchNo ∧ (t.lock r).stepNo = (s.lock r).stepNo + 1 ∧
          t.queue = s.queue ++ [s.launchNo] ∧ (t.ctx (s.lock r).asid).queue = (s.ctx (s.lock r).asid).queue ++ [s.launchNo] ∧
          t.mem = s.mem ∧ ∃ y, t.launches.find s.launchNo = some y ∧ y.source = .lock r ∧ y.asid = (s.lock r).asid ∧ y.reach = r ∧
            y.state = .queued ∧ y.step = (s.lock r).stepNo + 1 ∧ y.grid = y.berths.length ∧
            (t.lock r).recent = y.berths.map fun b => b.2.1) ∧
      (¬s.Serves (LockM.pushStage r) → (t.lock r).state = .push ∧ (t.lock r).park.isSome = true)

/-- R348, R352, R356–R358: the pool. What a Lock event leaves out of the pool is a list of distinct page numbers below POOLPAGES: no page
is given to two requests. -/
def Obligations.PagesAreGivenOnce : Prop :=
  ∀ (s t : State) (i : Instr) (r : Nat),
    i = .lockRetire r ∨ i = .lockReserve r ∨ i = .lockAdmit r ∨ i = .lockPublish r ∨ i = .lockPush r ∨ (∃ v, i = .subtailWrite r v) ∨
      (∃ v, i = .lockEnable r v) ∨ i = .lockDisable r ∨ i = .stepFinished r →
    ((s.lock r).out.Pairwise (· < ·) ∧ ∀ p ∈ (s.lock r).out, p < (s.lock r).pages) → exec i s = .next t →
    (t.lock r).out.Pairwise (· < ·) ∧ ∀ p ∈ (t.lock r).out, p < (t.lock r).pages

/-! ### Translation, parks, peers and the host -/

/-- R365, R368, R369, R255, R366: an invalidation of the module begins where none runs, and completes with no named entry in any TLB and
vector 5. A write of the replay register releases the parks it names; clearing an overflow releases every park of the die. A peer's
access is performed under the local context of its node and ASID, and answered; the host's accesses reach the bytes as they stand. The key
id of the host's accesses (log 8, log 63), the codes of the answers to a peer (log 63) and the page that an invalidation covers beside the
entries still held (log 21) are the model's choice. -/
def Obligations.TranslationsAreManaged : Prop :=
  (∀ (s : State) (va asid : Nat), s.security.booted = true → s.ibusy = false →
    exec (.invalidatePage va asid) s =
      .next { s with iva := BitVec.ofNat 64 (va % 2 ^ 57), iasid := asid % 2 ^ 16, iscope := 0, ibusy := true } ∧
    (∃ t, exec (.invalidateAsid asid) s = .next t ∧ t.ibusy = true ∧ t.iscope = 1 ∧ t.iasid = asid % 2 ^ 16) ∧
    ∃ t, exec .invalidateAll s = .next t ∧ t.ibusy = true ∧ t.iscope = 2) ∧
  (∀ (s : State), s.ibusy = true → ∃ t, exec .invalidationComplete s = .next t ∧ t.ibusy = false ∧ t.msix.getLast? = some 5 ∧
    ∀ c < Config.clusters, ∀ e, e ∈ t.tlb c ↔ e ∈ s.tlb c ∧ ¬InvScope.names ⟨s.iscope, s.iva.toNat, s.iasid⟩ e) ∧
  (∀ (s : State) (d v : Nat) (c : Bool), s.security.booted = true → d < 4 →
    (∃ t, exec (.replayParkId d v c) s = .next t ∧ s.Releases t d 0 v) ∧
    (∃ t, exec (.replayAsid d v c) s = .next t ∧ s.Releases t d 1 (v % 2 ^ 16)) ∧
    (∃ t, exec (.replayDie d c) s = .next t ∧ s.Releases t d 2 0) ∧
    ((s.die d).overflow = true → ∃ t, exec (.overflowClear d) s = .next t ∧ s.Releases t d 2 0 ∧
      ((∀ l, (s.launch l).park = none) → (∀ r, (s.lock r).park = none) → (∀ g k, (s.slice g k).reserve = true) →
        (t.die d).overflow = false ∧ (t.die d).undelivered = 0))) ∧
  (∀ (s : State) (node asid va a n : Nat) (store : Bool) (data : List Byte) (xs : List (Xlat × Nat)), s.security.booted = true →
    s.peers.find? (fun p => p.1 == node && p.2.1 == asid) = some (node, n, a) →
    s.unitPlaces a (if store then .write else .read) (parts va data.length) = .ok xs →
    ∃ t, exec (.peerRequest node asid va store data) s = .next t ∧
      if store then t.mem = (s.unitPut xs data).mem ∧ t.sent = s.sent ++ [(node, [0])]
      else t.mem = s.mem ∧ t.sent = s.sent ++ [(node, (if xs.any fun x => s.poisoned x.1.pa x.2 then 2 else 0) ::
        xs.flatMap fun x => leBytes x.2 (s.homeRead x.1.pa x.1.kid x.2))]) ∧
  ∀ (s : State) (space a : Nat) (data : List Byte), s.security.booted = true → space ≤ 1 → a + data.length ≤ 2 ^ 64 →
    (s.Canonical → ∃ t, exec (.hostAccess space a true data) s = .next t ∧
      (∀ i b, data[i]? = some b → Memory.read t.mem (keyAt space 0 (a + i)) = b) ∧
      (space = devSpace → ∀ k, (∀ i < data.length, k ≠ keyAt space 0 (a + i)) → Memory.read t.mem k = Memory.read s.mem k)) ∧
    (space = devSpace → ∃ t st, exec (.hostAccess space a false data) s = .next t ∧ t.mem = s.mem ∧ (st = 0 ∨ st = 2) ∧
      t.sent = s.sent ++ [(hostNode, st :: (List.range data.length).map fun i => Memory.read s.mem (keyAt space 0 (a + i)))])

/-! ### Contexts, stops -/

/-- R373, R374, R333, R160: a pre-emption begins where none runs, and past its deadline reaches every slice. The save that completes takes
every gang of the context off the device and holds it; after a hang, which is a pre-emption past its deadline, it ends the context's
launches. A restore that finds cores brings back each gang as its area gives it, under the reach and the privilege that its context's record
then names (R360), a slice that was not parked at its word, or ends the context's launches where the area is refused. A core takes the
microprograms loaded that no slice is inside. The fault codes 0x104 and 0x105 (log 56), what the area holds beside Table 16-9 and which
cores a restore takes (log 24), and when a watchdog counts (log 57) are the model's choice. -/
def Obligations.ContextsSwitch : Prop :=
  (∀ (s : State) (asid : Nat), s.security.booted = true → s.preempt = none → s.saved.find asid = none →
    exec (.preempt asid) s = .next { s with preempt := some ⟨asid % 2 ^ 16, s.now, false, false⟩ }) ∧
  (∀ (s : State) (p : Preempt), s.preempt = some p → p.forced = false → p.since + s.deadline p.asid ≤ s.now →
    exec .preemptDeadline s = .next { s with preempt := some { p with forced := true } }) ∧
  (∀ (s : State) (p : Preempt), s.preempt = some p → s.saveDue = true → ∃ t, exec .saveComplete s = .next t ∧
    t.preempt = none ∧ t.msix.getLast? = some 6 ∧ (∀ x ∈ t.gangs, x.2.asid ≠ p.asid) ∧
    if p.hung then t.saved.find p.asid = none ∧ ∀ l y, s.launches.find l = some y → y.asid = p.asid →
      y.state = .placing ∨ y.state = .reading → (t.launch l).state = .finished 5
    else ∃ v, t.saved.find p.asid = some v ∧ v.since = s.now ∧ v.gangs.keys = (s.gangsOf p.asid).keys ∧
      ((∀ g k, (s.slice g k).pend = [] ∧ ∀ r ∈ (s.slice g k).regs, r.2.flaw = 0) → (∀ d, s.CleanAq d) → v.gangs = s.gangsOf p.asid)) ∧
  (∀ (s : State) (asid : Nat) (v : Saved) (cores : List (Nat × Nat)), s.restorePlace asid = some (v, cores) →
    match s.loadArea asid v with
    | none => ∃ t, exec (.contextRestore asid) s = .next t ∧ t.saved.find asid = none ∧ (t.ctx asid).fault = some 0x104 ∧
        t.gangs = s.gangs
    | some (ys, _) => ys.keys.Nodup → (∀ p ∈ ys, ∀ q ∈ p.2.slices, q.2.reserve = true) →
        ∃ t, exec (.contextRestore asid) s = .next t ∧ t.saved.find asid = none ∧
          (t.ctx asid).key = some (leBytes 32 (s.ctxField asid 0x20 32)) ∧
          (∀ g y, ys.find g = some y → ∃ z, t.gangs.find g = some z ∧
            { z with slices := [], core := 0, away := 0, streamNo := 0, reach := 0, system := false } =
              { y with slices := [], core := 0, away := 0, streamNo := 0, reach := 0, system := false } ∧
            z.away = y.away + (s.now - v.since) ∧ z.reach = s.ctxReach y.asid ∧ z.system = s.ctxSystem y.asid ∧
            ∀ k x, y.slices.find k = some x → x.park = none → ∃ w, z.slices.find k = some w ∧ w.pc = x.pc ∧ w.mask = x.mask ∧
              w.live = x.live ∧ w.stack = x.stack ∧ w.frames = x.frames ∧ w.regs = x.regs ∧ w.wb = x.wb ∧ w.dix = x.dix ∧
              w.halted = false) ∧
          ∀ g, ys.find g = none → t.gangs.find g = s.gangs.find g) ∧
  (∀ (s : State) (asid : Nat), s.watchdogDue asid = true → ∃ t, exec (.watchdogExpiry asid) s = .next t ∧
    t.preempt = some ⟨asid, s.now, true, true⟩ ∧ (t.ctx asid).fault = some 0x105 ∧ (t.ctx asid).watchdog = 0 ∧ t.gangs = s.gangs ∧
    t.mem = s.mem) ∧
  ∀ (s : State) (c : Nat), s.replaceDue c = true → (s.core c).loading.keys.Pairwise (· < ·) →
    ∃ t, exec (.controlStoreReplace c) s = .next t ∧ ∀ p m, (s.core c).loading.find p = some m →
      if s.insideMicro c p then (t.core c).loading.find p = some m ∧ (t.core c).store.find p = (s.core c).store.find p
      else (t.core c).loading.find p = none ∧ (t.core c).store.find p = some m

/-- R300–R302, R304, Tables 10-5, 10-6: a breakpoint stops its gang before the chain issues, with reason 2 and the breakpoint's index, a
request of the host with 9, and each stops the other gangs of the quarter with 12; a trigger line stops the gangs of every quarter set to
stop with 8. The host resumes a gang from such a stop, past the breakpoint or the watchpoint it stopped at. No slice moves. -/
def Obligations.StopsHoldAndResume : Prop :=
  (∀ (s : State) (g k i : Nat), s.canIssue g k = true → s.breakAt g k = some i → ∃ t st, exec (.breakpointStop g k) s = .next t ∧
    (t.gang g).stop = some st ∧ st.reason = 2 ∧ st.info = BitVec.ofNat 32 i ∧ st.widx = (s.slice g k).pc ∧ s.SameSlices t ∧
    ∀ h y, h ≠ g → s.gangs.find h = some y → y.quarterId = (s.gang g).quarterId → y.stop = none →
      ((t.gang h).stop.map Stop.reason) = some 12) ∧
  (∀ (s : State) (g : Nat), s.running g = true → ∃ t, exec (.hostStopRequest g) s = .next t ∧
    ((t.gang g).stop.map Stop.reason) = some 9 ∧ s.SameSlices t ∧
    ∀ h y, h ≠ g → s.gangs.find h = some y → y.quarterId = (s.gang g).quarterId → y.stop = none →
      ((t.gang h).stop.map Stop.reason) = some 12) ∧
  (∀ (s : State) (g : Nat) (y : Gang) (st : Stop), s.gangs.find g = some y → y.stop = some st → State.resumable st.reason = true →
    ∃ t, exec (.hostResume g) s = .next t ∧ (t.gang g).stop = none ∧
      (st.reason = 2 → (t.gang g).passBreak = some st.widx) ∧ (st.reason = 3 → (t.gang g).passWatch = some st.widx) ∧
      (∀ k, { t.slice g k with readySince := 0 } = { s.slice g k with readySince := 0 }) ∧ t.mem = s.mem ∧
      ∀ h, h ≠ g → t.gangs.find h = s.gangs.find h) ∧
  ∀ (s : State) (n : Nat), s.lines.contains n = true → ∃ t, exec (.triggerLine n) s = .next t ∧ s.SameSlices t ∧
    ((∀ tr ∈ s.triggers, tr.onStop = true → tr.line ≠ n) → n ∉ t.lines) ∧
    ∀ tr ∈ s.triggers, tr.line = n → tr.doStop = true → ∀ g y, s.gangs.find g = some y → y.quarterId = tr.quarter → y.stop = none →
      ∃ st, (t.gang g).stop = some st ∧ st.reason = 8 ∧ st.info = BitVec.ofNat 32 n

/-! ### The module -/

/-- R303, R332, R395–R397, R400, R401, R403–R405: the module's own events. A cap stays within 600 to 3600 watts; the fused version only
rises; a reset boots only verified images of a version the fuse allows, and leaves nothing running. A module that has not booted takes no
write of a register, no access of the host or a peer, and enables no sluice or Lock. That a reset keeps memory but for the barrier areas,
and what a saved context left (log 53), and that an error met at an access comes in the event with its severity 4 higher, a fault of an
uncovered structure as structure 8 (log 55), is the model's choice. -/
def Obligations.ModuleEventsAct : Prop :=
  (∀ (s : State) (qs : List Nat) (w : Nat), s.now % 1800 = 0 → ∃ t, exec (.powerRecompute qs w) s = .next t ∧
    t.power.throttled = qs ∧ t.power.now = BitVec.ofNat 32 (min w 3600) ∧ t.power.cap = s.power.cap ∧
    t.msix = s.msix ++ (if qs ≠ [] ∧ s.power.capped = false then [0] else []) ∧ t.gangs = s.gangs ∧ t.mem = s.mem) ∧
  (∀ (s : State) (v : Word), s.security.booted = true → ∃ t, exec (.powercapWrite v) s = .next t ∧
    t.power.cap.toNat = min (max v.toNat 600) 3600 ∧ { t with power := s.power } = s) ∧
  (∀ (s : State) (c : Nat) (z : Sampler) (g : Nat), (s.core c).sampler = some z → s.sampleDue c = true → s.Canonical →
    (((s.gangs.filter fun x => x.2.core == c).map Prod.fst)[z.turn % max ((s.gangs.filter fun x => x.2.core == c).map Prod.fst).length 1]?)
      = some g →
    ∃ t y, exec (.pcSample c) s = .next t ∧ (t.core c).sampler = some y ∧ y.turn = z.turn + 1 ∧
      if z.size ≤ z.head - z.get then y.drops = z.drops + 1 ∧ y.head = z.head ∧ t.mem = s.mem
      else y.head = z.head + 1 ∧ y.drops = z.drops ∧
        let at_ := keyAt devSpace 0 (z.ring + 16 * (z.head % max z.size 1))
        let k := (s.liveSlices g).headD 0
        t.homeRead at_ 0 4 = s.now % 2 ^ 32 ∧ t.homeRead (at_ + 4) 0 4 = (s.slice g k).pc.toNat ∧
          t.homeRead (at_ + 8) 0 4 = (s.gang g).launchId.toNat ∧ t.homeRead (at_ + 14) 0 1 = k % 256 ∧
          t.homeRead (at_ + 15) 0 1 = s.stallReason g k % 256) ∧
  (∀ (s : State) (d st sv core a : Nat) (f : Bool), d < 4 → 1 ≤ st → st ≤ 7 → sv ≤ 3 →
    ∃ t, exec (.scrub d st (if f then sv else sv + 4) core a) s = .next t ∧
    (if f = true ∨ State.errorSeverity st a sv = 0 ∨ st = 5 then
       (t.die d).erHead = (s.die d).erHead + 1 ∨ (t.die d).erDrop = (s.die d).erDrop + 1
     else (t.die d).erHead = (s.die d).erHead ∧ (t.die d).erDrop = (s.die d).erDrop) ∧
    (st = 3 → sv ≠ 0 → bitOf a 60 = false → keyAt devSpace 0 (a % 2 ^ 57) / 4 ∈ t.poison) ∧
    (f = true ∨ st = 5 → State.errorSeverity st a sv = 3 → core < 4 * Config.clusters →
      clusterOfCore core ∈ t.security.retire)) ∧
  (∀ (s : State) (d sv core a : Nat), d < 4 → 4 ≤ sv → sv ≤ 7 → ∃ t, exec (.scrub d 8 sv core a) s = .next t ∧ t.dies = s.dies ∧
    t.mem = s.mem ∧ t.poison = s.poison ∧ (sv = 4 → t = s)) ∧
  (∀ (s : State) (k : Nat), k < Config.clusters → exec (.retirementRequest k) s =
    .next { s with security := { s.security with retire := addSorted s.security.retire k } }) ∧
  (∀ (s : State) (v : Nat), exec (.securityVersionRaise v) s =
    .next { s with security := { s.security with version := max s.security.version v } }) ∧
  (∀ (s : State) (ok : Bool) (v : Nat), ∃ t, exec (.moduleReset ok v) s = .next t ∧
    (∀ a, Memory.read t.mem a = if keySpace a = basinSpace ∧ Config.basinTop ≤ keyAddr a then 0 else Memory.read s.mem a) ∧ t.cyc = 0 ∧ t.gangs = [] ∧
    t.queue = [] ∧ t.cores = [] ∧ t.locks = [] ∧ t.dies = [] ∧ t.saved = s.saved ∧ t.reaches = s.reaches ∧
    (∀ l y, t.launches.find l = some y →
      s.launches.find l = some y ∧ (s.saved.find y.asid).isSome = true ∧ y.state = .placing) ∧
    (∀ x ∈ t.threads, (s.saved.find x.2.asid).isSome = true) ∧ (∀ q, { t.sluice q with launches := [] } = Sluice.blank) ∧
    t.security.version = s.security.version ∧ t.security.retire = [] ∧
    (t.security.booted = true ↔ (ok = true ∧ s.security.version ≤ v))) ∧
  (∀ (s : State) (i : Instr), s.security.booted = false →
    (∃ a n v, i = .registerWrite a n v) ∨ (∃ x a st b, i = .hostAccess x a st b) ∨ (∃ q n, i = .sluiceDoorbell q n) ∨
      (∃ q m, i = .sluiceMap q m) ∨ (∃ r v, i = .lockEnable r v) ∨ (∃ n a v st b, i = .peerRequest n a v st b) ∨
      (∃ a, i = .preempt a) ∨ (∃ v, i = .powercapWrite v) → exec i s = .next s) ∧
  (∀ (s : State) (w r p g : Nat) (up : Bool), w ∈ [4, 8, 16] → 1 ≤ r → r ≤ 7 → p < 8 → g = 1600 ∨ g = 800 →
    exec (.linkTraining w r) s = .next { s with msix := s.msix ++ [0], link := { s.link with width := w, rate := r } } ∧
    exec (.portLinkChange p up g) s =
      .next { s with msix := s.msix ++ [0], link := { s.link with ports := s.link.ports.put p (up, g) } })

/-- R402, Table 20-5: the six SPDM requests answer, and the transcript holds every request and its answer in order. A challenge is answered
once algorithms are agreed, with the signature of the transcript and the request; what a digest, a certificate or a coding holds is a
free value (log 7). -/
def Obligations.AttestationsAnswer : Prop :=
  ∀ (s : State) (i : Instr), (match i with
      | .getVersion => True | .getCapabilities => True | .negotiateAlgorithms _ _ => True | .getCertificate _ _ _ => True
      | .challenge _ => s.security.negotiated = true | .getMeasurements n => n ≤ 7 | _ => False) →
    ∃ t q, exec i s = .next t ∧ t.security.transcript = s.security.transcript ++ q ++ t.security.response ∧
      { t with security := s.security } = s ∧
      (i = .getVersion → q = [0x84] ∧ t.security.response = [0x13]) ∧
      (i = .getCapabilities → q = [0xE1] ∧ t.security.response.length = 4) ∧
      (∀ a b, i = .negotiateAlgorithms a b → q = [0xE3] ∧ (t.security.negotiated = true ↔ a = true ∧ b = true)) ∧
      (∀ sl o n, i = .getCertificate sl o n → q = [0x82] ∧ t.security.response.length = n) ∧
      (∀ n, i = .challenge n → q = 0x83 :: leBytes 32 n.toNat ∧
        t.security.response = leBytes 96 (Config.sign (s.security.transcript ++ q)).toNat) ∧
      ∀ n, i = .getMeasurements n → q = [0xE0, BitVec.ofNat 8 n] ∧ (n = 6 → t.security.response = leBytes 4 s.security.version) ∧
        (n ∈ [1, 2, 3, 4] → t.security.response.length = 48)

/-- R5, R6, Table 13-5, Table 15-6, Table 16-4, Tables 16-6, 16-7, 20-2: a write of a register of the BAR stores what the register takes.
A count that loses the bits written as 1, a base that is held while its ring is in use, an enabled Lock's RECORD and ERROR, and fields with
bounds are as their tables say; a write that clears the enable bit disables the Lock. A read returns the register's value, and zero where nothing is. -/
def Obligations.RegistersTakeWrites : Prop :=
  ∀ (s : State) (v : BitVec 64), s.security.booted = true →
    (∀ q < 64, ∃ t, exec (.registerWrite (0x100000 + 64 * q) 8 v) s = .next t ∧ s.SluiceOnly t q { s.sluice q with base := v }) ∧
    (∀ q < 64, ∃ t, exec (.registerWrite (0x100000 + 64 * q + 8) 4 v) s = .next t ∧
      s.SluiceOnly t q { s.sluice q with size := v.truncate 32 }) ∧
    exec (.registerWrite 0xF2000 8 v) s = .next { s with ctxBase := v, ctxs := ({ s with ctxBase := v } : State).renewCtxs s } ∧
    (s.ibusy = false → exec (.registerWrite 0xF2400 8 v) s = .next { s with iva := BitVec.ofNat 64 (v.toNat % 2 ^ 57) }) ∧
    (s.ibusy = true → exec (.registerWrite 0xF2400 8 v) s = .next s) ∧
    (∀ d < 4, ∃ t, exec (.registerWrite (0xF3000 + 0x100 * d) 8 v) s = .next t ∧
      (t.die d).fbBase = if (s.die d).fbHead = (s.die d).fbGet then v else (s.die d).fbBase) ∧
    (∀ d < 4, ∃ t, exec (.registerWrite (0xF3054 + 0x100 * d) 4 v) s = .next t ∧
      t.die d = { s.die d with nqDrop := (s.die d).nqDrop &&& ~~~(v.truncate 32) }) ∧
    (∀ d < 4, ∃ t, exec (.registerWrite (0xF4018 + 0x100 * d) 4 v) s = .next t ∧
      t.die d = { s.die d with scrub := if 1 ≤ v.toNat % 256 ∧ v.toNat % 256 ≤ 4 then v.toNat % 256 else 4 }) ∧
    (∀ r < 8, (s.lock r).enable = true → v.getLsbD 0 = true → ∃ t, exec (.registerWrite (0xF1000 + 16 * r) 8 v) s = .next t ∧
      t.lock r = { s.lock r with record := v &&& ~~~63#64, error := (s.lock r).error && !v.getLsbD 1 } ∧
      { t with locks := [] } = { s with locks := [] }) ∧
    (∀ r < 8, (s.lock r).enable = true → v.getLsbD 0 = false → ∃ t, exec (.registerWrite (0xF1000 + 16 * r) 8 v) s = .next t ∧
      (t.lock r).enable = false ∧ (t.lock r).state = .disabled ∧ (t.lock r).record = v &&& ~~~63#64 ∧
      (t.lock r).error = ((s.lock r).error && !v.getLsbD 1) ∧ { t with locks := [] } = { s with locks := [] }) ∧
    (∀ q < 64, exec (.hostAccess 2 (0x100000 + 64 * q) false (List.replicate 8 0)) s =
      .next { s with sent := s.sent ++ [(hostNode, 0 :: leBytes 8 (s.sluice q).base.toNat)] }) ∧
    exec (.hostAccess 2 0xF5010 false [0]) s = .next { s with sent := s.sent ++ [(hostNode, [0, 0])] }

/-! ### Frames on the towpath -/

/-- R218, R221, R225, R226: a background spill of a slice's oldest resident frame, with no RMW result outstanding and no error in a
register, writes its record at the towpath pointer, 16 bytes at a time with its registers first and its header last, marks it spilled
and moves the pointer past it. A background refill of the newest spilled frame takes its kind and its slide from the header that ends the
record, and its registers and linkage from the record; it stops the gang with reason 6 where the header is refused or cannot be read.
A register and a header come back from their record as they went. -/
def Obligations.TowMovesFrames : Prop :=
  (∀ (s : State) (g k i : Nat) (f : Frame) (xs : List Xlat), let y := s.gang g; let x := s.slice g k
    x.frames[i]? = some f → f.spilled = false → (∀ j h, x.frames[j]? = some h → (h.spilled = true ↔ i < j)) →
    (f.kind = .callv ↔ f.vb.isSome = true) → (f.kind = .trap → f.slide = 56) →
    (∀ p ∈ x.pend, p.isRmw = false) → (∀ st, (x.regs.getOr st Reg.zero).flaw = 0) →
    s.towXlat y (towVa y k x.towPtr) .write (f.bytes / 16) = .ok xs → s.Canonical →
    ∃ t, exec (.towSpill g k) s = .next t ∧
      t.slice g k = { x with frames := x.frames.set i { f with spilled := true }, towPtr := x.towPtr + f.bytes } ∧
      s.Touches t g [k] id State.apart ∧
      (∀ b : Nat, (∀ p ∈ xs, b < p.pa / 16 * 16 ∨ (p.pa + 15) / 16 * 16 + 16 ≤ b) → Memory.read t.mem b = Memory.read s.mem b) ∧
      ∀ (j : Nat) (p : Xlat), xs[j]? = some p →
        (∀ (m : Nat) (q : Xlat), xs[m]? = some q → m ≠ j →
          (q.pa + 15) / 16 * 16 + 16 ≤ p.pa / 16 * 16 ∨ (p.pa + 15) / 16 * 16 + 16 ≤ q.pa / 16 * 16) →
        (j < f.slide → let r := x.regs.getOr (8 + (frameBase y x i + j) % y.ring) Reg.zero
          t.homeRead p.pa p.kid 16 = r.l0.toNat + 2 ^ 32 * r.l1.toNat + 2 ^ 64 * r.l2.toNat + 2 ^ 96 * r.l3.toNat) ∧
        (j + 1 = f.bytes / 16 → t.homeRead p.pa p.kid 16 = f.header % 2 ^ 128)) ∧
  (∀ (s : State) (g k i : Nat) (f : Frame) (hx : Xlat), let y := s.gang g; let x := s.slice g k
    x.frames[i]? = some f → f.spilled = true → (∀ j h, j < i → x.frames[j]? = some h → h.spilled = false) →
    s.refillFits g k = true → s.towXlat y (towVa y k (x.towPtr - 16)) .read 1 = .ok [hx] →
    (s.poisoned hx.pa 16 = true ∨ f.ofHeader (s.homeRead hx.pa hx.kid 16) = none → y.stop = none →
      ∃ t, exec (.towRefill g k) s = .next t ∧ ((t.gang g).stop.map Stop.reason) = some 6 ∧ s.SameSlices t) ∧
    ∀ h xs, s.poisoned hx.pa 16 = false → f.ofHeader (s.homeRead hx.pa hx.kid 16) = some h →
      s.towXlat y (towVa y k (x.towPtr - h.bytes)) .read (h.bytes / 16) = .ok xs → (∀ p ∈ xs, s.poisoned p.pa 16 = false) →
      ∃ t z, exec (.towRefill g k) s = .next t ∧ s.Touches t g [k] ∧ (t.slice g k).frames = x.frames.set i z ∧
        z.spilled = false ∧ z.ret = h.ret ∧ z.mask = h.mask &&& x.live ∧ z.inst = h.inst ∧ z.stk = h.stk ∧ z.kind = h.kind ∧
        z.slide = h.slide ∧ (t.slice g k).towPtr = x.towPtr - h.bytes ∧
        (let at_ (j : Nat) : Nat := 8 + (frameBase y { x with frames := x.frames.set i z } i + j) % y.ring
         (∀ j p q, j < h.slide → xs[j]? = some p → xs[h.slide + j / 16]? = some q → (t.slice g k).regs.getOr (at_ j) Reg.zero =
            Reg.ofBytes (leBytes 16 (s.homeRead p.pa p.kid 16)) (BitVec.ofNat 8 (s.homeRead q.pa q.kid 16 / 2 ^ (8 * (j % 16))))) ∧
         ∀ st, (∀ j < h.slide, at_ j ≠ st) → (t.slice g k).regs.find st = x.regs.find st) ∧
        { t.slice g k with frames := [], towPtr := 0, regs := [] } = { x with frames := [], towPtr := 0, regs := [] }) ∧
  (∀ r : Reg, r.flaw = 0 → Reg.ofBytes r.bytes r.tagByte = r) ∧
  ∀ f : Frame, f.stk ≤ 8 → (if f.kind = .trap then f.slide = 56 else f.slide ∈ [8, 16, 24, 32, 40, 48]) →
    (f.kind = .callv ↔ f.vb.isSome = true) → f.ofHeader f.header = some { f with inst := f.inst % 2 ^ 16 }

/-! ### Words and events that complete -/

/-- R141, R147, R159, R160, R186–R188, R391: where no check traps, and what the word needs is there, the system words complete. An
invalidation, a `binit`, a `btest`, a `dbrk` without a debugger and a `barr` or `mcsld` with no active lane go on at the next word, count in
`dix` and charge the gang; so does a `barr` of bytes alone that the barrier can count, an `mcsld` whose pages translate and whose operations
are legal, which is then loaded, and a `dbrk` under a debugger, whose gang stands stopped. A `callv` whose table reads and whose callee
fits has its taking slices at the entry selected and the others behind it. What a `barr` (log 69) and an `mcsld` (log 65) with no active
lane do, and which lane's pair gives `mcsld` its address, cut to 57 bits (log 65), is the model's choice. -/
def Obligations.SystemWordsComplete : Prop :=
  (∀ (s : State) (i : Instr), (match i with
      | .tlbi _ _ => True | .tlbiAsid _ _ => True | .tlbiAll _ => True | .binit _ _ _ => True | .btest _ _ _ _ => True
      | .dbrk _ _ => (s.ctx s.me.asid).debugger = false | .barr _ _ _ _ => s.lowest 0 = none | .mcsld _ _ _ => s.lowest 0 = none
      | _ => False) → s.Settled → s.trapOf i = none → ∃ t, exec i s = .next t ∧ s.Advances t i) ∧
  (∀ (s : State) (h : Hd0) (d a b : BitVec 6) (n bytes : Nat), s.Settled → s.Canonical → s.trapOf (.barr h d a b) = none →
    s.operand d = some n → s.operand a = some bytes → s.operand b = some 0 → 0 < bytes →
    (s.barrier s.me.core n).pending + bytes < 2 ^ 32 → ∃ t, exec (.barr h d a b) s = .next t ∧ s.Advances t (.barr h d a b) ∧
      t.barrier s.me.core n = { s.barrier s.me.core n with pending := (s.barrier s.me.core n).pending + bytes }) ∧
  (∀ (s : State) (h : Hd0) (a p : BitVec 6) (l : Nat) (ps : List (List (Place × Nat))), s.Settled → s.trapOf (.mcsld h a p) = none →
    s.lowest 0 = some l → (s.core s.me.core).loading.keys.Pairwise (· < ·) →
    (s.begun (.mcsld h a p)).readOps ((s.V64 a.toNat l).toNat % 2 ^ 57) 32 = .ok ps →
    let os := ((s.begun (.mcsld h a p)).loadOps (l / 4) ps).2
    os.any opRefused = false → ∃ t, exec (.mcsld h a p) s = .next t ∧ s.Advances t (.mcsld h a p) ∧
      t.micro s.me.core p.toNat = ⟨true, os⟩) ∧
  (∀ (s : State) (h : Hd0) (n : BitVec 12), s.Settled → s.trapOf (.dbrk h n) = none → (s.ctx s.me.asid).debugger = true →
    s.me.stop = none → ∃ t, exec (.dbrk h n) s = .next t ∧ s.Advances t (.dbrk h n) ∧ (t.me.stop.map Stop.reason) = some 1) ∧
  ∀ (s : State) (h : Hdr) (l o : BitVec 3) (va vb : BitVec 6) (sg : BitVec 3) (off : BitVec 29) x head c w lim, s.Settled →
    s.trapOf (.callv h l o va vb sg off) = none →
    (s.chargeWord (.callv h l o va vb sg off) 0).fenced.vplan h o va vb sg off = .go x head c w lim → s.fitsCall h.guard (8 * l.toNat) →
    ∃ t, exec (.callv h l o va vb sg off) s = .next t ∧ s.Charged t (.callv h l o va vb sg off) ∧ ∀ k ∈ s.cur.slices,
      (t.sl k).dix = (s.sl k).dix + 1 ∧ (t.sl k).pc = if s.act h.guard k = 0 then s.cur.widx + 2 else w

/-- R242–R244, R247, R248, R252, R271, R274, R278, R282, R303, R312, R324, R326, R329, R355–R358, R366, R369, R373, R374, R397: the
events whose outcome depends on what their accesses meet, where those accesses are made: an entry of the pending buffer leaves it, a dirty
word is written back, a word of an engine is read, the commands of the span array and the Trestle unit take their step, the Lock's stages
end, a launch is dequeued, a sample and an error record are written, a peer is answered, a replay is written, a context comes back. -/
def Obligations.EventsComplete : Prop :=
  (∀ (s : State) (g k : Nat) (older rest : List Pend) (q : Pend), s.laneBlocked g k q = false → q.counted = false →
    (movable Pend.isStore (s.slice g k).pend = some (older, q, rest) → ∃ t, exec (.moveRegister g k) s = .next t ∧
      (t.slice g k).pend = older ++ rest ∧ { t.slice g k with pend := [] } = { s.slice g k with pend := [] }) ∧
    (movable Pend.isRmw (s.slice g k).pend = some (older, q, rest) → ∃ t, exec (.moveAtomic g k) s = .next t ∧
      (t.slice g k).pend = older ++ rest ∧ { t.slice g k with pend := [], regs := [] } = { s.slice g k with pend := [], regs := [] })) ∧
  (∀ (s : State) (g k : Nat) (p : Pend), (s.slice g k).pend.head? = some p → p.kind = .release →
    ∃ t, exec (.moveReleaseComplete g k) s = .next t ∧ (t.slice g k).pend = (s.slice g k).pend.tail) ∧
  (∀ (s : State) (die key : Nat) (a : AqWord), (s.die die).aq.find (key / 4) = some a → a.dirty ≠ 0 → s.stillWritable (key / 4) a = true →
    ∃ t, exec (.moveWriteBack die key) s = .next t ∧ (t.die die).aq.find (key / 4) = some { a with dirty := 0, whole := false, dirtied := [] }) ∧
  (∀ (s : State) (i n : Nat) (r : Row) (x : Xlat), let t := s.thread i
    t.ended = none → t.parks.find n = none → (t.kind = .matrix → t.fired = true ∨ s.leaving t.asid = false) → s.slowed t = false →
    n ∉ t.todo → n < s.extent t → t.byte n = none →
    s.rowOf t false n = some r → s.reachBad t.asid r.space r.base r.len = false →
    s.enginePlace t r.space (r.word n).2.1 .read = .ok x → ∃ u, exec (.engineAccess i n) s = .next u ∧
      ∀ j < (r.word n).2.2, ((u.thread i).buffer.find ((r.word n).1 + j)).isSome = true) ∧
  (∀ (s : State) (core i : Nat), s.spanHead core = some i → (s.thread i).core = core → let c := MatCmd.ofBytes (s.thread i).record
    let x := s.slot core c.slot
    (∀ j, s.spanJob i c x none = .ok j →
      (s.spanReady core (· == 0) MatCmd.opens = true → ∃ u, exec (.matrixOpen core) s = .next u ∧ u.mem = s.mem ∧
        u.slot core c.slot = (Slot.start j false).accumulate j (State.keptCmd (s.thread i)) (s.thread i).widx) ∧
      (s.spanReady core (· == 0) (fun c => !c.opens) = true → ∃ u, exec (.matrixAccumulate core) s = .next u ∧ u.mem = s.mem ∧
        u.slot core c.slot = x.accumulate j (State.keptCmd (s.thread i)) (s.thread i).widx)) ∧
    ∀ o, s.spanReady core (· == 1) MatCmd.closes = true → s.closeJob i c x = .ok o → x.checked = true →
      ∃ u, exec (.matrixClose core) s = .next u ∧ (u.thread i).fired = true ∧
        (∀ n, (u.thread i).buffer.find n = (s.outputOf i x o.2 o.1.format (s.thread i).widx).1[n]?)) ∧
  (∀ (s : State) (i : Nat) (o : List Byte × Bool), s.trestleReady i = true →
    s.trestleOut i (TrestleCmd.ofBytes (s.thread i).record) = .ok o → ∃ u, exec (.trestleThread i) s = .next u ∧
      (u.thread i).fired = true ∧ u.mem = s.mem) ∧
  (∀ (s : State) (r : Nat), (s.lock r).journal = [] →
    (s.retireDue r = true → s.Serves (LockM.retireStage r) → ∃ t, exec (.lockRetire r) s = .next t ∧ (t.lock r).state = .reserve) ∧
    (s.lockIn r .reserve = true → s.Serves (LockM.reserveStage r) → ∃ t, exec (.lockReserve r) s = .next t ∧
      (t.lock r).state = .admission) ∧
    (s.lockIn r .admission = true → s.Serves (LockM.admitStage r) → ∃ t, exec (.lockAdmit r) s = .next t ∧
      (t.lock r).state = .publish) ∧
    (s.lockIn r .publish = true → s.Serves (LockM.publishStage r) → ∃ t, exec (.lockPublish r) s = .next t ∧
      (t.lock r).state ∈ [.push, .idle, .retire]) ∧
    (s.lockIn r .push = true → s.queueRoom r = true → s.Serves (LockM.pushStage r) → ∃ t, exec (.lockPush r) s = .next t ∧
      (t.lock r).state = .step ∧ t.queue = s.queue ++ [s.launchNo])) ∧
  (∀ (s : State) (l : Nat) (y : Launch) (m : Image), s.rereads = none → s.placedBefore = true → s.nextQueued = some l →
    s.launches.find l = some y → y.cores = [] → s.ctxValid y.asid = true → State.localSets m = [] →
    s.imageNow y = .ok (.ok m) →
    ∃ t, exec .launchDequeue s = .next t ∧ (t.launch l).state = .placing ∧ (t.launch l).img = some m) ∧
  (∀ (s : State) (c : Nat) (z : Sampler), (s.core c).sampler = some z → s.sampleDue c = true → z.head - z.get < z.size →
    (∃ g ∈ s.gangs, g.2.core = c) → ∃ t y, exec (.pcSample c) s = .next t ∧ (t.core c).sampler = some y ∧ y.head = z.head + 1) ∧
  (∀ (s : State) (d st core a : Nat), d < 4 → 1 ≤ st → st ≤ 7 → ((s.die d).erHead - (s.die d).erGet).toNat < (s.die d).erSize.toNat →
    let off := (s.die d).erBase.toNat + 32 * ((s.die d).erHead.toNat % (s.die d).erSize.toNat)
    off + 32 ≤ Config.hbmBytes → s.poisoned (keyAt devSpace 0 off) 32 = false →
    ∃ t, exec (.scrub d st 0 core a) s = .next t ∧ (t.die d).erHead = (s.die d).erHead + 1 ∧ t.poison = s.poison) ∧
  (∀ (s : State) (node asid va n a : Nat) (data : List Byte) (xs : List (Xlat × Nat)), s.security.booted = true →
    s.peers.find? (fun p => p.1 == node && p.2.1 == asid) = some (node, n, a) →
    s.unitPlaces a .write (parts va data.length) = .ok xs → ∃ t, exec (.peerRequest node asid va true data) s = .next t ∧
      t.mem = (s.unitPut xs data).mem ∧ t.sent = s.sent ++ [(node, [0])]) ∧
  (∀ (s : State) (d v : Nat) (c : Bool), s.security.booted = true → d < 4 →
    let w (scope n : Nat) := BitVec.ofNat 64 (n % 2 ^ 32 + scope * 2 ^ 32 + if c then 2 ^ 34 else 0)
    (∃ t, exec (.replayParkId d v c) s = .next t ∧ (t.die d).replayReg = w 0 v) ∧
    (∃ t, exec (.replayAsid d v c) s = .next t ∧ (t.die d).replayReg = w 1 v) ∧
    ∃ t, exec (.replayDie d c) s = .next t ∧ (t.die d).replayReg = w 2 0) ∧
  ∀ (s : State) (asid : Nat) (v : Saved) (cores : List (Nat × Nat)) (ys : FMap Gang) (cs : List CoreLoad),
    s.restorePlace asid = some (v, cores) → s.loadArea asid v = some (ys, cs) → ∃ t, exec (.contextRestore asid) s = .next t ∧
      t.saved.find asid = none ∧ ∀ g, (ys.find g).isSome = true → (t.gangs.find g).isSome = true

/-! ### The machine as a whole -/

/-- The Reset columns of Tables 13-5, 15-6, 16-6, 16-7, 20-2, R332, R399: the module right after reset. Memory that nothing has written
reads as zero by the model's own choice (log 2), and what the spec gives no reset value stands as log 3 says. -/
def Obligations.ResetStands : Prop :=
  State.reset.Canonical ∧ State.reset.Sorted ∧ State.reset.Bounded ∧ State.reset.cyc = 0 ∧ State.reset.gangs = [] ∧
    State.reset.launches = [] ∧ (∀ a, Memory.read State.reset.mem a = 0) ∧ State.reset.power.cap = 3600 ∧
    (∀ q, State.reset.sluice q = Sluice.blank ∧ (State.reset.sluice q).mapped = false ∧ (State.reset.sluice q).error = none) ∧
    (∀ r, (State.reset.lock r).enable = false ∧ (State.reset.lock r).error = false ∧ (State.reset.lock r).record = 0) ∧
    (∀ d, (State.reset.die d).scrub = 4 ∧ (State.reset.die d).fbHead = 0 ∧ (State.reset.die d).fbGet = 0 ∧
      (State.reset.die d).overflow = false ∧ (State.reset.die d).nqHead = 0 ∧ (State.reset.die d).erHead = 0) ∧
    State.reset.ibusy = false ∧ State.reset.security.remap.length = 104

/-- R8, R35, R46, Table 2-1: words written out field by field from the spec's encodings decode to what they stand for. -/
def Obligations.DecodesSpecWords : Prop :=
  -- C = 1, S = 2, OP = 0x01, G = 3, D = 4, A = 5, B = 6: add
  decode 0b1_010_0000001_011_000100_000101_000110#32 0 0 = .ok (.add ⟨true, 2, 3⟩ 4 5 6) ∧
  -- G = 1, OP = 0x40 with an 18-bit offset of -2: bra
  decode 0b0_000_1000000_001_111111111111111110#32 0 0 = .ok (.bra ⟨false, 0, 1⟩ (-2)) ∧
  -- OP = 0x09 owns one literal: addl
  decode 0b0_000_0001001_000_000001_000010_000000#32 0x12345678 0 = .ok (.addl ⟨false, 0, 0⟩ 1 2 0x12345678) ∧
  -- an opcode that Table 2-6 does not give
  ∀ l0 l1, decode 0b0_000_0011111_000_000000_000000_000000#32 l0 l1 = .error .reservedOpcode

/-- R36–R41, R66, R330: A STEP RUNS THE DECODED INSTRUCTION. Where no trap is due and a set is chosen, stands at no breakpoint and in no
microprogram, and the packet at its word index is legal and gives a one-word chain that decodes to `i`, the step is `exec i` at the state
with that set issuing that word, then: where the word found no room in an engine's queue the set waits for it, the quarter has issued, and
watchdogs of contexts that made progress restart. An event that the agenda brings is `exec` of it; and where nothing is due a cycle
passes. The order in which a step takes the agenda, a trap that is due, the issue of a set, the module's own events and the cycle is the
model's choice (log 1). -/
def Obligations.StepRunsDecoded : Prop :=
  (∀ (s : State) (r : Ready) (p : Packet) (j : Nat) (i : Instr), s.agenda = [] → s.renew.trapEvent = none → s.renew.nextSet = some r →
    let k := r.slices.headD 0; let x := s.renew.slice r.gang k; let t := s.renew.landFlights r.gang r.slices
    s.renew.breakAt r.gang k = none → x.macroAt = none → x.pc.toNat < (s.gang r.gang).codeLimit →
    t.packet (t.gang r.gang) x.pc.toNat = .ok p → p.bad = none → x.pc.toNat % 3 ∈ p.starts → State.slotsOf x p = [j] →
    decode (p.at j) (p.at (j + 1)) (p.at (j + 2)) = .ok i →
    let b := x.pc.toNat - x.pc.toNat % 3
    let next := if x.replay.isSome then x.next.toNat else b + j + 1 + opLits (p.at j)
    let c : Issue := { t.atWord r.gang r.slices (b + j) x.pc.toNat next with stall := opStall (p.at j) }
    ∀ v, exec i { t.renew with cur := c } = .next v →
      step s = .next (State.settleStep s ((if v.cur.raised = none ∧ v.queued r.gang r.slices = true then t.queueAll c r.slices
        else v).afterIssue r x.pc.toNat (s.gang r.gang).quarterId s.renew.now))) ∧
  (∀ (s : State) (i : Instr) (r : List (Option Instr)) (v : State), s.agenda = some i :: r → isEvent i = true →
    exec i { s.renew with agenda := r } = .next v → step s = .next (State.settleStep s v)) ∧
  ∀ s : State, s.agenda = [] → s.renew.trapEvent = none → s.renew.nextSet = none → s.renew.ownEvent = none →
    ∃ t, step s = .next t ∧ t.cyc = s.cyc + 1

/-- R8, R35, R37, R46, Table 2-6: DECODE AND ENCODE AGREE. The words of every legal instruction, whatever its operands, decode to it, with
whatever follows them left over; and a word that decodes has the encoding it was decoded from, with the literals its opcode owns. -/
def Obligations.EncodingRoundTrips : Prop :=
  (∀ (i : Instr) (rest : List Byte), i.wf = true → isEvent i = false →
    decodeBytes ((encode i).flatMap bytesOfWord ++ rest) = .ok (i, rest)) ∧
  ∀ (w l0 l1 : Word) (i : Instr), decode w l0 l1 = .ok i → isEvent i = false ∧ encode i = (w :: [l0, l1]).take (1 + literals w)

/-- Every step leaves memory in its one canonical form. -/
def Obligations.StepKeepsMemoryCanonical : Prop :=
  ∀ s t : State, s.Canonical → step s = .next t → t.Canonical

/-- Every step leaves the maps of gangs, slices and microprograms with each key once, rising. -/
def Obligations.StepKeepsMapsSorted : Prop :=
  ∀ s t : State, s.Sorted → step s = .next t → t.Sorted

/-- R50, R332, R401: every step leaves p0 hard-wired and the power cap within its bounds, and none lowers the fused version. -/
def Obligations.StepKeepsBounds : Prop :=
  ∀ s t : State, step s = .next t → (s.Bounded → t.Bounded) ∧ s.security.version ≤ t.security.version

/-- R96: the shifts by a register. Each shifts the 32-bit lane word of a by the lane word of b read as unsigned, under a's tag; a tag of a
outside BITS, or of b other than I32, U32 or RAW, in a slice of the issuing set raises a format fault. -/
def Obligations.ShiftsFillOrRotate : Prop :=
  ∀ (s : State) (i : Instr) (op : Nat) (d a b : BitVec 6) (f : Word → Nat → Word), shiftOf i = some (op, d, a, b, f) →
    (encode i).map (fun w => (w.extractLsb' 21 7).toNat) = [op] ∧
    (s.Settled → s.trapOf i = none → ∃ t, exec i s = .next t ∧
      s.Delivers t i (s.like d a fun l => f (s.V a.toNat l) (s.V b.toNat l).toNat)) ∧
    ((s.formatFault i).isSome = true ↔
      ∃ k ∈ s.cur.slices, s.tagOf k a.toNat ∉ [.raw, .i32, .u32] ∨ s.tagOf k b.toNat ∉ [.raw, .i32, .u32])

end
end

