-- ==== Sys2Proof/Laws/State.lean ====
section
/-! SUPPORT. One lemma per field of State per update of it. -/

namespace Sys2Proof.Machine.State

@[simp] theorem modGang_cyc (s : State) (g : Nat) (f : Gang → Gang) : (s.modGang g f).cyc = s.cyc := rfl
@[simp] theorem modGang_gangNo (s : State) (g : Nat) (f : Gang → Gang) : (s.modGang g f).gangNo = s.gangNo := rfl
@[simp] theorem modGang_launches (s : State) (g : Nat) (f : Gang → Gang) : (s.modGang g f).launches = s.launches := rfl
@[simp] theorem modGang_launchNo (s : State) (g : Nat) (f : Gang → Gang) : (s.modGang g f).launchNo = s.launchNo := rfl
@[simp] theorem modGang_queue (s : State) (g : Nat) (f : Gang → Gang) : (s.modGang g f).queue = s.queue := rfl
@[simp] theorem modGang_placing (s : State) (g : Nat) (f : Gang → Gang) : (s.modGang g f).placing = s.placing := rfl
@[simp] theorem modGang_threads (s : State) (g : Nat) (f : Gang → Gang) : (s.modGang g f).threads = s.threads := rfl
@[simp] theorem modGang_threadNo (s : State) (g : Nat) (f : Gang → Gang) : (s.modGang g f).threadNo = s.threadNo := rfl
@[simp] theorem modGang_cores (s : State) (g : Nat) (f : Gang → Gang) : (s.modGang g f).cores = s.cores := rfl
@[simp] theorem modGang_clusters (s : State) (g : Nat) (f : Gang → Gang) : (s.modGang g f).clusters = s.clusters := rfl
@[simp] theorem modGang_dies (s : State) (g : Nat) (f : Gang → Gang) : (s.modGang g f).dies = s.dies := rfl
@[simp] theorem modGang_sluices (s : State) (g : Nat) (f : Gang → Gang) : (s.modGang g f).sluices = s.sluices := rfl
@[simp] theorem modGang_locks (s : State) (g : Nat) (f : Gang → Gang) : (s.modGang g f).locks = s.locks := rfl
@[simp] theorem modGang_ctxs (s : State) (g : Nat) (f : Gang → Gang) : (s.modGang g f).ctxs = s.ctxs := rfl
@[simp] theorem modGang_reaches (s : State) (g : Nat) (f : Gang → Gang) : (s.modGang g f).reaches = s.reaches := rfl
@[simp] theorem modGang_mem (s : State) (g : Nat) (f : Gang → Gang) : (s.modGang g f).mem = s.mem := rfl
@[simp] theorem modGang_co (s : State) (g : Nat) (f : Gang → Gang) : (s.modGang g f).co = s.co := rfl
@[simp] theorem modGang_poison (s : State) (g : Nat) (f : Gang → Gang) : (s.modGang g f).poison = s.poison := rfl
@[simp] theorem modGang_keyOf (s : State) (g : Nat) (f : Gang → Gang) : (s.modGang g f).keyOf = s.keyOf := rfl
@[simp] theorem modGang_own (s : State) (g : Nat) (f : Gang → Gang) : (s.modGang g f).own = s.own := rfl
@[simp] theorem modGang_homes (s : State) (g : Nat) (f : Gang → Gang) : (s.modGang g f).homes = s.homes := rfl
@[simp] theorem modGang_ctxBase (s : State) (g : Nat) (f : Gang → Gang) : (s.modGang g f).ctxBase = s.ctxBase := rfl
@[simp] theorem modGang_rotate (s : State) (g : Nat) (f : Gang → Gang) : (s.modGang g f).rotate = s.rotate := rfl
@[simp] theorem modGang_unmapped (s : State) (g : Nat) (f : Gang → Gang) : (s.modGang g f).unmapped = s.unmapped := rfl
@[simp] theorem modGang_rotStat (s : State) (g : Nat) (f : Gang → Gang) : (s.modGang g f).rotStat = s.rotStat := rfl
@[simp] theorem modGang_iva (s : State) (g : Nat) (f : Gang → Gang) : (s.modGang g f).iva = s.iva := rfl
@[simp] theorem modGang_iasid (s : State) (g : Nat) (f : Gang → Gang) : (s.modGang g f).iasid = s.iasid := rfl
@[simp] theorem modGang_iscope (s : State) (g : Nat) (f : Gang → Gang) : (s.modGang g f).iscope = s.iscope := rfl
@[simp] theorem modGang_ibusy (s : State) (g : Nat) (f : Gang → Gang) : (s.modGang g f).ibusy = s.ibusy := rfl
@[simp] theorem modGang_preempt (s : State) (g : Nat) (f : Gang → Gang) : (s.modGang g f).preempt = s.preempt := rfl
@[simp] theorem modGang_peers (s : State) (g : Nat) (f : Gang → Gang) : (s.modGang g f).peers = s.peers := rfl
@[simp] theorem modGang_refuses (s : State) (g : Nat) (f : Gang → Gang) : (s.modGang g f).refuses = s.refuses := rfl
@[simp] theorem modGang_msix (s : State) (g : Nat) (f : Gang → Gang) : (s.modGang g f).msix = s.msix := rfl
@[simp] theorem modGang_sent (s : State) (g : Nat) (f : Gang → Gang) : (s.modGang g f).sent = s.sent := rfl
@[simp] theorem modGang_triggers (s : State) (g : Nat) (f : Gang → Gang) : (s.modGang g f).triggers = s.triggers := rfl
@[simp] theorem modGang_lines (s : State) (g : Nat) (f : Gang → Gang) : (s.modGang g f).lines = s.lines := rfl
@[simp] theorem modGang_stoppedCounters (s : State) (g : Nat) (f : Gang → Gang) : (s.modGang g f).stoppedCounters = s.stoppedCounters := rfl
@[simp] theorem modGang_security (s : State) (g : Nat) (f : Gang → Gang) : (s.modGang g f).security = s.security := rfl
@[simp] theorem modGang_link (s : State) (g : Nat) (f : Gang → Gang) : (s.modGang g f).link = s.link := rfl
@[simp] theorem modGang_power (s : State) (g : Nat) (f : Gang → Gang) : (s.modGang g f).power = s.power := rfl
@[simp] theorem modGang_quay (s : State) (g : Nat) (f : Gang → Gang) : (s.modGang g f).quay = s.quay := rfl
@[simp] theorem modGang_saved (s : State) (g : Nat) (f : Gang → Gang) : (s.modGang g f).saved = s.saved := rfl
@[simp] theorem modGang_cur (s : State) (g : Nat) (f : Gang → Gang) : (s.modGang g f).cur = s.cur := rfl
@[simp] theorem modGang_agenda (s : State) (g : Nat) (f : Gang → Gang) : (s.modGang g f).agenda = s.agenda := rfl
@[simp] theorem modGang_issued (s : State) (g : Nat) (f : Gang → Gang) : (s.modGang g f).issued = s.issued := rfl
@[simp] theorem modGang_fresh (s : State) (g : Nat) (f : Gang → Gang) : (s.modGang g f).fresh = s.fresh := rfl

@[simp] theorem modSlice_cyc (s : State) (g k : Nat) (f : Slice → Slice) : (s.modSlice g k f).cyc = s.cyc := rfl
@[simp] theorem modSlice_gangNo (s : State) (g k : Nat) (f : Slice → Slice) : (s.modSlice g k f).gangNo = s.gangNo := rfl
@[simp] theorem modSlice_launches (s : State) (g k : Nat) (f : Slice → Slice) : (s.modSlice g k f).launches = s.launches := rfl
@[simp] theorem modSlice_launchNo (s : State) (g k : Nat) (f : Slice → Slice) : (s.modSlice g k f).launchNo = s.launchNo := rfl
@[simp] theorem modSlice_queue (s : State) (g k : Nat) (f : Slice → Slice) : (s.modSlice g k f).queue = s.queue := rfl
@[simp] theorem modSlice_placing (s : State) (g k : Nat) (f : Slice → Slice) : (s.modSlice g k f).placing = s.placing := rfl
@[simp] theorem modSlice_threads (s : State) (g k : Nat) (f : Slice → Slice) : (s.modSlice g k f).threads = s.threads := rfl
@[simp] theorem modSlice_threadNo (s : State) (g k : Nat) (f : Slice → Slice) : (s.modSlice g k f).threadNo = s.threadNo := rfl
@[simp] theorem modSlice_cores (s : State) (g k : Nat) (f : Slice → Slice) : (s.modSlice g k f).cores = s.cores := rfl
@[simp] theorem modSlice_clusters (s : State) (g k : Nat) (f : Slice → Slice) : (s.modSlice g k f).clusters = s.clusters := rfl
@[simp] theorem modSlice_dies (s : State) (g k : Nat) (f : Slice → Slice) : (s.modSlice g k f).dies = s.dies := rfl
@[simp] theorem modSlice_sluices (s : State) (g k : Nat) (f : Slice → Slice) : (s.modSlice g k f).sluices = s.sluices := rfl
@[simp] theorem modSlice_locks (s : State) (g k : Nat) (f : Slice → Slice) : (s.modSlice g k f).locks = s.locks := rfl
@[simp] theorem modSlice_ctxs (s : State) (g k : Nat) (f : Slice → Slice) : (s.modSlice g k f).ctxs = s.ctxs := rfl
@[simp] theorem modSlice_reaches (s : State) (g k : Nat) (f : Slice → Slice) : (s.modSlice g k f).reaches = s.reaches := rfl
@[simp] theorem modSlice_mem (s : State) (g k : Nat) (f : Slice → Slice) : (s.modSlice g k f).mem = s.mem := rfl
@[simp] theorem modSlice_co (s : State) (g k : Nat) (f : Slice → Slice) : (s.modSlice g k f).co = s.co := rfl
@[simp] theorem modSlice_poison (s : State) (g k : Nat) (f : Slice → Slice) : (s.modSlice g k f).poison = s.poison := rfl
@[simp] theorem modSlice_keyOf (s : State) (g k : Nat) (f : Slice → Slice) : (s.modSlice g k f).keyOf = s.keyOf := rfl
@[simp] theorem modSlice_own (s : State) (g k : Nat) (f : Slice → Slice) : (s.modSlice g k f).own = s.own := rfl
@[simp] theorem modSlice_homes (s : State) (g k : Nat) (f : Slice → Slice) : (s.modSlice g k f).homes = s.homes := rfl
@[simp] theorem modSlice_ctxBase (s : State) (g k : Nat) (f : Slice → Slice) : (s.modSlice g k f).ctxBase = s.ctxBase := rfl
@[simp] theorem modSlice_rotate (s : State) (g k : Nat) (f : Slice → Slice) : (s.modSlice g k f).rotate = s.rotate := rfl
@[simp] theorem modSlice_unmapped (s : State) (g k : Nat) (f : Slice → Slice) : (s.modSlice g k f).unmapped = s.unmapped := rfl
@[simp] theorem modSlice_rotStat (s : State) (g k : Nat) (f : Slice → Slice) : (s.modSlice g k f).rotStat = s.rotStat := rfl
@[simp] theorem modSlice_iva (s : State) (g k : Nat) (f : Slice → Slice) : (s.modSlice g k f).iva = s.iva := rfl
@[simp] theorem modSlice_iasid (s : State) (g k : Nat) (f : Slice → Slice) : (s.modSlice g k f).iasid = s.iasid := rfl
@[simp] theorem modSlice_iscope (s : State) (g k : Nat) (f : Slice → Slice) : (s.modSlice g k f).iscope = s.iscope := rfl
@[simp] theorem modSlice_ibusy (s : State) (g k : Nat) (f : Slice → Slice) : (s.modSlice g k f).ibusy = s.ibusy := rfl
@[simp] theorem modSlice_preempt (s : State) (g k : Nat) (f : Slice → Slice) : (s.modSlice g k f).preempt = s.preempt := rfl
@[simp] theorem modSlice_peers (s : State) (g k : Nat) (f : Slice → Slice) : (s.modSlice g k f).peers = s.peers := rfl
@[simp] theorem modSlice_refuses (s : State) (g k : Nat) (f : Slice → Slice) : (s.modSlice g k f).refuses = s.refuses := rfl
@[simp] theorem modSlice_msix (s : State) (g k : Nat) (f : Slice → Slice) : (s.modSlice g k f).msix = s.msix := rfl
@[simp] theorem modSlice_sent (s : State) (g k : Nat) (f : Slice → Slice) : (s.modSlice g k f).sent = s.sent := rfl
@[simp] theorem modSlice_triggers (s : State) (g k : Nat) (f : Slice → Slice) : (s.modSlice g k f).triggers = s.triggers := rfl
@[simp] theorem modSlice_lines (s : State) (g k : Nat) (f : Slice → Slice) : (s.modSlice g k f).lines = s.lines := rfl
@[simp] theorem modSlice_stoppedCounters (s : State) (g k : Nat) (f : Slice → Slice) : (s.modSlice g k f).stoppedCounters = s.stoppedCounters := rfl
@[simp] theorem modSlice_security (s : State) (g k : Nat) (f : Slice → Slice) : (s.modSlice g k f).security = s.security := rfl
@[simp] theorem modSlice_link (s : State) (g k : Nat) (f : Slice → Slice) : (s.modSlice g k f).link = s.link := rfl
@[simp] theorem modSlice_power (s : State) (g k : Nat) (f : Slice → Slice) : (s.modSlice g k f).power = s.power := rfl
@[simp] theorem modSlice_quay (s : State) (g k : Nat) (f : Slice → Slice) : (s.modSlice g k f).quay = s.quay := rfl
@[simp] theorem modSlice_saved (s : State) (g k : Nat) (f : Slice → Slice) : (s.modSlice g k f).saved = s.saved := rfl
@[simp] theorem modSlice_cur (s : State) (g k : Nat) (f : Slice → Slice) : (s.modSlice g k f).cur = s.cur := rfl
@[simp] theorem modSlice_agenda (s : State) (g k : Nat) (f : Slice → Slice) : (s.modSlice g k f).agenda = s.agenda := rfl
@[simp] theorem modSlice_issued (s : State) (g k : Nat) (f : Slice → Slice) : (s.modSlice g k f).issued = s.issued := rfl
@[simp] theorem modSlice_fresh (s : State) (g k : Nat) (f : Slice → Slice) : (s.modSlice g k f).fresh = s.fresh := rfl

@[simp] theorem modMe_cyc (s : State) (f : Gang → Gang) : (s.modMe f).cyc = s.cyc := rfl
@[simp] theorem modMe_gangNo (s : State) (f : Gang → Gang) : (s.modMe f).gangNo = s.gangNo := rfl
@[simp] theorem modMe_launches (s : State) (f : Gang → Gang) : (s.modMe f).launches = s.launches := rfl
@[simp] theorem modMe_launchNo (s : State) (f : Gang → Gang) : (s.modMe f).launchNo = s.launchNo := rfl
@[simp] theorem modMe_queue (s : State) (f : Gang → Gang) : (s.modMe f).queue = s.queue := rfl
@[simp] theorem modMe_placing (s : State) (f : Gang → Gang) : (s.modMe f).placing = s.placing := rfl
@[simp] theorem modMe_threads (s : State) (f : Gang → Gang) : (s.modMe f).threads = s.threads := rfl
@[simp] theorem modMe_threadNo (s : State) (f : Gang → Gang) : (s.modMe f).threadNo = s.threadNo := rfl
@[simp] theorem modMe_cores (s : State) (f : Gang → Gang) : (s.modMe f).cores = s.cores := rfl
@[simp] theorem modMe_clusters (s : State) (f : Gang → Gang) : (s.modMe f).clusters = s.clusters := rfl
@[simp] theorem modMe_dies (s : State) (f : Gang → Gang) : (s.modMe f).dies = s.dies := rfl
@[simp] theorem modMe_sluices (s : State) (f : Gang → Gang) : (s.modMe f).sluices = s.sluices := rfl
@[simp] theorem modMe_locks (s : State) (f : Gang → Gang) : (s.modMe f).locks = s.locks := rfl
@[simp] theorem modMe_ctxs (s : State) (f : Gang → Gang) : (s.modMe f).ctxs = s.ctxs := rfl
@[simp] theorem modMe_reaches (s : State) (f : Gang → Gang) : (s.modMe f).reaches = s.reaches := rfl
@[simp] theorem modMe_mem (s : State) (f : Gang → Gang) : (s.modMe f).mem = s.mem := rfl
@[simp] theorem modMe_co (s : State) (f : Gang → Gang) : (s.modMe f).co = s.co := rfl
@[simp] theorem modMe_poison (s : State) (f : Gang → Gang) : (s.modMe f).poison = s.poison := rfl
@[simp] theorem modMe_keyOf (s : State) (f : Gang → Gang) : (s.modMe f).keyOf = s.keyOf := rfl
@[simp] theorem modMe_own (s : State) (f : Gang → Gang) : (s.modMe f).own = s.own := rfl
@[simp] theorem modMe_homes (s : State) (f : Gang → Gang) : (s.modMe f).homes = s.homes := rfl
@[simp] theorem modMe_ctxBase (s : State) (f : Gang → Gang) : (s.modMe f).ctxBase = s.ctxBase := rfl
@[simp] theorem modMe_rotate (s : State) (f : Gang → Gang) : (s.modMe f).rotate = s.rotate := rfl
@[simp] theorem modMe_unmapped (s : State) (f : Gang → Gang) : (s.modMe f).unmapped = s.unmapped := rfl
@[simp] theorem modMe_rotStat (s : State) (f : Gang → Gang) : (s.modMe f).rotStat = s.rotStat := rfl
@[simp] theorem modMe_iva (s : State) (f : Gang → Gang) : (s.modMe f).iva = s.iva := rfl
@[simp] theorem modMe_iasid (s : State) (f : Gang → Gang) : (s.modMe f).iasid = s.iasid := rfl
@[simp] theorem modMe_iscope (s : State) (f : Gang → Gang) : (s.modMe f).iscope = s.iscope := rfl
@[simp] theorem modMe_ibusy (s : State) (f : Gang → Gang) : (s.modMe f).ibusy = s.ibusy := rfl
@[simp] theorem modMe_preempt (s : State) (f : Gang → Gang) : (s.modMe f).preempt = s.preempt := rfl
@[simp] theorem modMe_peers (s : State) (f : Gang → Gang) : (s.modMe f).peers = s.peers := rfl
@[simp] theorem modMe_refuses (s : State) (f : Gang → Gang) : (s.modMe f).refuses = s.refuses := rfl
@[simp] theorem modMe_msix (s : State) (f : Gang → Gang) : (s.modMe f).msix = s.msix := rfl
@[simp] theorem modMe_sent (s : State) (f : Gang → Gang) : (s.modMe f).sent = s.sent := rfl
@[simp] theorem modMe_triggers (s : State) (f : Gang → Gang) : (s.modMe f).triggers = s.triggers := rfl
@[simp] theorem modMe_lines (s : State) (f : Gang → Gang) : (s.modMe f).lines = s.lines := rfl
@[simp] theorem modMe_stoppedCounters (s : State) (f : Gang → Gang) : (s.modMe f).stoppedCounters = s.stoppedCounters := rfl
@[simp] theorem modMe_security (s : State) (f : Gang → Gang) : (s.modMe f).security = s.security := rfl
@[simp] theorem modMe_link (s : State) (f : Gang → Gang) : (s.modMe f).link = s.link := rfl
@[simp] theorem modMe_power (s : State) (f : Gang → Gang) : (s.modMe f).power = s.power := rfl
@[simp] theorem modMe_quay (s : State) (f : Gang → Gang) : (s.modMe f).quay = s.quay := rfl
@[simp] theorem modMe_saved (s : State) (f : Gang → Gang) : (s.modMe f).saved = s.saved := rfl
@[simp] theorem modMe_cur (s : State) (f : Gang → Gang) : (s.modMe f).cur = s.cur := rfl
@[simp] theorem modMe_agenda (s : State) (f : Gang → Gang) : (s.modMe f).agenda = s.agenda := rfl
@[simp] theorem modMe_issued (s : State) (f : Gang → Gang) : (s.modMe f).issued = s.issued := rfl
@[simp] theorem modMe_fresh (s : State) (f : Gang → Gang) : (s.modMe f).fresh = s.fresh := rfl

@[simp] theorem modSl_cyc (s : State) (k : Nat) (f : Slice → Slice) : (s.modSl k f).cyc = s.cyc := rfl
@[simp] theorem modSl_gangNo (s : State) (k : Nat) (f : Slice → Slice) : (s.modSl k f).gangNo = s.gangNo := rfl
@[simp] theorem modSl_launches (s : State) (k : Nat) (f : Slice → Slice) : (s.modSl k f).launches = s.launches := rfl
@[simp] theorem modSl_launchNo (s : State) (k : Nat) (f : Slice → Slice) : (s.modSl k f).launchNo = s.launchNo := rfl
@[simp] theorem modSl_queue (s : State) (k : Nat) (f : Slice → Slice) : (s.modSl k f).queue = s.queue := rfl
@[simp] theorem modSl_placing (s : State) (k : Nat) (f : Slice → Slice) : (s.modSl k f).placing = s.placing := rfl
@[simp] theorem modSl_threads (s : State) (k : Nat) (f : Slice → Slice) : (s.modSl k f).threads = s.threads := rfl
@[simp] theorem modSl_threadNo (s : State) (k : Nat) (f : Slice → Slice) : (s.modSl k f).threadNo = s.threadNo := rfl
@[simp] theorem modSl_cores (s : State) (k : Nat) (f : Slice → Slice) : (s.modSl k f).cores = s.cores := rfl
@[simp] theorem modSl_clusters (s : State) (k : Nat) (f : Slice → Slice) : (s.modSl k f).clusters = s.clusters := rfl
@[simp] theorem modSl_dies (s : State) (k : Nat) (f : Slice → Slice) : (s.modSl k f).dies = s.dies := rfl
@[simp] theorem modSl_sluices (s : State) (k : Nat) (f : Slice → Slice) : (s.modSl k f).sluices = s.sluices := rfl
@[simp] theorem modSl_locks (s : State) (k : Nat) (f : Slice → Slice) : (s.modSl k f).locks = s.locks := rfl
@[simp] theorem modSl_ctxs (s : State) (k : Nat) (f : Slice → Slice) : (s.modSl k f).ctxs = s.ctxs := rfl
@[simp] theorem modSl_reaches (s : State) (k : Nat) (f : Slice → Slice) : (s.modSl k f).reaches = s.reaches := rfl
@[simp] theorem modSl_mem (s : State) (k : Nat) (f : Slice → Slice) : (s.modSl k f).mem = s.mem := rfl
@[simp] theorem modSl_co (s : State) (k : Nat) (f : Slice → Slice) : (s.modSl k f).co = s.co := rfl
@[simp] theorem modSl_poison (s : State) (k : Nat) (f : Slice → Slice) : (s.modSl k f).poison = s.poison := rfl
@[simp] theorem modSl_keyOf (s : State) (k : Nat) (f : Slice → Slice) : (s.modSl k f).keyOf = s.keyOf := rfl
@[simp] theorem modSl_own (s : State) (k : Nat) (f : Slice → Slice) : (s.modSl k f).own = s.own := rfl
@[simp] theorem modSl_homes (s : State) (k : Nat) (f : Slice → Slice) : (s.modSl k f).homes = s.homes := rfl
@[simp] theorem modSl_ctxBase (s : State) (k : Nat) (f : Slice → Slice) : (s.modSl k f).ctxBase = s.ctxBase := rfl
@[simp] theorem modSl_rotate (s : State) (k : Nat) (f : Slice → Slice) : (s.modSl k f).rotate = s.rotate := rfl
@[simp] theorem modSl_unmapped (s : State) (k : Nat) (f : Slice → Slice) : (s.modSl k f).unmapped = s.unmapped := rfl
@[simp] theorem modSl_rotStat (s : State) (k : Nat) (f : Slice → Slice) : (s.modSl k f).rotStat = s.rotStat := rfl
@[simp] theorem modSl_iva (s : State) (k : Nat) (f : Slice → Slice) : (s.modSl k f).iva = s.iva := rfl
@[simp] theorem modSl_iasid (s : State) (k : Nat) (f : Slice → Slice) : (s.modSl k f).iasid = s.iasid := rfl
@[simp] theorem modSl_iscope (s : State) (k : Nat) (f : Slice → Slice) : (s.modSl k f).iscope = s.iscope := rfl
@[simp] theorem modSl_ibusy (s : State) (k : Nat) (f : Slice → Slice) : (s.modSl k f).ibusy = s.ibusy := rfl
@[simp] theorem modSl_preempt (s : State) (k : Nat) (f : Slice → Slice) : (s.modSl k f).preempt = s.preempt := rfl
@[simp] theorem modSl_peers (s : State) (k : Nat) (f : Slice → Slice) : (s.modSl k f).peers = s.peers := rfl
@[simp] theorem modSl_refuses (s : State) (k : Nat) (f : Slice → Slice) : (s.modSl k f).refuses = s.refuses := rfl
@[simp] theorem modSl_msix (s : State) (k : Nat) (f : Slice → Slice) : (s.modSl k f).msix = s.msix := rfl
@[simp] theorem modSl_sent (s : State) (k : Nat) (f : Slice → Slice) : (s.modSl k f).sent = s.sent := rfl
@[simp] theorem modSl_triggers (s : State) (k : Nat) (f : Slice → Slice) : (s.modSl k f).triggers = s.triggers := rfl
@[simp] theorem modSl_lines (s : State) (k : Nat) (f : Slice → Slice) : (s.modSl k f).lines = s.lines := rfl
@[simp] theorem modSl_stoppedCounters (s : State) (k : Nat) (f : Slice → Slice) : (s.modSl k f).stoppedCounters = s.stoppedCounters := rfl
@[simp] theorem modSl_security (s : State) (k : Nat) (f : Slice → Slice) : (s.modSl k f).security = s.security := rfl
@[simp] theorem modSl_link (s : State) (k : Nat) (f : Slice → Slice) : (s.modSl k f).link = s.link := rfl
@[simp] theorem modSl_power (s : State) (k : Nat) (f : Slice → Slice) : (s.modSl k f).power = s.power := rfl
@[simp] theorem modSl_quay (s : State) (k : Nat) (f : Slice → Slice) : (s.modSl k f).quay = s.quay := rfl
@[simp] theorem modSl_saved (s : State) (k : Nat) (f : Slice → Slice) : (s.modSl k f).saved = s.saved := rfl
@[simp] theorem modSl_cur (s : State) (k : Nat) (f : Slice → Slice) : (s.modSl k f).cur = s.cur := rfl
@[simp] theorem modSl_agenda (s : State) (k : Nat) (f : Slice → Slice) : (s.modSl k f).agenda = s.agenda := rfl
@[simp] theorem modSl_issued (s : State) (k : Nat) (f : Slice → Slice) : (s.modSl k f).issued = s.issued := rfl
@[simp] theorem modSl_fresh (s : State) (k : Nat) (f : Slice → Slice) : (s.modSl k f).fresh = s.fresh := rfl

@[simp] theorem modCore_cyc (s : State) (c : Nat) (f : Core → Core) : (s.modCore c f).cyc = s.cyc := rfl
@[simp] theorem modCore_gangs (s : State) (c : Nat) (f : Core → Core) : (s.modCore c f).gangs = s.gangs := rfl
@[simp] theorem modCore_gangNo (s : State) (c : Nat) (f : Core → Core) : (s.modCore c f).gangNo = s.gangNo := rfl
@[simp] theorem modCore_launches (s : State) (c : Nat) (f : Core → Core) : (s.modCore c f).launches = s.launches := rfl
@[simp] theorem modCore_launchNo (s : State) (c : Nat) (f : Core → Core) : (s.modCore c f).launchNo = s.launchNo := rfl
@[simp] theorem modCore_queue (s : State) (c : Nat) (f : Core → Core) : (s.modCore c f).queue = s.queue := rfl
@[simp] theorem modCore_placing (s : State) (c : Nat) (f : Core → Core) : (s.modCore c f).placing = s.placing := rfl
@[simp] theorem modCore_threads (s : State) (c : Nat) (f : Core → Core) : (s.modCore c f).threads = s.threads := rfl
@[simp] theorem modCore_threadNo (s : State) (c : Nat) (f : Core → Core) : (s.modCore c f).threadNo = s.threadNo := rfl
@[simp] theorem modCore_clusters (s : State) (c : Nat) (f : Core → Core) : (s.modCore c f).clusters = s.clusters := rfl
@[simp] theorem modCore_dies (s : State) (c : Nat) (f : Core → Core) : (s.modCore c f).dies = s.dies := rfl
@[simp] theorem modCore_sluices (s : State) (c : Nat) (f : Core → Core) : (s.modCore c f).sluices = s.sluices := rfl
@[simp] theorem modCore_locks (s : State) (c : Nat) (f : Core → Core) : (s.modCore c f).locks = s.locks := rfl
@[simp] theorem modCore_ctxs (s : State) (c : Nat) (f : Core → Core) : (s.modCore c f).ctxs = s.ctxs := rfl
@[simp] theorem modCore_reaches (s : State) (c : Nat) (f : Core → Core) : (s.modCore c f).reaches = s.reaches := rfl
@[simp] theorem modCore_mem (s : State) (c : Nat) (f : Core → Core) : (s.modCore c f).mem = s.mem := rfl
@[simp] theorem modCore_co (s : State) (c : Nat) (f : Core → Core) : (s.modCore c f).co = s.co := rfl
@[simp] theorem modCore_poison (s : State) (c : Nat) (f : Core → Core) : (s.modCore c f).poison = s.poison := rfl
@[simp] theorem modCore_keyOf (s : State) (c : Nat) (f : Core → Core) : (s.modCore c f).keyOf = s.keyOf := rfl
@[simp] theorem modCore_own (s : State) (c : Nat) (f : Core → Core) : (s.modCore c f).own = s.own := rfl
@[simp] theorem modCore_homes (s : State) (c : Nat) (f : Core → Core) : (s.modCore c f).homes = s.homes := rfl
@[simp] theorem modCore_ctxBase (s : State) (c : Nat) (f : Core → Core) : (s.modCore c f).ctxBase = s.ctxBase := rfl
@[simp] theorem modCore_rotate (s : State) (c : Nat) (f : Core → Core) : (s.modCore c f).rotate = s.rotate := rfl
@[simp] theorem modCore_unmapped (s : State) (c : Nat) (f : Core → Core) : (s.modCore c f).unmapped = s.unmapped := rfl
@[simp] theorem modCore_rotStat (s : State) (c : Nat) (f : Core → Core) : (s.modCore c f).rotStat = s.rotStat := rfl
@[simp] theorem modCore_iva (s : State) (c : Nat) (f : Core → Core) : (s.modCore c f).iva = s.iva := rfl
@[simp] theorem modCore_iasid (s : State) (c : Nat) (f : Core → Core) : (s.modCore c f).iasid = s.iasid := rfl
@[simp] theorem modCore_iscope (s : State) (c : Nat) (f : Core → Core) : (s.modCore c f).iscope = s.iscope := rfl
@[simp] theorem modCore_ibusy (s : State) (c : Nat) (f : Core → Core) : (s.modCore c f).ibusy = s.ibusy := rfl
@[simp] theorem modCore_preempt (s : State) (c : Nat) (f : Core → Core) : (s.modCore c f).preempt = s.preempt := rfl
@[simp] theorem modCore_peers (s : State) (c : Nat) (f : Core → Core) : (s.modCore c f).peers = s.peers := rfl
@[simp] theorem modCore_refuses (s : State) (c : Nat) (f : Core → Core) : (s.modCore c f).refuses = s.refuses := rfl
@[simp] theorem modCore_msix (s : State) (c : Nat) (f : Core → Core) : (s.modCore c f).msix = s.msix := rfl
@[simp] theorem modCore_sent (s : State) (c : Nat) (f : Core → Core) : (s.modCore c f).sent = s.sent := rfl
@[simp] theorem modCore_triggers (s : State) (c : Nat) (f : Core → Core) : (s.modCore c f).triggers = s.triggers := rfl
@[simp] theorem modCore_lines (s : State) (c : Nat) (f : Core → Core) : (s.modCore c f).lines = s.lines := rfl
@[simp] theorem modCore_stoppedCounters (s : State) (c : Nat) (f : Core → Core) : (s.modCore c f).stoppedCounters = s.stoppedCounters := rfl
@[simp] theorem modCore_security (s : State) (c : Nat) (f : Core → Core) : (s.modCore c f).security = s.security := rfl
@[simp] theorem modCore_link (s : State) (c : Nat) (f : Core → Core) : (s.modCore c f).link = s.link := rfl
@[simp] theorem modCore_power (s : State) (c : Nat) (f : Core → Core) : (s.modCore c f).power = s.power := rfl
@[simp] theorem modCore_quay (s : State) (c : Nat) (f : Core → Core) : (s.modCore c f).quay = s.quay := rfl
@[simp] theorem modCore_saved (s : State) (c : Nat) (f : Core → Core) : (s.modCore c f).saved = s.saved := rfl
@[simp] theorem modCore_cur (s : State) (c : Nat) (f : Core → Core) : (s.modCore c f).cur = s.cur := rfl
@[simp] theorem modCore_agenda (s : State) (c : Nat) (f : Core → Core) : (s.modCore c f).agenda = s.agenda := rfl
@[simp] theorem modCore_issued (s : State) (c : Nat) (f : Core → Core) : (s.modCore c f).issued = s.issued := rfl
@[simp] theorem modCore_fresh (s : State) (c : Nat) (f : Core → Core) : (s.modCore c f).fresh = s.fresh := rfl

@[simp] theorem modDie_cyc (s : State) (d : Nat) (f : Die → Die) : (s.modDie d f).cyc = s.cyc := rfl
@[simp] theorem modDie_gangs (s : State) (d : Nat) (f : Die → Die) : (s.modDie d f).gangs = s.gangs := rfl
@[simp] theorem modDie_gangNo (s : State) (d : Nat) (f : Die → Die) : (s.modDie d f).gangNo = s.gangNo := rfl
@[simp] theorem modDie_launches (s : State) (d : Nat) (f : Die → Die) : (s.modDie d f).launches = s.launches := rfl
@[simp] theorem modDie_launchNo (s : State) (d : Nat) (f : Die → Die) : (s.modDie d f).launchNo = s.launchNo := rfl
@[simp] theorem modDie_queue (s : State) (d : Nat) (f : Die → Die) : (s.modDie d f).queue = s.queue := rfl
@[simp] theorem modDie_placing (s : State) (d : Nat) (f : Die → Die) : (s.modDie d f).placing = s.placing := rfl
@[simp] theorem modDie_threads (s : State) (d : Nat) (f : Die → Die) : (s.modDie d f).threads = s.threads := rfl
@[simp] theorem modDie_threadNo (s : State) (d : Nat) (f : Die → Die) : (s.modDie d f).threadNo = s.threadNo := rfl
@[simp] theorem modDie_cores (s : State) (d : Nat) (f : Die → Die) : (s.modDie d f).cores = s.cores := rfl
@[simp] theorem modDie_clusters (s : State) (d : Nat) (f : Die → Die) : (s.modDie d f).clusters = s.clusters := rfl
@[simp] theorem modDie_sluices (s : State) (d : Nat) (f : Die → Die) : (s.modDie d f).sluices = s.sluices := rfl
@[simp] theorem modDie_locks (s : State) (d : Nat) (f : Die → Die) : (s.modDie d f).locks = s.locks := rfl
@[simp] theorem modDie_ctxs (s : State) (d : Nat) (f : Die → Die) : (s.modDie d f).ctxs = s.ctxs := rfl
@[simp] theorem modDie_reaches (s : State) (d : Nat) (f : Die → Die) : (s.modDie d f).reaches = s.reaches := rfl
@[simp] theorem modDie_mem (s : State) (d : Nat) (f : Die → Die) : (s.modDie d f).mem = s.mem := rfl
@[simp] theorem modDie_co (s : State) (d : Nat) (f : Die → Die) : (s.modDie d f).co = s.co := rfl
@[simp] theorem modDie_poison (s : State) (d : Nat) (f : Die → Die) : (s.modDie d f).poison = s.poison := rfl
@[simp] theorem modDie_keyOf (s : State) (d : Nat) (f : Die → Die) : (s.modDie d f).keyOf = s.keyOf := rfl
@[simp] theorem modDie_own (s : State) (d : Nat) (f : Die → Die) : (s.modDie d f).own = s.own := rfl
@[simp] theorem modDie_homes (s : State) (d : Nat) (f : Die → Die) : (s.modDie d f).homes = s.homes := rfl
@[simp] theorem modDie_ctxBase (s : State) (d : Nat) (f : Die → Die) : (s.modDie d f).ctxBase = s.ctxBase := rfl
@[simp] theorem modDie_rotate (s : State) (d : Nat) (f : Die → Die) : (s.modDie d f).rotate = s.rotate := rfl
@[simp] theorem modDie_unmapped (s : State) (d : Nat) (f : Die → Die) : (s.modDie d f).unmapped = s.unmapped := rfl
@[simp] theorem modDie_rotStat (s : State) (d : Nat) (f : Die → Die) : (s.modDie d f).rotStat = s.rotStat := rfl
@[simp] theorem modDie_iva (s : State) (d : Nat) (f : Die → Die) : (s.modDie d f).iva = s.iva := rfl
@[simp] theorem modDie_iasid (s : State) (d : Nat) (f : Die → Die) : (s.modDie d f).iasid = s.iasid := rfl
@[simp] theorem modDie_iscope (s : State) (d : Nat) (f : Die → Die) : (s.modDie d f).iscope = s.iscope := rfl
@[simp] theorem modDie_ibusy (s : State) (d : Nat) (f : Die → Die) : (s.modDie d f).ibusy = s.ibusy := rfl
@[simp] theorem modDie_preempt (s : State) (d : Nat) (f : Die → Die) : (s.modDie d f).preempt = s.preempt := rfl
@[simp] theorem modDie_peers (s : State) (d : Nat) (f : Die → Die) : (s.modDie d f).peers = s.peers := rfl
@[simp] theorem modDie_refuses (s : State) (d : Nat) (f : Die → Die) : (s.modDie d f).refuses = s.refuses := rfl
@[simp] theorem modDie_msix (s : State) (d : Nat) (f : Die → Die) : (s.modDie d f).msix = s.msix := rfl
@[simp] theorem modDie_sent (s : State) (d : Nat) (f : Die → Die) : (s.modDie d f).sent = s.sent := rfl
@[simp] theorem modDie_triggers (s : State) (d : Nat) (f : Die → Die) : (s.modDie d f).triggers = s.triggers := rfl
@[simp] theorem modDie_lines (s : State) (d : Nat) (f : Die → Die) : (s.modDie d f).lines = s.lines := rfl
@[simp] theorem modDie_stoppedCounters (s : State) (d : Nat) (f : Die → Die) : (s.modDie d f).stoppedCounters = s.stoppedCounters := rfl
@[simp] theorem modDie_security (s : State) (d : Nat) (f : Die → Die) : (s.modDie d f).security = s.security := rfl
@[simp] theorem modDie_link (s : State) (d : Nat) (f : Die → Die) : (s.modDie d f).link = s.link := rfl
@[simp] theorem modDie_power (s : State) (d : Nat) (f : Die → Die) : (s.modDie d f).power = s.power := rfl
@[simp] theorem modDie_quay (s : State) (d : Nat) (f : Die → Die) : (s.modDie d f).quay = s.quay := rfl
@[simp] theorem modDie_saved (s : State) (d : Nat) (f : Die → Die) : (s.modDie d f).saved = s.saved := rfl
@[simp] theorem modDie_cur (s : State) (d : Nat) (f : Die → Die) : (s.modDie d f).cur = s.cur := rfl
@[simp] theorem modDie_agenda (s : State) (d : Nat) (f : Die → Die) : (s.modDie d f).agenda = s.agenda := rfl
@[simp] theorem modDie_issued (s : State) (d : Nat) (f : Die → Die) : (s.modDie d f).issued = s.issued := rfl
@[simp] theorem modDie_fresh (s : State) (d : Nat) (f : Die → Die) : (s.modDie d f).fresh = s.fresh := rfl

@[simp] theorem modCtx_cyc (s : State) (a : Nat) (f : Ctx → Ctx) : (s.modCtx a f).cyc = s.cyc := rfl
@[simp] theorem modCtx_gangs (s : State) (a : Nat) (f : Ctx → Ctx) : (s.modCtx a f).gangs = s.gangs := rfl
@[simp] theorem modCtx_gangNo (s : State) (a : Nat) (f : Ctx → Ctx) : (s.modCtx a f).gangNo = s.gangNo := rfl
@[simp] theorem modCtx_launches (s : State) (a : Nat) (f : Ctx → Ctx) : (s.modCtx a f).launches = s.launches := rfl
@[simp] theorem modCtx_launchNo (s : State) (a : Nat) (f : Ctx → Ctx) : (s.modCtx a f).launchNo = s.launchNo := rfl
@[simp] theorem modCtx_queue (s : State) (a : Nat) (f : Ctx → Ctx) : (s.modCtx a f).queue = s.queue := rfl
@[simp] theorem modCtx_placing (s : State) (a : Nat) (f : Ctx → Ctx) : (s.modCtx a f).placing = s.placing := rfl
@[simp] theorem modCtx_threads (s : State) (a : Nat) (f : Ctx → Ctx) : (s.modCtx a f).threads = s.threads := rfl
@[simp] theorem modCtx_threadNo (s : State) (a : Nat) (f : Ctx → Ctx) : (s.modCtx a f).threadNo = s.threadNo := rfl
@[simp] theorem modCtx_cores (s : State) (a : Nat) (f : Ctx → Ctx) : (s.modCtx a f).cores = s.cores := rfl
@[simp] theorem modCtx_clusters (s : State) (a : Nat) (f : Ctx → Ctx) : (s.modCtx a f).clusters = s.clusters := rfl
@[simp] theorem modCtx_dies (s : State) (a : Nat) (f : Ctx → Ctx) : (s.modCtx a f).dies = s.dies := rfl
@[simp] theorem modCtx_sluices (s : State) (a : Nat) (f : Ctx → Ctx) : (s.modCtx a f).sluices = s.sluices := rfl
@[simp] theorem modCtx_locks (s : State) (a : Nat) (f : Ctx → Ctx) : (s.modCtx a f).locks = s.locks := rfl
@[simp] theorem modCtx_reaches (s : State) (a : Nat) (f : Ctx → Ctx) : (s.modCtx a f).reaches = s.reaches := rfl
@[simp] theorem modCtx_mem (s : State) (a : Nat) (f : Ctx → Ctx) : (s.modCtx a f).mem = s.mem := rfl
@[simp] theorem modCtx_co (s : State) (a : Nat) (f : Ctx → Ctx) : (s.modCtx a f).co = s.co := rfl
@[simp] theorem modCtx_poison (s : State) (a : Nat) (f : Ctx → Ctx) : (s.modCtx a f).poison = s.poison := rfl
@[simp] theorem modCtx_keyOf (s : State) (a : Nat) (f : Ctx → Ctx) : (s.modCtx a f).keyOf = s.keyOf := rfl
@[simp] theorem modCtx_own (s : State) (a : Nat) (f : Ctx → Ctx) : (s.modCtx a f).own = s.own := rfl
@[simp] theorem modCtx_homes (s : State) (a : Nat) (f : Ctx → Ctx) : (s.modCtx a f).homes = s.homes := rfl
@[simp] theorem modCtx_ctxBase (s : State) (a : Nat) (f : Ctx → Ctx) : (s.modCtx a f).ctxBase = s.ctxBase := rfl
@[simp] theorem modCtx_rotate (s : State) (a : Nat) (f : Ctx → Ctx) : (s.modCtx a f).rotate = s.rotate := rfl
@[simp] theorem modCtx_unmapped (s : State) (a : Nat) (f : Ctx → Ctx) : (s.modCtx a f).unmapped = s.unmapped := rfl
@[simp] theorem modCtx_rotStat (s : State) (a : Nat) (f : Ctx → Ctx) : (s.modCtx a f).rotStat = s.rotStat := rfl
@[simp] theorem modCtx_iva (s : State) (a : Nat) (f : Ctx → Ctx) : (s.modCtx a f).iva = s.iva := rfl
@[simp] theorem modCtx_iasid (s : State) (a : Nat) (f : Ctx → Ctx) : (s.modCtx a f).iasid = s.iasid := rfl
@[simp] theorem modCtx_iscope (s : State) (a : Nat) (f : Ctx → Ctx) : (s.modCtx a f).iscope = s.iscope := rfl
@[simp] theorem modCtx_ibusy (s : State) (a : Nat) (f : Ctx → Ctx) : (s.modCtx a f).ibusy = s.ibusy := rfl
@[simp] theorem modCtx_preempt (s : State) (a : Nat) (f : Ctx → Ctx) : (s.modCtx a f).preempt = s.preempt := rfl
@[simp] theorem modCtx_peers (s : State) (a : Nat) (f : Ctx → Ctx) : (s.modCtx a f).peers = s.peers := rfl
@[simp] theorem modCtx_refuses (s : State) (a : Nat) (f : Ctx → Ctx) : (s.modCtx a f).refuses = s.refuses := rfl
@[simp] theorem modCtx_msix (s : State) (a : Nat) (f : Ctx → Ctx) : (s.modCtx a f).msix = s.msix := rfl
@[simp] theorem modCtx_sent (s : State) (a : Nat) (f : Ctx → Ctx) : (s.modCtx a f).sent = s.sent := rfl
@[simp] theorem modCtx_triggers (s : State) (a : Nat) (f : Ctx → Ctx) : (s.modCtx a f).triggers = s.triggers := rfl
@[simp] theorem modCtx_lines (s : State) (a : Nat) (f : Ctx → Ctx) : (s.modCtx a f).lines = s.lines := rfl
@[simp] theorem modCtx_stoppedCounters (s : State) (a : Nat) (f : Ctx → Ctx) : (s.modCtx a f).stoppedCounters = s.stoppedCounters := rfl
@[simp] theorem modCtx_security (s : State) (a : Nat) (f : Ctx → Ctx) : (s.modCtx a f).security = s.security := rfl
@[simp] theorem modCtx_link (s : State) (a : Nat) (f : Ctx → Ctx) : (s.modCtx a f).link = s.link := rfl
@[simp] theorem modCtx_power (s : State) (a : Nat) (f : Ctx → Ctx) : (s.modCtx a f).power = s.power := rfl
@[simp] theorem modCtx_quay (s : State) (a : Nat) (f : Ctx → Ctx) : (s.modCtx a f).quay = s.quay := rfl
@[simp] theorem modCtx_saved (s : State) (a : Nat) (f : Ctx → Ctx) : (s.modCtx a f).saved = s.saved := rfl
@[simp] theorem modCtx_cur (s : State) (a : Nat) (f : Ctx → Ctx) : (s.modCtx a f).cur = s.cur := rfl
@[simp] theorem modCtx_agenda (s : State) (a : Nat) (f : Ctx → Ctx) : (s.modCtx a f).agenda = s.agenda := rfl
@[simp] theorem modCtx_issued (s : State) (a : Nat) (f : Ctx → Ctx) : (s.modCtx a f).issued = s.issued := rfl
@[simp] theorem modCtx_fresh (s : State) (a : Nat) (f : Ctx → Ctx) : (s.modCtx a f).fresh = s.fresh := rfl

@[simp] theorem modSluice_cyc (s : State) (q : Nat) (f : Sluice → Sluice) : (s.modSluice q f).cyc = s.cyc := rfl
@[simp] theorem modSluice_gangs (s : State) (q : Nat) (f : Sluice → Sluice) : (s.modSluice q f).gangs = s.gangs := rfl
@[simp] theorem modSluice_gangNo (s : State) (q : Nat) (f : Sluice → Sluice) : (s.modSluice q f).gangNo = s.gangNo := rfl
@[simp] theorem modSluice_launches (s : State) (q : Nat) (f : Sluice → Sluice) : (s.modSluice q f).launches = s.launches := rfl
@[simp] theorem modSluice_launchNo (s : State) (q : Nat) (f : Sluice → Sluice) : (s.modSluice q f).launchNo = s.launchNo := rfl
@[simp] theorem modSluice_queue (s : State) (q : Nat) (f : Sluice → Sluice) : (s.modSluice q f).queue = s.queue := rfl
@[simp] theorem modSluice_placing (s : State) (q : Nat) (f : Sluice → Sluice) : (s.modSluice q f).placing = s.placing := rfl
@[simp] theorem modSluice_threads (s : State) (q : Nat) (f : Sluice → Sluice) : (s.modSluice q f).threads = s.threads := rfl
@[simp] theorem modSluice_threadNo (s : State) (q : Nat) (f : Sluice → Sluice) : (s.modSluice q f).threadNo = s.threadNo := rfl
@[simp] theorem modSluice_cores (s : State) (q : Nat) (f : Sluice → Sluice) : (s.modSluice q f).cores = s.cores := rfl
@[simp] theorem modSluice_clusters (s : State) (q : Nat) (f : Sluice → Sluice) : (s.modSluice q f).clusters = s.clusters := rfl
@[simp] theorem modSluice_dies (s : State) (q : Nat) (f : Sluice → Sluice) : (s.modSluice q f).dies = s.dies := rfl
@[simp] theorem modSluice_locks (s : State) (q : Nat) (f : Sluice → Sluice) : (s.modSluice q f).locks = s.locks := rfl
@[simp] theorem modSluice_ctxs (s : State) (q : Nat) (f : Sluice → Sluice) : (s.modSluice q f).ctxs = s.ctxs := rfl
@[simp] theorem modSluice_reaches (s : State) (q : Nat) (f : Sluice → Sluice) : (s.modSluice q f).reaches = s.reaches := rfl
@[simp] theorem modSluice_mem (s : State) (q : Nat) (f : Sluice → Sluice) : (s.modSluice q f).mem = s.mem := rfl
@[simp] theorem modSluice_co (s : State) (q : Nat) (f : Sluice → Sluice) : (s.modSluice q f).co = s.co := rfl
@[simp] theorem modSluice_poison (s : State) (q : Nat) (f : Sluice → Sluice) : (s.modSluice q f).poison = s.poison := rfl
@[simp] theorem modSluice_keyOf (s : State) (q : Nat) (f : Sluice → Sluice) : (s.modSluice q f).keyOf = s.keyOf := rfl
@[simp] theorem modSluice_own (s : State) (q : Nat) (f : Sluice → Sluice) : (s.modSluice q f).own = s.own := rfl
@[simp] theorem modSluice_homes (s : State) (q : Nat) (f : Sluice → Sluice) : (s.modSluice q f).homes = s.homes := rfl
@[simp] theorem modSluice_ctxBase (s : State) (q : Nat) (f : Sluice → Sluice) : (s.modSluice q f).ctxBase = s.ctxBase := rfl
@[simp] theorem modSluice_rotate (s : State) (q : Nat) (f : Sluice → Sluice) : (s.modSluice q f).rotate = s.rotate := rfl
@[simp] theorem modSluice_unmapped (s : State) (q : Nat) (f : Sluice → Sluice) : (s.modSluice q f).unmapped = s.unmapped := rfl
@[simp] theorem modSluice_rotStat (s : State) (q : Nat) (f : Sluice → Sluice) : (s.modSluice q f).rotStat = s.rotStat := rfl
@[simp] theorem modSluice_iva (s : State) (q : Nat) (f : Sluice → Sluice) : (s.modSluice q f).iva = s.iva := rfl
@[simp] theorem modSluice_iasid (s : State) (q : Nat) (f : Sluice → Sluice) : (s.modSluice q f).iasid = s.iasid := rfl
@[simp] theorem modSluice_iscope (s : State) (q : Nat) (f : Sluice → Sluice) : (s.modSluice q f).iscope = s.iscope := rfl
@[simp] theorem modSluice_ibusy (s : State) (q : Nat) (f : Sluice → Sluice) : (s.modSluice q f).ibusy = s.ibusy := rfl
@[simp] theorem modSluice_preempt (s : State) (q : Nat) (f : Sluice → Sluice) : (s.modSluice q f).preempt = s.preempt := rfl
@[simp] theorem modSluice_peers (s : State) (q : Nat) (f : Sluice → Sluice) : (s.modSluice q f).peers = s.peers := rfl
@[simp] theorem modSluice_refuses (s : State) (q : Nat) (f : Sluice → Sluice) : (s.modSluice q f).refuses = s.refuses := rfl
@[simp] theorem modSluice_msix (s : State) (q : Nat) (f : Sluice → Sluice) : (s.modSluice q f).msix = s.msix := rfl
@[simp] theorem modSluice_sent (s : State) (q : Nat) (f : Sluice → Sluice) : (s.modSluice q f).sent = s.sent := rfl
@[simp] theorem modSluice_triggers (s : State) (q : Nat) (f : Sluice → Sluice) : (s.modSluice q f).triggers = s.triggers := rfl
@[simp] theorem modSluice_lines (s : State) (q : Nat) (f : Sluice → Sluice) : (s.modSluice q f).lines = s.lines := rfl
@[simp] theorem modSluice_stoppedCounters (s : State) (q : Nat) (f : Sluice → Sluice) : (s.modSluice q f).stoppedCounters = s.stoppedCounters := rfl
@[simp] theorem modSluice_security (s : State) (q : Nat) (f : Sluice → Sluice) : (s.modSluice q f).security = s.security := rfl
@[simp] theorem modSluice_link (s : State) (q : Nat) (f : Sluice → Sluice) : (s.modSluice q f).link = s.link := rfl
@[simp] theorem modSluice_power (s : State) (q : Nat) (f : Sluice → Sluice) : (s.modSluice q f).power = s.power := rfl
@[simp] theorem modSluice_quay (s : State) (q : Nat) (f : Sluice → Sluice) : (s.modSluice q f).quay = s.quay := rfl
@[simp] theorem modSluice_saved (s : State) (q : Nat) (f : Sluice → Sluice) : (s.modSluice q f).saved = s.saved := rfl
@[simp] theorem modSluice_cur (s : State) (q : Nat) (f : Sluice → Sluice) : (s.modSluice q f).cur = s.cur := rfl
@[simp] theorem modSluice_agenda (s : State) (q : Nat) (f : Sluice → Sluice) : (s.modSluice q f).agenda = s.agenda := rfl
@[simp] theorem modSluice_issued (s : State) (q : Nat) (f : Sluice → Sluice) : (s.modSluice q f).issued = s.issued := rfl
@[simp] theorem modSluice_fresh (s : State) (q : Nat) (f : Sluice → Sluice) : (s.modSluice q f).fresh = s.fresh := rfl

@[simp] theorem modLock_cyc (s : State) (r : Nat) (f : Lock → Lock) : (s.modLock r f).cyc = s.cyc := rfl
@[simp] theorem modLock_gangs (s : State) (r : Nat) (f : Lock → Lock) : (s.modLock r f).gangs = s.gangs := rfl
@[simp] theorem modLock_gangNo (s : State) (r : Nat) (f : Lock → Lock) : (s.modLock r f).gangNo = s.gangNo := rfl
@[simp] theorem modLock_launches (s : State) (r : Nat) (f : Lock → Lock) : (s.modLock r f).launches = s.launches := rfl
@[simp] theorem modLock_launchNo (s : State) (r : Nat) (f : Lock → Lock) : (s.modLock r f).launchNo = s.launchNo := rfl
@[simp] theorem modLock_queue (s : State) (r : Nat) (f : Lock → Lock) : (s.modLock r f).queue = s.queue := rfl
@[simp] theorem modLock_placing (s : State) (r : Nat) (f : Lock → Lock) : (s.modLock r f).placing = s.placing := rfl
@[simp] theorem modLock_threads (s : State) (r : Nat) (f : Lock → Lock) : (s.modLock r f).threads = s.threads := rfl
@[simp] theorem modLock_threadNo (s : State) (r : Nat) (f : Lock → Lock) : (s.modLock r f).threadNo = s.threadNo := rfl
@[simp] theorem modLock_cores (s : State) (r : Nat) (f : Lock → Lock) : (s.modLock r f).cores = s.cores := rfl
@[simp] theorem modLock_clusters (s : State) (r : Nat) (f : Lock → Lock) : (s.modLock r f).clusters = s.clusters := rfl
@[simp] theorem modLock_dies (s : State) (r : Nat) (f : Lock → Lock) : (s.modLock r f).dies = s.dies := rfl
@[simp] theorem modLock_sluices (s : State) (r : Nat) (f : Lock → Lock) : (s.modLock r f).sluices = s.sluices := rfl
@[simp] theorem modLock_ctxs (s : State) (r : Nat) (f : Lock → Lock) : (s.modLock r f).ctxs = s.ctxs := rfl
@[simp] theorem modLock_reaches (s : State) (r : Nat) (f : Lock → Lock) : (s.modLock r f).reaches = s.reaches := rfl
@[simp] theorem modLock_mem (s : State) (r : Nat) (f : Lock → Lock) : (s.modLock r f).mem = s.mem := rfl
@[simp] theorem modLock_co (s : State) (r : Nat) (f : Lock → Lock) : (s.modLock r f).co = s.co := rfl
@[simp] theorem modLock_poison (s : State) (r : Nat) (f : Lock → Lock) : (s.modLock r f).poison = s.poison := rfl
@[simp] theorem modLock_keyOf (s : State) (r : Nat) (f : Lock → Lock) : (s.modLock r f).keyOf = s.keyOf := rfl
@[simp] theorem modLock_own (s : State) (r : Nat) (f : Lock → Lock) : (s.modLock r f).own = s.own := rfl
@[simp] theorem modLock_homes (s : State) (r : Nat) (f : Lock → Lock) : (s.modLock r f).homes = s.homes := rfl
@[simp] theorem modLock_ctxBase (s : State) (r : Nat) (f : Lock → Lock) : (s.modLock r f).ctxBase = s.ctxBase := rfl
@[simp] theorem modLock_rotate (s : State) (r : Nat) (f : Lock → Lock) : (s.modLock r f).rotate = s.rotate := rfl
@[simp] theorem modLock_unmapped (s : State) (r : Nat) (f : Lock → Lock) : (s.modLock r f).unmapped = s.unmapped := rfl
@[simp] theorem modLock_rotStat (s : State) (r : Nat) (f : Lock → Lock) : (s.modLock r f).rotStat = s.rotStat := rfl
@[simp] theorem modLock_iva (s : State) (r : Nat) (f : Lock → Lock) : (s.modLock r f).iva = s.iva := rfl
@[simp] theorem modLock_iasid (s : State) (r : Nat) (f : Lock → Lock) : (s.modLock r f).iasid = s.iasid := rfl
@[simp] theorem modLock_iscope (s : State) (r : Nat) (f : Lock → Lock) : (s.modLock r f).iscope = s.iscope := rfl
@[simp] theorem modLock_ibusy (s : State) (r : Nat) (f : Lock → Lock) : (s.modLock r f).ibusy = s.ibusy := rfl
@[simp] theorem modLock_preempt (s : State) (r : Nat) (f : Lock → Lock) : (s.modLock r f).preempt = s.preempt := rfl
@[simp] theorem modLock_peers (s : State) (r : Nat) (f : Lock → Lock) : (s.modLock r f).peers = s.peers := rfl
@[simp] theorem modLock_refuses (s : State) (r : Nat) (f : Lock → Lock) : (s.modLock r f).refuses = s.refuses := rfl
@[simp] theorem modLock_msix (s : State) (r : Nat) (f : Lock → Lock) : (s.modLock r f).msix = s.msix := rfl
@[simp] theorem modLock_sent (s : State) (r : Nat) (f : Lock → Lock) : (s.modLock r f).sent = s.sent := rfl
@[simp] theorem modLock_triggers (s : State) (r : Nat) (f : Lock → Lock) : (s.modLock r f).triggers = s.triggers := rfl
@[simp] theorem modLock_lines (s : State) (r : Nat) (f : Lock → Lock) : (s.modLock r f).lines = s.lines := rfl
@[simp] theorem modLock_stoppedCounters (s : State) (r : Nat) (f : Lock → Lock) : (s.modLock r f).stoppedCounters = s.stoppedCounters := rfl
@[simp] theorem modLock_security (s : State) (r : Nat) (f : Lock → Lock) : (s.modLock r f).security = s.security := rfl
@[simp] theorem modLock_link (s : State) (r : Nat) (f : Lock → Lock) : (s.modLock r f).link = s.link := rfl
@[simp] theorem modLock_power (s : State) (r : Nat) (f : Lock → Lock) : (s.modLock r f).power = s.power := rfl
@[simp] theorem modLock_quay (s : State) (r : Nat) (f : Lock → Lock) : (s.modLock r f).quay = s.quay := rfl
@[simp] theorem modLock_saved (s : State) (r : Nat) (f : Lock → Lock) : (s.modLock r f).saved = s.saved := rfl
@[simp] theorem modLock_cur (s : State) (r : Nat) (f : Lock → Lock) : (s.modLock r f).cur = s.cur := rfl
@[simp] theorem modLock_agenda (s : State) (r : Nat) (f : Lock → Lock) : (s.modLock r f).agenda = s.agenda := rfl
@[simp] theorem modLock_issued (s : State) (r : Nat) (f : Lock → Lock) : (s.modLock r f).issued = s.issued := rfl
@[simp] theorem modLock_fresh (s : State) (r : Nat) (f : Lock → Lock) : (s.modLock r f).fresh = s.fresh := rfl

@[simp] theorem modLaunch_cyc (s : State) (l : Nat) (f : Launch → Launch) : (s.modLaunch l f).cyc = s.cyc := rfl
@[simp] theorem modLaunch_gangs (s : State) (l : Nat) (f : Launch → Launch) : (s.modLaunch l f).gangs = s.gangs := rfl
@[simp] theorem modLaunch_gangNo (s : State) (l : Nat) (f : Launch → Launch) : (s.modLaunch l f).gangNo = s.gangNo := rfl
@[simp] theorem modLaunch_launchNo (s : State) (l : Nat) (f : Launch → Launch) : (s.modLaunch l f).launchNo = s.launchNo := rfl
@[simp] theorem modLaunch_queue (s : State) (l : Nat) (f : Launch → Launch) : (s.modLaunch l f).queue = s.queue := rfl
@[simp] theorem modLaunch_placing (s : State) (l : Nat) (f : Launch → Launch) : (s.modLaunch l f).placing = s.placing := rfl
@[simp] theorem modLaunch_threads (s : State) (l : Nat) (f : Launch → Launch) : (s.modLaunch l f).threads = s.threads := rfl
@[simp] theorem modLaunch_threadNo (s : State) (l : Nat) (f : Launch → Launch) : (s.modLaunch l f).threadNo = s.threadNo := rfl
@[simp] theorem modLaunch_cores (s : State) (l : Nat) (f : Launch → Launch) : (s.modLaunch l f).cores = s.cores := rfl
@[simp] theorem modLaunch_clusters (s : State) (l : Nat) (f : Launch → Launch) : (s.modLaunch l f).clusters = s.clusters := rfl
@[simp] theorem modLaunch_dies (s : State) (l : Nat) (f : Launch → Launch) : (s.modLaunch l f).dies = s.dies := rfl
@[simp] theorem modLaunch_sluices (s : State) (l : Nat) (f : Launch → Launch) : (s.modLaunch l f).sluices = s.sluices := rfl
@[simp] theorem modLaunch_locks (s : State) (l : Nat) (f : Launch → Launch) : (s.modLaunch l f).locks = s.locks := rfl
@[simp] theorem modLaunch_ctxs (s : State) (l : Nat) (f : Launch → Launch) : (s.modLaunch l f).ctxs = s.ctxs := rfl
@[simp] theorem modLaunch_reaches (s : State) (l : Nat) (f : Launch → Launch) : (s.modLaunch l f).reaches = s.reaches := rfl
@[simp] theorem modLaunch_mem (s : State) (l : Nat) (f : Launch → Launch) : (s.modLaunch l f).mem = s.mem := rfl
@[simp] theorem modLaunch_co (s : State) (l : Nat) (f : Launch → Launch) : (s.modLaunch l f).co = s.co := rfl
@[simp] theorem modLaunch_poison (s : State) (l : Nat) (f : Launch → Launch) : (s.modLaunch l f).poison = s.poison := rfl
@[simp] theorem modLaunch_keyOf (s : State) (l : Nat) (f : Launch → Launch) : (s.modLaunch l f).keyOf = s.keyOf := rfl
@[simp] theorem modLaunch_own (s : State) (l : Nat) (f : Launch → Launch) : (s.modLaunch l f).own = s.own := rfl
@[simp] theorem modLaunch_homes (s : State) (l : Nat) (f : Launch → Launch) : (s.modLaunch l f).homes = s.homes := rfl
@[simp] theorem modLaunch_ctxBase (s : State) (l : Nat) (f : Launch → Launch) : (s.modLaunch l f).ctxBase = s.ctxBase := rfl
@[simp] theorem modLaunch_rotate (s : State) (l : Nat) (f : Launch → Launch) : (s.modLaunch l f).rotate = s.rotate := rfl
@[simp] theorem modLaunch_unmapped (s : State) (l : Nat) (f : Launch → Launch) : (s.modLaunch l f).unmapped = s.unmapped := rfl
@[simp] theorem modLaunch_rotStat (s : State) (l : Nat) (f : Launch → Launch) : (s.modLaunch l f).rotStat = s.rotStat := rfl
@[simp] theorem modLaunch_iva (s : State) (l : Nat) (f : Launch → Launch) : (s.modLaunch l f).iva = s.iva := rfl
@[simp] theorem modLaunch_iasid (s : State) (l : Nat) (f : Launch → Launch) : (s.modLaunch l f).iasid = s.iasid := rfl
@[simp] theorem modLaunch_iscope (s : State) (l : Nat) (f : Launch → Launch) : (s.modLaunch l f).iscope = s.iscope := rfl
@[simp] theorem modLaunch_ibusy (s : State) (l : Nat) (f : Launch → Launch) : (s.modLaunch l f).ibusy = s.ibusy := rfl
@[simp] theorem modLaunch_preempt (s : State) (l : Nat) (f : Launch → Launch) : (s.modLaunch l f).preempt = s.preempt := rfl
@[simp] theorem modLaunch_peers (s : State) (l : Nat) (f : Launch → Launch) : (s.modLaunch l f).peers = s.peers := rfl
@[simp] theorem modLaunch_refuses (s : State) (l : Nat) (f : Launch → Launch) : (s.modLaunch l f).refuses = s.refuses := rfl
@[simp] theorem modLaunch_msix (s : State) (l : Nat) (f : Launch → Launch) : (s.modLaunch l f).msix = s.msix := rfl
@[simp] theorem modLaunch_sent (s : State) (l : Nat) (f : Launch → Launch) : (s.modLaunch l f).sent = s.sent := rfl
@[simp] theorem modLaunch_triggers (s : State) (l : Nat) (f : Launch → Launch) : (s.modLaunch l f).triggers = s.triggers := rfl
@[simp] theorem modLaunch_lines (s : State) (l : Nat) (f : Launch → Launch) : (s.modLaunch l f).lines = s.lines := rfl
@[simp] theorem modLaunch_stoppedCounters (s : State) (l : Nat) (f : Launch → Launch) : (s.modLaunch l f).stoppedCounters = s.stoppedCounters := rfl
@[simp] theorem modLaunch_security (s : State) (l : Nat) (f : Launch → Launch) : (s.modLaunch l f).security = s.security := rfl
@[simp] theorem modLaunch_link (s : State) (l : Nat) (f : Launch → Launch) : (s.modLaunch l f).link = s.link := rfl
@[simp] theorem modLaunch_power (s : State) (l : Nat) (f : Launch → Launch) : (s.modLaunch l f).power = s.power := rfl
@[simp] theorem modLaunch_quay (s : State) (l : Nat) (f : Launch → Launch) : (s.modLaunch l f).quay = s.quay := rfl
@[simp] theorem modLaunch_saved (s : State) (l : Nat) (f : Launch → Launch) : (s.modLaunch l f).saved = s.saved := rfl
@[simp] theorem modLaunch_cur (s : State) (l : Nat) (f : Launch → Launch) : (s.modLaunch l f).cur = s.cur := rfl
@[simp] theorem modLaunch_agenda (s : State) (l : Nat) (f : Launch → Launch) : (s.modLaunch l f).agenda = s.agenda := rfl
@[simp] theorem modLaunch_issued (s : State) (l : Nat) (f : Launch → Launch) : (s.modLaunch l f).issued = s.issued := rfl
@[simp] theorem modLaunch_fresh (s : State) (l : Nat) (f : Launch → Launch) : (s.modLaunch l f).fresh = s.fresh := rfl

@[simp] theorem modThread_cyc (s : State) (i : Nat) (f : Thread → Thread) : (s.modThread i f).cyc = s.cyc := rfl
@[simp] theorem modThread_gangs (s : State) (i : Nat) (f : Thread → Thread) : (s.modThread i f).gangs = s.gangs := rfl
@[simp] theorem modThread_gangNo (s : State) (i : Nat) (f : Thread → Thread) : (s.modThread i f).gangNo = s.gangNo := rfl
@[simp] theorem modThread_launches (s : State) (i : Nat) (f : Thread → Thread) : (s.modThread i f).launches = s.launches := rfl
@[simp] theorem modThread_launchNo (s : State) (i : Nat) (f : Thread → Thread) : (s.modThread i f).launchNo = s.launchNo := rfl
@[simp] theorem modThread_queue (s : State) (i : Nat) (f : Thread → Thread) : (s.modThread i f).queue = s.queue := rfl
@[simp] theorem modThread_placing (s : State) (i : Nat) (f : Thread → Thread) : (s.modThread i f).placing = s.placing := rfl
@[simp] theorem modThread_threadNo (s : State) (i : Nat) (f : Thread → Thread) : (s.modThread i f).threadNo = s.threadNo := rfl
@[simp] theorem modThread_cores (s : State) (i : Nat) (f : Thread → Thread) : (s.modThread i f).cores = s.cores := rfl
@[simp] theorem modThread_clusters (s : State) (i : Nat) (f : Thread → Thread) : (s.modThread i f).clusters = s.clusters := rfl
@[simp] theorem modThread_dies (s : State) (i : Nat) (f : Thread → Thread) : (s.modThread i f).dies = s.dies := rfl
@[simp] theorem modThread_sluices (s : State) (i : Nat) (f : Thread → Thread) : (s.modThread i f).sluices = s.sluices := rfl
@[simp] theorem modThread_locks (s : State) (i : Nat) (f : Thread → Thread) : (s.modThread i f).locks = s.locks := rfl
@[simp] theorem modThread_ctxs (s : State) (i : Nat) (f : Thread → Thread) : (s.modThread i f).ctxs = s.ctxs := rfl
@[simp] theorem modThread_reaches (s : State) (i : Nat) (f : Thread → Thread) : (s.modThread i f).reaches = s.reaches := rfl
@[simp] theorem modThread_mem (s : State) (i : Nat) (f : Thread → Thread) : (s.modThread i f).mem = s.mem := rfl
@[simp] theorem modThread_co (s : State) (i : Nat) (f : Thread → Thread) : (s.modThread i f).co = s.co := rfl
@[simp] theorem modThread_poison (s : State) (i : Nat) (f : Thread → Thread) : (s.modThread i f).poison = s.poison := rfl
@[simp] theorem modThread_keyOf (s : State) (i : Nat) (f : Thread → Thread) : (s.modThread i f).keyOf = s.keyOf := rfl
@[simp] theorem modThread_own (s : State) (i : Nat) (f : Thread → Thread) : (s.modThread i f).own = s.own := rfl
@[simp] theorem modThread_homes (s : State) (i : Nat) (f : Thread → Thread) : (s.modThread i f).homes = s.homes := rfl
@[simp] theorem modThread_ctxBase (s : State) (i : Nat) (f : Thread → Thread) : (s.modThread i f).ctxBase = s.ctxBase := rfl
@[simp] theorem modThread_rotate (s : State) (i : Nat) (f : Thread → Thread) : (s.modThread i f).rotate = s.rotate := rfl
@[simp] theorem modThread_unmapped (s : State) (i : Nat) (f : Thread → Thread) : (s.modThread i f).unmapped = s.unmapped := rfl
@[simp] theorem modThread_rotStat (s : State) (i : Nat) (f : Thread → Thread) : (s.modThread i f).rotStat = s.rotStat := rfl
@[simp] theorem modThread_iva (s : State) (i : Nat) (f : Thread → Thread) : (s.modThread i f).iva = s.iva := rfl
@[simp] theorem modThread_iasid (s : State) (i : Nat) (f : Thread → Thread) : (s.modThread i f).iasid = s.iasid := rfl
@[simp] theorem modThread_iscope (s : State) (i : Nat) (f : Thread → Thread) : (s.modThread i f).iscope = s.iscope := rfl
@[simp] theorem modThread_ibusy (s : State) (i : Nat) (f : Thread → Thread) : (s.modThread i f).ibusy = s.ibusy := rfl
@[simp] theorem modThread_preempt (s : State) (i : Nat) (f : Thread → Thread) : (s.modThread i f).preempt = s.preempt := rfl
@[simp] theorem modThread_peers (s : State) (i : Nat) (f : Thread → Thread) : (s.modThread i f).peers = s.peers := rfl
@[simp] theorem modThread_refuses (s : State) (i : Nat) (f : Thread → Thread) : (s.modThread i f).refuses = s.refuses := rfl
@[simp] theorem modThread_msix (s : State) (i : Nat) (f : Thread → Thread) : (s.modThread i f).msix = s.msix := rfl
@[simp] theorem modThread_sent (s : State) (i : Nat) (f : Thread → Thread) : (s.modThread i f).sent = s.sent := rfl
@[simp] theorem modThread_triggers (s : State) (i : Nat) (f : Thread → Thread) : (s.modThread i f).triggers = s.triggers := rfl
@[simp] theorem modThread_lines (s : State) (i : Nat) (f : Thread → Thread) : (s.modThread i f).lines = s.lines := rfl
@[simp] theorem modThread_stoppedCounters (s : State) (i : Nat) (f : Thread → Thread) : (s.modThread i f).stoppedCounters = s.stoppedCounters := rfl
@[simp] theorem modThread_security (s : State) (i : Nat) (f : Thread → Thread) : (s.modThread i f).security = s.security := rfl
@[simp] theorem modThread_link (s : State) (i : Nat) (f : Thread → Thread) : (s.modThread i f).link = s.link := rfl
@[simp] theorem modThread_power (s : State) (i : Nat) (f : Thread → Thread) : (s.modThread i f).power = s.power := rfl
@[simp] theorem modThread_quay (s : State) (i : Nat) (f : Thread → Thread) : (s.modThread i f).quay = s.quay := rfl
@[simp] theorem modThread_saved (s : State) (i : Nat) (f : Thread → Thread) : (s.modThread i f).saved = s.saved := rfl
@[simp] theorem modThread_cur (s : State) (i : Nat) (f : Thread → Thread) : (s.modThread i f).cur = s.cur := rfl
@[simp] theorem modThread_agenda (s : State) (i : Nat) (f : Thread → Thread) : (s.modThread i f).agenda = s.agenda := rfl
@[simp] theorem modThread_issued (s : State) (i : Nat) (f : Thread → Thread) : (s.modThread i f).issued = s.issued := rfl
@[simp] theorem modThread_fresh (s : State) (i : Nat) (f : Thread → Thread) : (s.modThread i f).fresh = s.fresh := rfl

@[simp] theorem setTlb_cyc (s : State) (c : Nat) (x : List TlbEntry) : (s.setTlb c x).cyc = s.cyc := rfl
@[simp] theorem setTlb_gangs (s : State) (c : Nat) (x : List TlbEntry) : (s.setTlb c x).gangs = s.gangs := rfl
@[simp] theorem setTlb_gangNo (s : State) (c : Nat) (x : List TlbEntry) : (s.setTlb c x).gangNo = s.gangNo := rfl
@[simp] theorem setTlb_launches (s : State) (c : Nat) (x : List TlbEntry) : (s.setTlb c x).launches = s.launches := rfl
@[simp] theorem setTlb_launchNo (s : State) (c : Nat) (x : List TlbEntry) : (s.setTlb c x).launchNo = s.launchNo := rfl
@[simp] theorem setTlb_queue (s : State) (c : Nat) (x : List TlbEntry) : (s.setTlb c x).queue = s.queue := rfl
@[simp] theorem setTlb_placing (s : State) (c : Nat) (x : List TlbEntry) : (s.setTlb c x).placing = s.placing := rfl
@[simp] theorem setTlb_threads (s : State) (c : Nat) (x : List TlbEntry) : (s.setTlb c x).threads = s.threads := rfl
@[simp] theorem setTlb_threadNo (s : State) (c : Nat) (x : List TlbEntry) : (s.setTlb c x).threadNo = s.threadNo := rfl
@[simp] theorem setTlb_cores (s : State) (c : Nat) (x : List TlbEntry) : (s.setTlb c x).cores = s.cores := rfl
@[simp] theorem setTlb_dies (s : State) (c : Nat) (x : List TlbEntry) : (s.setTlb c x).dies = s.dies := rfl
@[simp] theorem setTlb_sluices (s : State) (c : Nat) (x : List TlbEntry) : (s.setTlb c x).sluices = s.sluices := rfl
@[simp] theorem setTlb_locks (s : State) (c : Nat) (x : List TlbEntry) : (s.setTlb c x).locks = s.locks := rfl
@[simp] theorem setTlb_ctxs (s : State) (c : Nat) (x : List TlbEntry) : (s.setTlb c x).ctxs = s.ctxs := rfl
@[simp] theorem setTlb_reaches (s : State) (c : Nat) (x : List TlbEntry) : (s.setTlb c x).reaches = s.reaches := rfl
@[simp] theorem setTlb_mem (s : State) (c : Nat) (x : List TlbEntry) : (s.setTlb c x).mem = s.mem := rfl
@[simp] theorem setTlb_co (s : State) (c : Nat) (x : List TlbEntry) : (s.setTlb c x).co = s.co := rfl
@[simp] theorem setTlb_poison (s : State) (c : Nat) (x : List TlbEntry) : (s.setTlb c x).poison = s.poison := rfl
@[simp] theorem setTlb_keyOf (s : State) (c : Nat) (x : List TlbEntry) : (s.setTlb c x).keyOf = s.keyOf := rfl
@[simp] theorem setTlb_own (s : State) (c : Nat) (x : List TlbEntry) : (s.setTlb c x).own = s.own := rfl
@[simp] theorem setTlb_homes (s : State) (c : Nat) (x : List TlbEntry) : (s.setTlb c x).homes = s.homes := rfl
@[simp] theorem setTlb_ctxBase (s : State) (c : Nat) (x : List TlbEntry) : (s.setTlb c x).ctxBase = s.ctxBase := rfl
@[simp] theorem setTlb_rotate (s : State) (c : Nat) (x : List TlbEntry) : (s.setTlb c x).rotate = s.rotate := rfl
@[simp] theorem setTlb_unmapped (s : State) (c : Nat) (x : List TlbEntry) : (s.setTlb c x).unmapped = s.unmapped := rfl
@[simp] theorem setTlb_rotStat (s : State) (c : Nat) (x : List TlbEntry) : (s.setTlb c x).rotStat = s.rotStat := rfl
@[simp] theorem setTlb_iva (s : State) (c : Nat) (x : List TlbEntry) : (s.setTlb c x).iva = s.iva := rfl
@[simp] theorem setTlb_iasid (s : State) (c : Nat) (x : List TlbEntry) : (s.setTlb c x).iasid = s.iasid := rfl
@[simp] theorem setTlb_iscope (s : State) (c : Nat) (x : List TlbEntry) : (s.setTlb c x).iscope = s.iscope := rfl
@[simp] theorem setTlb_ibusy (s : State) (c : Nat) (x : List TlbEntry) : (s.setTlb c x).ibusy = s.ibusy := rfl
@[simp] theorem setTlb_preempt (s : State) (c : Nat) (x : List TlbEntry) : (s.setTlb c x).preempt = s.preempt := rfl
@[simp] theorem setTlb_peers (s : State) (c : Nat) (x : List TlbEntry) : (s.setTlb c x).peers = s.peers := rfl
@[simp] theorem setTlb_refuses (s : State) (c : Nat) (x : List TlbEntry) : (s.setTlb c x).refuses = s.refuses := rfl
@[simp] theorem setTlb_msix (s : State) (c : Nat) (x : List TlbEntry) : (s.setTlb c x).msix = s.msix := rfl
@[simp] theorem setTlb_sent (s : State) (c : Nat) (x : List TlbEntry) : (s.setTlb c x).sent = s.sent := rfl
@[simp] theorem setTlb_triggers (s : State) (c : Nat) (x : List TlbEntry) : (s.setTlb c x).triggers = s.triggers := rfl
@[simp] theorem setTlb_lines (s : State) (c : Nat) (x : List TlbEntry) : (s.setTlb c x).lines = s.lines := rfl
@[simp] theorem setTlb_stoppedCounters (s : State) (c : Nat) (x : List TlbEntry) : (s.setTlb c x).stoppedCounters = s.stoppedCounters := rfl
@[simp] theorem setTlb_security (s : State) (c : Nat) (x : List TlbEntry) : (s.setTlb c x).security = s.security := rfl
@[simp] theorem setTlb_link (s : State) (c : Nat) (x : List TlbEntry) : (s.setTlb c x).link = s.link := rfl
@[simp] theorem setTlb_power (s : State) (c : Nat) (x : List TlbEntry) : (s.setTlb c x).power = s.power := rfl
@[simp] theorem setTlb_quay (s : State) (c : Nat) (x : List TlbEntry) : (s.setTlb c x).quay = s.quay := rfl
@[simp] theorem setTlb_saved (s : State) (c : Nat) (x : List TlbEntry) : (s.setTlb c x).saved = s.saved := rfl
@[simp] theorem setTlb_cur (s : State) (c : Nat) (x : List TlbEntry) : (s.setTlb c x).cur = s.cur := rfl
@[simp] theorem setTlb_agenda (s : State) (c : Nat) (x : List TlbEntry) : (s.setTlb c x).agenda = s.agenda := rfl
@[simp] theorem setTlb_issued (s : State) (c : Nat) (x : List TlbEntry) : (s.setTlb c x).issued = s.issued := rfl
@[simp] theorem setTlb_fresh (s : State) (c : Nat) (x : List TlbEntry) : (s.setTlb c x).fresh = s.fresh := rfl

@[simp] theorem renew_cyc (s : State) : (s.renew).cyc = s.cyc := rfl
@[simp] theorem renew_gangs (s : State) : (s.renew).gangs = s.gangs := rfl
@[simp] theorem renew_gangNo (s : State) : (s.renew).gangNo = s.gangNo := rfl
@[simp] theorem renew_launches (s : State) : (s.renew).launches = s.launches := rfl
@[simp] theorem renew_launchNo (s : State) : (s.renew).launchNo = s.launchNo := rfl
@[simp] theorem renew_queue (s : State) : (s.renew).queue = s.queue := rfl
@[simp] theorem renew_placing (s : State) : (s.renew).placing = s.placing := rfl
@[simp] theorem renew_threads (s : State) : (s.renew).threads = s.threads := rfl
@[simp] theorem renew_threadNo (s : State) : (s.renew).threadNo = s.threadNo := rfl
@[simp] theorem renew_cores (s : State) : (s.renew).cores = s.cores := rfl
@[simp] theorem renew_clusters (s : State) : (s.renew).clusters = s.clusters := rfl
@[simp] theorem renew_dies (s : State) : (s.renew).dies = s.dies := rfl
@[simp] theorem renew_sluices (s : State) : (s.renew).sluices = s.sluices := rfl
@[simp] theorem renew_locks (s : State) : (s.renew).locks = s.locks := rfl
@[simp] theorem renew_ctxs (s : State) : (s.renew).ctxs = s.ctxs := rfl
@[simp] theorem renew_reaches (s : State) : (s.renew).reaches = s.reaches := rfl
@[simp] theorem renew_mem (s : State) : (s.renew).mem = s.mem := rfl
@[simp] theorem renew_co (s : State) : (s.renew).co = s.co := rfl
@[simp] theorem renew_poison (s : State) : (s.renew).poison = s.poison := rfl
@[simp] theorem renew_keyOf (s : State) : (s.renew).keyOf = s.keyOf := rfl
@[simp] theorem renew_own (s : State) : (s.renew).own = s.own := rfl
@[simp] theorem renew_homes (s : State) : (s.renew).homes = s.homes := rfl
@[simp] theorem renew_ctxBase (s : State) : (s.renew).ctxBase = s.ctxBase := rfl
@[simp] theorem renew_rotate (s : State) : (s.renew).rotate = s.rotate := rfl
@[simp] theorem renew_unmapped (s : State) : (s.renew).unmapped = s.unmapped := rfl
@[simp] theorem renew_rotStat (s : State) : (s.renew).rotStat = s.rotStat := rfl
@[simp] theorem renew_iva (s : State) : (s.renew).iva = s.iva := rfl
@[simp] theorem renew_iasid (s : State) : (s.renew).iasid = s.iasid := rfl
@[simp] theorem renew_iscope (s : State) : (s.renew).iscope = s.iscope := rfl
@[simp] theorem renew_ibusy (s : State) : (s.renew).ibusy = s.ibusy := rfl
@[simp] theorem renew_preempt (s : State) : (s.renew).preempt = s.preempt := rfl
@[simp] theorem renew_peers (s : State) : (s.renew).peers = s.peers := rfl
@[simp] theorem renew_refuses (s : State) : (s.renew).refuses = s.refuses := rfl
@[simp] theorem renew_msix (s : State) : (s.renew).msix = s.msix := rfl
@[simp] theorem renew_sent (s : State) : (s.renew).sent = s.sent := rfl
@[simp] theorem renew_triggers (s : State) : (s.renew).triggers = s.triggers := rfl
@[simp] theorem renew_lines (s : State) : (s.renew).lines = s.lines := rfl
@[simp] theorem renew_stoppedCounters (s : State) : (s.renew).stoppedCounters = s.stoppedCounters := rfl
@[simp] theorem renew_security (s : State) : (s.renew).security = s.security := rfl
@[simp] theorem renew_link (s : State) : (s.renew).link = s.link := rfl
@[simp] theorem renew_power (s : State) : (s.renew).power = s.power := rfl
@[simp] theorem renew_quay (s : State) : (s.renew).quay = s.quay := rfl
@[simp] theorem renew_saved (s : State) : (s.renew).saved = s.saved := rfl
@[simp] theorem renew_cur (s : State) : (s.renew).cur = s.cur := rfl
@[simp] theorem renew_agenda (s : State) : (s.renew).agenda = s.agenda := rfl
@[simp] theorem renew_issued (s : State) : (s.renew).issued = s.issued := rfl

@[simp] theorem interrupt_cyc (s : State) (v : Nat) : (s.interrupt v).cyc = s.cyc := rfl
@[simp] theorem interrupt_gangs (s : State) (v : Nat) : (s.interrupt v).gangs = s.gangs := rfl
@[simp] theorem interrupt_gangNo (s : State) (v : Nat) : (s.interrupt v).gangNo = s.gangNo := rfl
@[simp] theorem interrupt_launches (s : State) (v : Nat) : (s.interrupt v).launches = s.launches := rfl
@[simp] theorem interrupt_launchNo (s : State) (v : Nat) : (s.interrupt v).launchNo = s.launchNo := rfl
@[simp] theorem interrupt_queue (s : State) (v : Nat) : (s.interrupt v).queue = s.queue := rfl
@[simp] theorem interrupt_placing (s : State) (v : Nat) : (s.interrupt v).placing = s.placing := rfl
@[simp] theorem interrupt_threads (s : State) (v : Nat) : (s.interrupt v).threads = s.threads := rfl
@[simp] theorem interrupt_threadNo (s : State) (v : Nat) : (s.interrupt v).threadNo = s.threadNo := rfl
@[simp] theorem interrupt_cores (s : State) (v : Nat) : (s.interrupt v).cores = s.cores := rfl
@[simp] theorem interrupt_clusters (s : State) (v : Nat) : (s.interrupt v).clusters = s.clusters := rfl
@[simp] theorem interrupt_dies (s : State) (v : Nat) : (s.interrupt v).dies = s.dies := rfl
@[simp] theorem interrupt_sluices (s : State) (v : Nat) : (s.interrupt v).sluices = s.sluices := rfl
@[simp] theorem interrupt_locks (s : State) (v : Nat) : (s.interrupt v).locks = s.locks := rfl
@[simp] theorem interrupt_ctxs (s : State) (v : Nat) : (s.interrupt v).ctxs = s.ctxs := rfl
@[simp] theorem interrupt_reaches (s : State) (v : Nat) : (s.interrupt v).reaches = s.reaches := rfl
@[simp] theorem interrupt_mem (s : State) (v : Nat) : (s.interrupt v).mem = s.mem := rfl
@[simp] theorem interrupt_co (s : State) (v : Nat) : (s.interrupt v).co = s.co := rfl
@[simp] theorem interrupt_poison (s : State) (v : Nat) : (s.interrupt v).poison = s.poison := rfl
@[simp] theorem interrupt_keyOf (s : State) (v : Nat) : (s.interrupt v).keyOf = s.keyOf := rfl
@[simp] theorem interrupt_own (s : State) (v : Nat) : (s.interrupt v).own = s.own := rfl
@[simp] theorem interrupt_homes (s : State) (v : Nat) : (s.interrupt v).homes = s.homes := rfl
@[simp] theorem interrupt_ctxBase (s : State) (v : Nat) : (s.interrupt v).ctxBase = s.ctxBase := rfl
@[simp] theorem interrupt_rotate (s : State) (v : Nat) : (s.interrupt v).rotate = s.rotate := rfl
@[simp] theorem interrupt_unmapped (s : State) (v : Nat) : (s.interrupt v).unmapped = s.unmapped := rfl
@[simp] theorem interrupt_rotStat (s : State) (v : Nat) : (s.interrupt v).rotStat = s.rotStat := rfl
@[simp] theorem interrupt_iva (s : State) (v : Nat) : (s.interrupt v).iva = s.iva := rfl
@[simp] theorem interrupt_iasid (s : State) (v : Nat) : (s.interrupt v).iasid = s.iasid := rfl
@[simp] theorem interrupt_iscope (s : State) (v : Nat) : (s.interrupt v).iscope = s.iscope := rfl
@[simp] theorem interrupt_ibusy (s : State) (v : Nat) : (s.interrupt v).ibusy = s.ibusy := rfl
@[simp] theorem interrupt_preempt (s : State) (v : Nat) : (s.interrupt v).preempt = s.preempt := rfl
@[simp] theorem interrupt_peers (s : State) (v : Nat) : (s.interrupt v).peers = s.peers := rfl
@[simp] theorem interrupt_refuses (s : State) (v : Nat) : (s.interrupt v).refuses = s.refuses := rfl
@[simp] theorem interrupt_sent (s : State) (v : Nat) : (s.interrupt v).sent = s.sent := rfl
@[simp] theorem interrupt_triggers (s : State) (v : Nat) : (s.interrupt v).triggers = s.triggers := rfl
@[simp] theorem interrupt_lines (s : State) (v : Nat) : (s.interrupt v).lines = s.lines := rfl
@[simp] theorem interrupt_stoppedCounters (s : State) (v : Nat) : (s.interrupt v).stoppedCounters = s.stoppedCounters := rfl
@[simp] theorem interrupt_security (s : State) (v : Nat) : (s.interrupt v).security = s.security := rfl
@[simp] theorem interrupt_link (s : State) (v : Nat) : (s.interrupt v).link = s.link := rfl
@[simp] theorem interrupt_power (s : State) (v : Nat) : (s.interrupt v).power = s.power := rfl
@[simp] theorem interrupt_quay (s : State) (v : Nat) : (s.interrupt v).quay = s.quay := rfl
@[simp] theorem interrupt_saved (s : State) (v : Nat) : (s.interrupt v).saved = s.saved := rfl
@[simp] theorem interrupt_cur (s : State) (v : Nat) : (s.interrupt v).cur = s.cur := rfl
@[simp] theorem interrupt_agenda (s : State) (v : Nat) : (s.interrupt v).agenda = s.agenda := rfl
@[simp] theorem interrupt_issued (s : State) (v : Nat) : (s.interrupt v).issued = s.issued := rfl
@[simp] theorem interrupt_fresh (s : State) (v : Nat) : (s.interrupt v).fresh = s.fresh := rfl

end Sys2Proof.Machine.State
end

