-- ==== Sys2Proof/Laws/Store.lean ====
section
/-! SUPPORT. Sparse maps and memory: what a read gives after an update, and that every update of memory keeps the canonical
form. -/

namespace Sys2Proof.Machine

/-! ### Sparse maps -/

theorem FMap.find_put {α : Type} (m : FMap α) (k j : Nat) (v : α) :
    (m.put k v).find j = if j = k then some v else m.find j := by
  induction m with
  | nil => by_cases h : j = k <;> first | (simp [FMap.put, FMap.find, h]; done) | (simp [FMap.put, FMap.find, h, Ne.symm h]; done)
  | cons x r ih =>
    obtain ⟨i, w⟩ := x
    simp only [FMap.put]
    split
    · by_cases h : j = k <;> first | (simp [FMap.find, h]; done) | (simp [FMap.find, h, Ne.symm h]; done)
    · split
      · subst_vars; by_cases h : j = i <;> first | (simp [FMap.find, h]; done) | (simp [FMap.find, h, Ne.symm h]; done)
      · simp only [FMap.find, ih]
        by_cases h : i = j
        · rw [if_pos h, if_pos h, if_neg (by omega)]
        · rw [if_neg h, if_neg h]

@[simp] theorem FMap.find_put_self {α : Type} (m : FMap α) (k : Nat) (v : α) : (m.put k v).find k = some v := by
  simp [FMap.find_put]

theorem FMap.getOr_put {α : Type} (m : FMap α) (k j : Nat) (v d : α) :
    (m.put k v).getOr j d = if j = k then v else m.getOr j d := by
  simp only [FMap.getOr, FMap.find_put]; split <;> rfl

theorem FMap.find_adjust {α : Type} (m : FMap α) (k j : Nat) (f : α → α) :
    (m.adjust k f).find j = if j = k then (m.find j).map f else m.find j := by
  induction m with
  | nil => simp [FMap.adjust, FMap.find]
  | cons x r ih =>
    obtain ⟨i, w⟩ := x
    simp only [FMap.adjust]
    split
    · subst_vars; by_cases h : j = i <;> first | (simp [FMap.find, h]; done) | (simp [FMap.find, h, Ne.symm h]; done)
    · simp only [FMap.find, ih]
      by_cases h : i = j
      · rw [if_pos h, if_pos h, if_neg (by omega)]
      · rw [if_neg h, if_neg h]

theorem FMap.find_mapAll {α : Type} (m : FMap α) (f : Nat → α → α) (k : Nat) :
    (m.mapAll f).find k = (m.find k).map (f k) := by
  induction m with
  | nil => rfl
  | cons x r ih =>
    obtain ⟨i, w⟩ := x
    simp only [FMap.mapAll, List.map_cons, FMap.find]
    split
    · subst_vars; rfl
    · exact ih

/-! ### Memory: reads after writes -/

theorem Memory.read_write (m : List Host.Cell) (k j : Nat) (v : Byte) (hm : ∃ b, Memory.above b m = true) :
    Memory.read (Memory.write m k v) j = if j = k then v else Memory.read m j := by
  have low : ∀ (r : List Host.Cell) (b j : Nat), Memory.above b r = true → j < b → Memory.read r j = blankByte := by
    intro r
    induction r with
    | nil => intros; rfl
    | cons x r ih =>
      obtain ⟨i, w⟩ := x
      intro b j hb hj
      simp only [Memory.above, Bool.and_eq_true, decide_eq_true_eq] at hb
      simp only [Memory.read]
      rw [if_neg (by omega)]
      exact ih (i + 1) j hb.2 (by omega)
  induction m with
  | nil =>
    by_cases hv : v = blankByte <;> by_cases hj : j = k <;>
      first | (simp [Memory.write, Memory.read, hv, hj]; done) | simp [Memory.write, Memory.read, hv, hj, Ne.symm hj]
  | cons x r ih =>
    obtain ⟨i, w⟩ := x
    obtain ⟨b, hb⟩ := hm
    have hr : Memory.above (i + 1) r = true := by
      simp only [Memory.above, Bool.and_eq_true] at hb; exact hb.2
    simp only [Memory.write]
    split
    · have hk : Memory.read ((i, w) :: r) k = blankByte := by
        simp only [Memory.read]; rw [if_neg (by omega)]; exact low r _ k hr (by omega)
      by_cases hv : v = blankByte <;> by_cases hj : j = k
      · simp [hv, hj, hk]
      · simp [hv, hj]
      · simp [hv, hj, Memory.read]
      · simp only [hv, hj, if_false]; simp [Memory.read, Ne.symm hj]
    · split
      · rename_i _ h
        subst h
        have hk : Memory.read r k = blankByte := low r _ k hr (by omega)
        by_cases hv : v = blankByte <;> by_cases hj : j = k
        · simp [hv, hj, hk]
        · simp [hv, hj, Memory.read, Ne.symm hj]
        · simp [hv, hj, Memory.read]
        · simp [hv, hj, Memory.read, Ne.symm hj]
      · simp only [Memory.read, ih ⟨_, hr⟩]
        split
        · rw [if_neg (by omega)]
        · rfl

/-- Reading the byte just written. -/
theorem Memory.read_write_self (m : List Host.Cell) (k : Nat) (v : Byte) (hm : Memory.wf m = true) :
    Memory.read (Memory.write m k v) k = v := by
  rw [Memory.read_write m k k v ⟨0, hm⟩]; simp

/-- Reading any other byte. -/
theorem Memory.read_write_other (m : List Host.Cell) (k j : Nat) (v : Byte) (hm : Memory.wf m = true) (h : j ≠ k) :
    Memory.read (Memory.write m k v) j = Memory.read m j := by
  rw [Memory.read_write m k j v ⟨0, hm⟩, if_neg h]

/-! ### The canonical form is kept -/

theorem Memory.above_mono {b c : Nat} (h : c ≤ b) : ∀ {m : List Host.Cell}, Memory.above b m = true → Memory.above c m = true
  | [], _ => rfl
  | (j, v) :: r, hm => by
    simp only [Memory.above, Bool.and_eq_true, decide_eq_true_eq] at hm ⊢
    exact ⟨⟨by omega, hm.1.2⟩, hm.2⟩

theorem Memory.above_write (m : List Host.Cell) (k : Nat) (v : Byte) (b : Nat) (hb : b ≤ k) (hm : Memory.above b m = true) :
    Memory.above b (Memory.write m k v) = true := by
  induction m generalizing b with
  | nil => by_cases hv : v = blankByte <;> simp [Memory.write, Memory.above, hv, hb]
  | cons x r ih =>
    obtain ⟨i, w⟩ := x
    have hm' := hm
    simp only [Memory.above, Bool.and_eq_true, decide_eq_true_eq] at hm'
    simp only [Memory.write]
    split
    · by_cases hv : v = blankByte
      · simpa [hv] using hm
      · simp only [hv, if_false, Memory.above, Bool.and_eq_true, decide_eq_true_eq, ne_eq, not_false_eq_true, decide_true,
          and_true]
        exact ⟨hb, ⟨by omega, hm'.1.2⟩, hm'.2⟩
    · split
      · by_cases hv : v = blankByte
        · simp only [hv, if_true]; exact Memory.above_mono (by omega) hm'.2
        · simp only [hv, if_false, Memory.above, Bool.and_eq_true, decide_eq_true_eq]
          subst_vars
          exact ⟨⟨hb, hv⟩, hm'.2⟩
      · simp only [Memory.above, Bool.and_eq_true, decide_eq_true_eq]
        exact ⟨hm'.1, ih (i + 1) (by omega) hm'.2⟩

/-- A write of one byte keeps the canonical form. -/
theorem Memory.wf_write (m : List Host.Cell) (k : Nat) (v : Byte) (hm : Memory.wf m = true) :
    Memory.wf (Memory.write m k v) = true := Memory.above_write m k v 0 (by omega) hm

theorem Memory.wf_writeLE (n : Nat) : ∀ (m : List Host.Cell) (k v : Nat), Memory.wf m = true →
    Memory.wf (Memory.writeLE m k n v) = true := by
  induction n with
  | zero => intro m k v hm; exact hm
  | succ n ih => intro m k v hm; exact ih _ _ _ (Memory.wf_write m k _ hm)

theorem Memory.wf_writeBytes (bs : List Byte) : ∀ (m : List Host.Cell) (k : Nat), Memory.wf m = true →
    Memory.wf (Memory.writeBytes m k bs) = true := by
  induction bs with
  | nil => intro m k hm; exact hm
  | cons b r ih => intro m k hm; exact ih _ _ (Memory.wf_write m k b hm)

/-- Leaving bytes out keeps the canonical form. -/
theorem Memory.above_filter (p : Host.Cell → Bool) : ∀ (m : List Host.Cell) (b : Nat), Memory.above b m = true →
    Memory.above b (m.filter p) = true
  | [], _, _ => rfl
  | (j, v) :: r, b, hm => by
    simp only [Memory.above, Bool.and_eq_true, decide_eq_true_eq] at hm
    have ih := Memory.above_filter p r (j + 1) hm.2
    rw [List.filter_cons]
    split
    · simp only [Memory.above, Bool.and_eq_true, decide_eq_true_eq]
      exact ⟨hm.1, ih⟩
    · exact Memory.above_mono (by omega) ih

theorem Memory.wf_filter (p : Host.Cell → Bool) (m : List Host.Cell) (hm : Memory.wf m = true) : Memory.wf (m.filter p) = true :=
  Memory.above_filter p m 0 hm

theorem Memory.clear_eq_filter (k n : Nat) : ∀ m : List Host.Cell,
    Memory.clear m k n = m.filter fun x => !(decide (k ≤ x.1) && decide (x.1 < k + n))
  | [] => rfl
  | (j, v) :: r => by
    simp only [Memory.clear, Memory.clear_eq_filter k n r, List.filter_cons]
    by_cases h : k ≤ j ∧ j < k + n
    · simp [h]
    · have : (!(decide (k ≤ j) && decide (j < k + n))) = true := by
        simp only [Bool.not_eq_true', Bool.and_eq_false_iff, decide_eq_false_iff_not]; omega
      rw [if_neg h, if_pos this]

theorem Memory.wf_clear (m : List Host.Cell) (k n : Nat) (hm : Memory.wf m = true) : Memory.wf (Memory.clear m k n) = true := by
  rw [Memory.clear_eq_filter]; exact Memory.wf_filter _ m hm

/-- A write of `n` bytes changes no byte outside them. -/
theorem Memory.read_writeLE_other (n : Nat) : ∀ (m : List Host.Cell) (k v j : Nat), Memory.wf m = true → (j < k ∨ k + n ≤ j) →
    Memory.read (Memory.writeLE m k n v) j = Memory.read m j := by
  induction n with
  | zero => intros; rfl
  | succ n ih =>
    intro m k v j hm h
    simp only [Memory.writeLE]
    rw [ih _ _ _ _ (Memory.wf_write m k _ hm) (by omega), Memory.read_write_other m k j _ hm (by omega)]

/-- Byte `i` of a write of `n` bytes. -/
theorem Memory.read_writeLE_at (n : Nat) : ∀ (m : List Host.Cell) (k v i : Nat), Memory.wf m = true → i < n →
    Memory.read (Memory.writeLE m k n v) (k + i) = BitVec.ofNat 8 (v / 256 ^ i) := by
  induction n with
  | zero => intros; omega
  | succ n ih =>
    intro m k v i hm h
    simp only [Memory.writeLE]
    cases i with
    | zero =>
      rw [Memory.read_writeLE_other n _ _ _ _ (Memory.wf_write m k _ hm) (by omega), Nat.add_zero,
        Memory.read_write_self m k _ hm]
      simp
    | succ i =>
      have := ih (Memory.write m k (BitVec.ofNat 8 v)) (k + 1) (v / 256) i (Memory.wf_write m k _ hm) (by omega)
      rw [show k + (i + 1) = k + 1 + i by omega, this, Nat.div_div_eq_div_mul, Nat.pow_succ, Nat.mul_comm 256]

end Sys2Proof.Machine
end

