-- ==== Sys2Proof/Laws/Ops.lean ====
section
/-! SUPPORT. What each shared operation can do: the issue of a word, the writes of registers, predicates and masks, and their
frames. -/

namespace Sys2Proof.Machine

/-! ### Finding gangs and slices after a change -/

theorem FMap.getOr_adjust {α : Type} (m : FMap α) (k j : Nat) (f : α → α) (d x : α) (h : m.find k = some x) :
    (m.adjust k f).getOr j d = if j = k then f x else m.getOr j d := by
  simp only [FMap.getOr, FMap.find_adjust]
  split
  · subst_vars; simp [h]
  · rfl

namespace State

@[simp] theorem find_modGang (s : State) (g j : Nat) (f : Gang → Gang) :
    (s.modGang g f).gangs.find j = if j = g then (s.gangs.find j).map f else s.gangs.find j := FMap.find_adjust ..

theorem gang_of_find {s : State} {g : Nat} {y : Gang} (h : s.gangs.find g = some y) : s.gang g = y := by
  simp [gang, FMap.getOr, h]

/-! ### The issue of a word -/

/-- A word whose issue nothing stops performs, is charged and retires. -/
theorem issueWord_next {s : State} {i : Instr} {chk : State → Option TrapInfo} (act : State → State)
    (h₁ : ((s.interlock i).findFlaws i).screen i = none) (h₂ : ((s.interlock i).findFlaws i).endTrap i = none)
    (h₃ : chk ((s.interlock i).findFlaws i) = none) :
    s.issueWord i chk act = .next ((act ((((s.interlock i).findFlaws i).chargeWord i 0).begin i)).retire i) := by
  simp only [issueWord, firstFault, h₁, h₂, h₃, firstOf]

/-- A word always answers a next state. -/
theorem issueWord_total (s : State) (i : Instr) (chk : State → Option TrapInfo) (act : State → State) :
    ∃ t, s.issueWord i chk act = .next t := by
  simp only [issueWord]
  split <;> exact ⟨_, rfl⟩

/-- With no result that adds or exchanges outstanding, nothing interlocks. -/
theorem interlock_settled {s : State} (h : s.Settled) (i : Instr) : s.interlock i = s := by
  have hg : s.gang s.cur.gang = s.me := rfl
  have key : ∀ ks : List Nat, (∀ k ∈ ks, k ∈ s.cur.slices) →
      ks.foldl (fun s' k => s'.drainRegs s'.cur.gang k (s'.touches i k)) s = s := by
    intro ks
    induction ks with
    | nil => intro _; rfl
    | cons k r ih =>
      intro hk
      have hq : s.drainRegs s.cur.gang k (s.touches i k) = s := by
        have : ((s.slice s.cur.gang k).pend.any fun p => p.isRmw && decide (p.kind ≠ .asum) && (s.touches i k).contains p.dst) = false := by
          rw [List.any_eq_false]
          intro p hp
          have := h.quiet k (hk k (by simp)) p hp
          simp [this]
        simp only [drainRegs, this, Bool.false_eq_true, if_false]
      rw [List.foldl_cons, hq]
      exact ih fun k' hk' => hk k' (by simp [hk'])
  exact key s.cur.slices fun k hk => hk

/-- With no error in a register, no read meets one. -/
theorem findFlaws_settled {s : State} (h : s.Settled) (i : Instr) : s.findFlaws i = s := by
  have one (k : Nat) (hk : k ∈ s.cur.slices) : ∀ sts : List Nat, s.meetFlaws s.cur.gang k sts = s := by
    intro sts
    simp only [meetFlaws]
    induction sts with
    | nil => rfl
    | cons st r ih =>
      have : ((s.slice s.cur.gang k).regs.getOr st Reg.zero).flaw = 0 := h.sound k hk st
      rw [List.foldl_cons, if_pos this]
      exact ih
  have key : ∀ ks : List Nat, (∀ k ∈ ks, k ∈ s.cur.slices) →
      ks.foldl (fun s' k => s'.meetFlaws s'.cur.gang k ((i.srcs (s'.tagOf k)).map fun r => s'.storage k r.reg)) s = s := by
    intro ks
    induction ks with
    | nil => intro _; rfl
    | cons k r ih =>
      intro hk
      rw [List.foldl_cons, one k (hk k (by simp))]
      exact ih fun k' hk' => hk k' (by simp [hk'])
  exact key s.cur.slices fun k hk => hk

/-! ### Changes of the issuing gang's slices -/

theorem find_modSl (s : State) (k : Nat) (f : Slice → Slice) {y : Gang} (h : s.gangs.find s.cur.gang = some y) :
    (s.modSl k f).gangs.find s.cur.gang = some { y with slices := y.slices.adjust k f } := by
  show (FMap.adjust _ _ _).find _ = _
  rw [FMap.find_adjust, if_pos rfl, h]
  rfl

theorem me_modSl (s : State) (k : Nat) (f : Slice → Slice) (h : s.gangs.find s.cur.gang = some s.me) :
    (s.modSl k f).me = { s.me with slices := s.me.slices.adjust k f } := gang_of_find (find_modSl s k f h)

theorem me_modSl_find (s : State) (k j : Nat) (f : Slice → Slice) (h : s.gangs.find s.cur.gang = some s.me) :
    (s.modSl k f).me.slices.find j = if j = k then (s.me.slices.find j).map f else s.me.slices.find j := by
  rw [me_modSl s k f h]
  exact FMap.find_adjust ..

theorem gangs_modSl (s : State) (k : Nat) (f : Slice → Slice) (h : s.gangs.find s.cur.gang = some s.me) :
    (s.modSl k f).gangs.find (s.modSl k f).cur.gang = some (s.modSl k f).me := by
  rw [me_modSl s k f h]
  exact find_modSl s k f h

/-- From `s` to `t` only the slices `ks` of the issuing gang change, each by its own `F`. -/
structure Moves (s t : State) (ks : List Nat) (F : Nat → Slice → Slice → Prop) : Prop where
  module : t.still = s.still
  cur : { t.cur with olds := [] } = { s.cur with olds := [] }
  gangs : ∀ g, g ≠ s.cur.gang → t.gangs.find g = s.gangs.find g
  found : t.gangs.find t.cur.gang = some t.me
  gang : { t.me with slices := [] } = { s.me with slices := [] }
  away : ∀ k, k ∉ ks → t.me.slices.find k = s.me.slices.find k
  slice : ∀ k ∈ ks, ∀ x, s.me.slices.find k = some x → ∃ y, t.me.slices.find k = some y ∧ F k x y

theorem Moves.curGang {s t : State} {ks F} (h : Moves s t ks F) : t.cur.gang = s.cur.gang := by
  have := congrArg Issue.gang h.cur; simpa using this

theorem Moves.curSlices {s t : State} {ks F} (h : Moves s t ks F) : t.cur.slices = s.cur.slices := by
  have := congrArg Issue.slices h.cur; simpa using this

theorem Moves.curLats {s t : State} {ks F} (h : Moves s t ks F) : t.cur.lats = s.cur.lats := by
  have := congrArg Issue.lats h.cur; simpa using this

theorem Moves.curRaised {s t : State} {ks F} (h : Moves s t ks F) : t.cur.raised = s.cur.raised := by
  have := congrArg Issue.raised h.cur; simpa using this

theorem Moves.allot {s t : State} {ks F} (h : Moves s t ks F) : t.me.allot = s.me.allot := by
  have := congrArg Gang.allot h.gang; simpa using this

theorem Moves.refl {s : State} (h : s.gangs.find s.cur.gang = some s.me) : Moves s s [] fun _ x y => y = x :=
  ⟨rfl, rfl, fun _ _ => rfl, h, rfl, fun _ _ => rfl, by simp⟩

/-- One slice changed by a function. -/
theorem Moves.one (s : State) (k : Nat) (f : Slice → Slice) (h : s.gangs.find s.cur.gang = some s.me) :
    Moves s (s.modSl k f) [k] fun _ x y => y = f x where
  module := rfl
  cur := rfl
  gangs g hg := by
    have : g ≠ s.cur.gang := hg
    simp [modSl, modSlice, this]
  found := gangs_modSl s k f h
  gang := by rw [me_modSl s k f h]
  away j hj := by
    rw [me_modSl_find s k j f h, if_neg (by simpa using hj)]
  slice j hj x hx := by
    have hj : j = k := by simpa using hj
    subst hj
    exact ⟨f x, by rw [me_modSl_find s j j f h, if_pos rfl, hx]; rfl, rfl⟩

/-- Noting old values changes the issue alone. -/
theorem Moves.olds {s t : State} {ks F} (h : Moves s t ks F) (o : List (Nat × Dst × Reg)) :
    Moves s { t with cur := { t.cur with olds := o } } ks F where
  module := h.module
  cur := h.cur
  gangs := h.gangs
  found := h.found
  gang := h.gang
  away := h.away
  slice := h.slice

/-- Changes of disjoint slices in turn. -/
theorem Moves.cons {s t u : State} {k : Nat} {ks : List Nat} {F : Nat → Slice → Slice → Prop}
    (h₁ : Moves s t [k] F) (h₂ : Moves t u ks F) (hk : k ∉ ks) : Moves s u (k :: ks) F where
  module := h₂.module.trans h₁.module
  cur := h₂.cur.trans h₁.cur
  gangs g hg := (h₂.gangs g (by rw [h₁.curGang]; exact hg)).trans (h₁.gangs g hg)
  found := h₂.found
  gang := h₂.gang.trans h₁.gang
  away j hj := by
    simp only [List.mem_cons, not_or] at hj
    rw [h₂.away j hj.2, h₁.away j (by simpa using hj.1)]
  slice j hj x hx := by
    simp only [List.mem_cons] at hj
    by_cases hjk : j = k
    · subst hjk
      obtain ⟨y, hy, hF⟩ := h₁.slice j (by simp) x hx
      exact ⟨y, by rw [h₂.away j hk, hy], hF⟩
    · exact h₂.slice j (by simpa [hjk] using hj) x (by rw [h₁.away j (by simpa using hjk), hx])

/-- The same slices changed twice. -/
theorem Moves.trans {s t u : State} {ks : List Nat} {F G : Nat → Slice → Slice → Prop}
    (h₁ : Moves s t ks F) (h₂ : Moves t u ks G) : Moves s u ks fun k x z => ∃ y, F k x y ∧ G k y z where
  module := h₂.module.trans h₁.module
  cur := h₂.cur.trans h₁.cur
  gangs g hg := (h₂.gangs g (by rw [h₁.curGang]; exact hg)).trans (h₁.gangs g hg)
  found := h₂.found
  gang := h₂.gang.trans h₁.gang
  away j hj := (h₂.away j hj).trans (h₁.away j hj)
  slice j hj x hx := by
    obtain ⟨y, hy, hF⟩ := h₁.slice j hj x hx
    obtain ⟨z, hz, hG⟩ := h₂.slice j hj y hy
    exact ⟨z, hz, y, hF, hG⟩

theorem Moves.mono {s t : State} {ks : List Nat} {F G : Nat → Slice → Slice → Prop}
    (h : Moves s t ks F) (hFG : ∀ k ∈ ks, ∀ x y, F k x y → G k x y) : Moves s t ks G :=
  ⟨h.module, h.cur, h.gangs, h.found, h.gang, h.away, fun k hk x hx =>
    let ⟨y, hy, hF⟩ := h.slice k hk x hx
    ⟨y, hy, hFG k hk x y hF⟩⟩

/-- A change of each slice of a list in turn, where each leaves the others' conditions as they were. -/
theorem Moves.fold {F : Nat → Slice → Slice → Prop} (f : State → Nat → State) (s₀ : State) :
    ∀ (ks : List Nat), ks.Nodup → s₀.gangs.find s₀.cur.gang = some s₀.me →
      (∀ (t : State) (done : List Nat) (k : Nat), Moves s₀ t done F → k ∈ ks → k ∉ done → Moves t (f t k) [k] F) →
      Moves s₀ (ks.foldl f s₀) ks F := by
  intro ks hn h hf
  suffices H : ∀ (r done : List Nat) (t : State), Moves s₀ t done F → (∀ k ∈ r, k ∈ ks ∧ k ∉ done) → r.Nodup →
      ∃ d, (∀ k, k ∈ d ↔ k ∈ done ∨ k ∈ r) ∧ Moves s₀ (r.foldl f t) d F by
    obtain ⟨d, hd, hm⟩ := H ks [] s₀ ((Moves.refl h).mono (by simp)) (fun k hk => ⟨hk, by simp⟩) hn
    exact ⟨hm.module, hm.cur, hm.gangs, hm.found, hm.gang, fun k hk => hm.away k (by simpa [hd] using hk),
      fun k hk => hm.slice k (by simpa [hd] using hk)⟩
  intro r
  induction r with
  | nil => intro done t ht _ _; exact ⟨done, by simp, ht⟩
  | cons k r ih =>
    intro done t ht hr hnr
    have hk := hr k (by simp)
    have h1 := hf t done k ht hk.1 hk.2
    have hstep : Moves s₀ (f t k) (k :: done) F :=
      ⟨h1.module.trans ht.module, h1.cur.trans ht.cur,
        fun g hg => (h1.gangs g (by rw [ht.curGang]; exact hg)).trans (ht.gangs g hg), h1.found, h1.gang.trans ht.gang,
        fun j hj => by
          simp only [List.mem_cons, not_or] at hj
          rw [h1.away j (by simpa using hj.1), ht.away j hj.2],
        fun j hj x hx => by
          by_cases hjk : j = k
          · subst hjk
            exact h1.slice j (by simp) x (by rw [ht.away j hk.2, hx])
          · obtain ⟨y, hy, hF⟩ := ht.slice j (by simpa [hjk] using hj) x hx
            exact ⟨y, by rw [h1.away j (by simpa using hjk), hy], hF⟩⟩
    obtain ⟨d, hd, hm⟩ := ih (k :: done) (f t k) hstep
      (fun j hj => ⟨(hr j (by simp [hj])).1, by
        simp only [List.mem_cons, not_or]
        exact ⟨fun e => (List.nodup_cons.mp hnr).1 (e ▸ hj), (hr j (by simp [hj])).2⟩⟩)
      (List.nodup_cons.mp hnr).2
    exact ⟨d, by intro j; rw [hd]; simp; grind, hm⟩

/-! ### Writing registers -/

theorem sl_of_find {s : State} {k : Nat} {x : Slice} (h : s.me.slices.find k = some x) : s.sl k = x := by
  simp [sl, FMap.getOr, h]

/-- A slice after a write of register `n`: the register's new value, and what is noted of when it is readable. -/
def Wrote (allot n : Nat) (m : Nat → BitVec 4) (f : Nat → Nat → Word) (tg : Nat → Tag) (k : Nat) (x y : Slice) : Prop :=
  ∃ fl, (∀ e ∈ fl, e ∈ x.flights ∨ e.dst = .v (storageOf allot x.wb n)) ∧
    y = { x with
      regs := if m k = 0 then x.regs
              else x.regs.put (storageOf allot x.wb n) ((x.regs.getOr (storageOf allot x.wb n) Reg.zero).write (m k) (f k) (tg k)),
      flights := fl }

/-- One known slice changed by a function. -/
theorem Moves.oneAt {s : State} {k : Nat} {x : Slice} (f : Slice → Slice) (h : s.gangs.find s.cur.gang = some s.me)
    (hx : s.me.slices.find k = some x) : Moves s (s.modSl k f) [k] fun j a b => j = k ∧ a = x ∧ b = f x :=
  let m := Moves.one s k f h
  ⟨m.module, m.cur, m.gangs, m.found, m.gang, m.away, fun j hj a ha => by
    have hj : j = k := by simpa using hj
    subst hj
    have e : x = a := by rw [hx] at ha; exact Option.some.inj ha
    subst e
    obtain ⟨b, hb, rfl⟩ := m.slice j (by simp) x ha
    exact ⟨f x, hb, rfl, rfl, rfl⟩⟩

/-- Noting an old value: the flights of the slice, and the issue's list. -/
theorem noteOld_moves (t : State) (k : Nat) (d : Dst) (m : BitVec 4) (old : Reg) (x : Slice)
    (h : t.gangs.find t.cur.gang = some t.me) (hx : t.me.slices.find k = some x) :
    Moves t (t.noteOld k d m old) [k] fun j a b => j = k ∧ a = x ∧
      ∃ fl, (∀ e ∈ fl, e ∈ x.flights ∨ e.dst = d) ∧ b = { x with flights := fl } := by
  let o := if (viewOf t.cur.olds k d).isSome then t.cur.olds else (k, d, old) :: t.cur.olds
  let land (f : Flight) : Flight := if f.dst = d then { f with mask := f.mask &&& ~~~m } else f
  let fl : List Flight := if t.latOf k d = 0 then x.flights.map land else ⟨d, t.now + t.latOf k d, old, m⟩ :: x.flights
  let F (x : Slice) : Slice :=
    { x with flights := if t.latOf k d = 0 then x.flights.map land else ⟨d, t.now + t.latOf k d, old, m⟩ :: x.flights }
  have e : t.noteOld k d m old = { t.modSl k F with cur := { (t.modSl k F).cur with olds := o } } := by
    show (if t.latOf k d = 0 then _ else _) = _
    split <;> rename_i hn <;> simp only [F, hn, if_true, if_false] <;> rfl
  rw [e]
  refine ((Moves.oneAt F h hx).olds o).mono ?_
  rintro j - a b ⟨rfl, rfl, rfl⟩
  refine ⟨rfl, rfl, fl, ?_, rfl⟩
  intro e he
  by_cases hn : t.latOf j d = 0
  · simp only [fl, if_pos hn] at he
    obtain ⟨f, hf, rfl⟩ := List.mem_map.mp he
    by_cases hd : f.dst = d
    · exact .inr (by simp only [land, if_pos hd]; exact hd)
    · exact .inl (by simp only [land, if_neg hd]; exact hf)
  · simp only [fl, if_neg hn] at he
    rcases List.mem_cons.mp he with rfl | he
    · exact .inr rfl
    · exact .inl he

theorem write_moves (t : State) (k n : Nat) (m : Nat → BitVec 4) (f : Nat → Nat → Word) (tg : Nat → Tag) (x : Slice)
    (h : t.gangs.find t.cur.gang = some t.me) (hx : t.me.slices.find k = some x)
    (hl : ∀ e ∈ x.flights, e.dst ≠ .v (storageOf t.me.allot x.wb n)) :
    Moves t (t.write k n (m k) (f k) (tg k)) [k] fun j a b => j = k ∧ a = x ∧ Wrote t.me.allot n m f tg k x b := by
  have hs : t.sl k = x := sl_of_find hx
  have hst : t.storage k n = storageOf t.me.allot x.wb n := by simp only [storage, hs]
  have hlate : t.lateWrite k (.v (t.storage k n)) = 0 := by
    have : (x.flights.filter fun f => decide (f.dst = .v (storageOf t.me.allot x.wb n)) &&
        decide (t.now + t.latOf k (.v (storageOf t.me.allot x.wb n)) ≤ f.ready)) = [] := by
      rw [List.filter_eq_nil_iff]
      intro e he
      simp [hl e he]
    simp only [lateWrite, hs, hst, this, List.foldl_nil, ite_self]
  have hz : (0 : BitVec 4) &&& m k = 0 := BitVec.zero_and
  simp only [write, hlate, hz, if_true]
  by_cases hm : m k = 0
  · rw [if_pos hm]
    exact ⟨rfl, rfl, fun _ _ => rfl, h, rfl, fun _ _ => rfl, fun j hj a ha => by
      have hj : j = k := by simpa using hj
      subst hj
      have e : x = a := by rw [hx] at ha; exact Option.some.inj ha
      subst e
      exact ⟨x, ha, rfl, rfl, x.flights, fun e he => .inl he, by simp [hm]⟩⟩
  · rw [if_neg hm]
    have old : t.stored k (t.storage k n) = x.regs.getOr (storageOf t.me.allot x.wb n) Reg.zero := by
      simp only [stored, hs, hst]
    rw [old, hst]
    have one := Moves.oneAt (fun y => { y with
      regs := y.regs.put (storageOf t.me.allot x.wb n)
        ((x.regs.getOr (storageOf t.me.allot x.wb n) Reg.zero).write (m k) (f k) (tg k)) }) h hx
    obtain ⟨y, hy, -, -, rfl⟩ := one.slice k (by simp) x hx
    refine (one.trans (noteOld_moves _ k _ _ _ _ one.found hy)).mono ?_
    rintro j - a b ⟨c, ⟨rfl, rfl, rfl⟩, -, -, fl, hfl, rfl⟩
    exact ⟨rfl, rfl, fl, hfl, by rw [if_neg hm]⟩

/-- A write of register `n` in every issuing slice. -/
theorem writeLanes_moves (s : State) (g : BitVec 3) (n : Nat) (f : Nat → Word) (tg : Nat → Tag)
    (h : s.gangs.find s.cur.gang = some s.me) (hn : s.cur.slices.Nodup)
    (here : ∀ k ∈ s.cur.slices, s.me.slices.find k = some (s.sl k))
    (hl : ∀ k ∈ s.cur.slices, ∀ e ∈ (s.sl k).flights, e.dst ≠ .v (storageOf s.me.allot (s.sl k).wb n)) :
    Moves s (s.writeLanes g n f tg) s.cur.slices (Wrote s.me.allot n (s.act g) (fun k j => f (4 * k + j)) tg) := by
  refine Moves.fold _ s s.cur.slices hn h ?_
  intro t done k ht hk hd
  have hx : t.me.slices.find k = some (s.sl k) := by rw [ht.away k hd, here k hk]
  have := write_moves t k n (s.act g) (fun k j => f (4 * k + j)) tg (s.sl k) ht.found hx (by rw [ht.allot]; exact hl k hk)
  rw [ht.allot] at this
  refine this.mono ?_
  rintro j - a b ⟨rfl, rfl, hb⟩
  exact hb

/-! ### Before and after the effect -/

theorem find_modMe (s : State) (f : Gang → Gang) {y : Gang} (h : s.gangs.find s.cur.gang = some y) :
    (s.modMe f).gangs.find s.cur.gang = some (f y) := by
  show (FMap.adjust _ _ _).find _ = _
  rw [FMap.find_adjust, if_pos rfl, h]
  rfl

theorem me_modMe (s : State) (f : Gang → Gang) (h : s.gangs.find s.cur.gang = some s.me) : (s.modMe f).me = f s.me :=
  gang_of_find (find_modMe s f h)

/-- What the word adds to the gang's gauge. -/
abbrev cost (s : State) (i : Instr) : Nat := s.price i

/-- Charge the gang. -/
abbrev addEnergy (s : State) (n : Nat) : State := s.modMe fun g => { g with energy := g.energy + n }

theorem charge_settled {s : State} (h : s.Settled) (i : Instr) : s.chargeWord i 0 = s.addEnergy (s.cost i) := by
  simp only [chargeWord, h.replay, Bool.false_and, Bool.false_eq_true, if_false]
  rfl

/-- Two states whose issue and gang read the same registers. -/
structure Alike (s t : State) : Prop where
  gang : t.cur.gang = s.cur.gang
  slices : t.cur.slices = s.cur.slices
  widx : t.cur.widx = s.cur.widx
  view : t.cur.view = s.cur.view
  olds : t.cur.olds = s.cur.olds
  replay : t.cur.replay = s.cur.replay
  next : t.cur.next = s.cur.next
  me : ∃ n, t.me = { s.me with energy := n }
  cyc : t.cyc = s.cyc
  fresh : t.fresh = s.fresh

theorem Alike.sl {s t : State} (h : Alike s t) (k : Nat) : t.sl k = s.sl k := by
  obtain ⟨n, hn⟩ := h.me
  simp only [State.sl, hn]

theorem Alike.reg {s t : State} (h : Alike s t) (k n : Nat) : t.reg k n = s.reg k n := by
  obtain ⟨m, hm⟩ := h.me
  simp only [State.reg, seen, stored, storage, h.sl, h.view, h.olds, hm]

theorem Alike.tagOf {s t : State} (h : Alike s t) : t.tagOf = s.tagOf := by
  funext k n; simp only [State.tagOf, h.reg]

theorem Alike.V {s t : State} (h : Alike s t) : t.V = s.V := by
  funext n l; simp only [State.V, h.reg]

theorem Alike.V64 {s t : State} (h : Alike s t) : t.V64 = s.V64 := by
  funext n l; simp only [State.V64, h.V]

theorem Alike.P {s t : State} (h : Alike s t) : t.P = s.P := by
  funext p l
  obtain ⟨m, hm⟩ := h.me
  simp only [State.P, seen, predWord, h.view, h.olds, hm]

theorem Alike.Q {s t : State} (h : Alike s t) : t.Q = s.Q := by
  funext q
  obtain ⟨m, hm⟩ := h.me
  simp only [State.Q, seen, h.view, h.olds, h.slices, hm]

theorem Alike.act {s t : State} (h : Alike s t) : t.act = s.act := by
  funext g k
  simp only [State.act, guardBits, h.P, h.sl, h.replay]

theorem Alike.actLanes {s t : State} (h : Alike s t) : t.actLanes = s.actLanes := by
  funext g
  simp only [State.actLanes, h.act, h.slices]

theorem Alike.lowest {s t : State} (h : Alike s t) : t.lowest = s.lowest := by
  funext g
  simp only [State.lowest, h.actLanes]

theorem Alike.issuing {s t : State} (h : Alike s t) : t.issuing = s.issuing := by
  funext l
  simp only [State.issuing, h.slices]

theorem Alike.hash {s t : State} (h : Alike s t) : t.hash = s.hash := by
  simp only [State.hash, h.widx]

theorem Alike.fenv {s t : State} (h : Alike s t) : t.fenv = s.fenv := by
  funext f l
  obtain ⟨m, hm⟩ := h.me
  simp only [State.fenv, h.hash, hm, Gang.ftz]

theorem Alike.elem2 {s t : State} (h : Alike s t) : t.elem2 = s.elem2 := by
  funext g l a b x y
  simp only [State.elem2, h.fenv]

theorem Alike.elem1 {s t : State} (h : Alike s t) : t.elem1 = s.elem1 := by
  funext g l a b x
  simp only [State.elem1, h.elem2]

/-- The state in which the effect of a word begins. -/
abbrev prep (s : State) (i : Instr) : State := (s.chargeWord i 0).begin i

theorem prep_alike {s : State} (h : s.Settled) (i : Instr) : Alike s (s.prep i) := by
  have e : (s.prep i).me = { s.me with energy := s.me.energy + s.cost i } := by
    simp only [prep, charge_settled h]
    exact me_modMe s _ h.gang
  refine ⟨?_, ?_, ?_, ?_, ?_, ?_, ?_, ⟨_, e⟩, ?_, ?_⟩ <;> simp only [prep, charge_settled h] <;> rfl

theorem prep_found {s : State} (h : s.Settled) (i : Instr) :
    (s.prep i).gangs.find (s.prep i).cur.gang = some (s.prep i).me := by
  have e : (s.prep i).me = { s.me with energy := s.me.energy + s.cost i } := by
    simp only [prep, charge_settled h]
    exact me_modMe s _ h.gang
  rw [e]
  simp only [prep, charge_settled h]
  exact find_modMe s _ h.gang

theorem prep_energy {s : State} (h : s.Settled) (i : Instr) :
    (s.prep i).me = { s.me with energy := s.me.energy + s.cost i } := by
  simp only [prep, charge_settled h]
  exact me_modMe s _ h.gang

theorem prep_still {s : State} (h : s.Settled) (i : Instr) : (s.prep i).still = s.still := by
  simp only [prep, charge_settled h]
  rfl

theorem prep_raised {s : State} (h : s.Settled) (i : Instr) : (s.prep i).cur.raised = none := by
  simp only [prep, charge_settled h]
  exact h.raised

theorem prep_macro {s : State} (h : s.Settled) (i : Instr) : (s.prep i).cur.macroOp = none := by
  simp only [prep, charge_settled h]
  exact h.macroOp

theorem prep_gangs {s : State} (h : s.Settled) (i : Instr) (g : Nat) (hg : g ≠ s.cur.gang) :
    (s.prep i).gangs.find g = s.gangs.find g := by
  simp only [prep, charge_settled h]
  show (FMap.adjust _ _ _).find _ = _
  rw [FMap.find_adjust, if_neg hg]

/-- A slice after the retirement of a word that leaves it where the word goes on. -/
theorem retireSlice_plain {t : State} {i : Instr} {k : Nat} {x : Slice} (hl : x.live ≠ 0) (hp : x.park = none)
    (hw : x.wait = none) (ha : x.macroAt = none) (hm : t.cur.macroOp = none) (hr : t.cur.replay = false)
    (hs : i.steers = false) :
    (t.retireSlice i k x).still = x.still ∧ (t.retireSlice i k x).regs = x.regs ∧
      (t.retireSlice i k x).dix = x.dix + 1 ∧ (t.retireSlice i k x).pc = t.cur.next := by
  have hh : t.holds x = false := by simp [holds, hp, hw, ha]
  simp only [retireSlice, hl, hh, hm, hs, hr, hp, hw]
  simp [Slice.still, hp, hw]

/-- What a slice keeps through the effect of a word that only writes registers. -/
structure RegsOnly (x y : Slice) : Prop where
  still : y.still = x.still
  pc : y.pc = x.pc
  dix : y.dix = x.dix

/-- From `s` to `t` only the slices `ks` of the issuing gang change, each by its own `F`, and the gang's predicates and masks. -/
structure Shifts (s t : State) (ks : List Nat) (F : Nat → Slice → Slice → Prop) : Prop where
  module : t.still = s.still
  cur : { t.cur with olds := [] } = { s.cur with olds := [] }
  gangs : ∀ g, g ≠ s.cur.gang → t.gangs.find g = s.gangs.find g
  found : t.gangs.find t.cur.gang = some t.me
  gang : { t.me with slices := [], preds := [], masks := [] } = { s.me with slices := [], preds := [], masks := [] }
  away : ∀ k, k ∉ ks → t.me.slices.find k = s.me.slices.find k
  slice : ∀ k ∈ ks, ∀ x, s.me.slices.find k = some x → ∃ y, t.me.slices.find k = some y ∧ F k x y

theorem Moves.shifts {s t : State} {ks F} (h : Moves s t ks F) : Shifts s t ks F :=
  ⟨h.module, h.cur, h.gangs, h.found, by
    have := congrArg (fun g : Gang => { g with preds := [], masks := [] }) h.gang
    exact this, h.away, h.slice⟩

theorem Shifts.curGang {s t : State} {ks F} (h : Shifts s t ks F) : t.cur.gang = s.cur.gang := by
  have := congrArg Issue.gang h.cur; simpa using this

theorem Shifts.trans {s t u : State} {ks : List Nat} {F G : Nat → Slice → Slice → Prop}
    (h₁ : Shifts s t ks F) (h₂ : Shifts t u ks G) : Shifts s u ks fun k x z => ∃ y, F k x y ∧ G k y z where
  module := h₂.module.trans h₁.module
  cur := h₂.cur.trans h₁.cur
  gangs g hg := (h₂.gangs g (by rw [h₁.curGang]; exact hg)).trans (h₁.gangs g hg)
  found := h₂.found
  gang := h₂.gang.trans h₁.gang
  away j hj := (h₂.away j hj).trans (h₁.away j hj)
  slice j hj x hx := by
    obtain ⟨y, hy, hF⟩ := h₁.slice j hj x hx
    obtain ⟨z, hz, hG⟩ := h₂.slice j hj y hy
    exact ⟨z, hz, y, hF, hG⟩

theorem Shifts.mono {s t : State} {ks : List Nat} {F G : Nat → Slice → Slice → Prop}
    (h : Shifts s t ks F) (hFG : ∀ k ∈ ks, ∀ x y, F k x y → G k x y) : Shifts s t ks G :=
  ⟨h.module, h.cur, h.gangs, h.found, h.gang, h.away, fun k hk x hx =>
    let ⟨y, hy, hF⟩ := h.slice k hk x hx
    ⟨y, hy, hFG k hk x y hF⟩⟩

/-- A WORD THAT ONLY MOVES ITS SLICES' REGISTERS AND THE PREDICATES AND MASKS: its frame, its advance, and each slice's registers as its effect left them. -/
theorem perform_regs {s u : State} {i : Instr} {F : Nat → Slice → Slice → Prop} (h : s.Settled)
    (hm : Shifts (s.prep i) u s.cur.slices F) (hF : ∀ k ∈ s.cur.slices, ∀ y, F k (s.sl k) y → RegsOnly (s.sl k) y)
    (hs : i.steers = false) :
    (u.retire i).still = s.still ∧ (∀ g, g ≠ s.cur.gang → (u.retire i).gangs.find g = s.gangs.find g) ∧
      (u.retire i).cur.gang = s.cur.gang ∧
      { (u.retire i).me with slices := [], preds := [], masks := [] } =
        { s.me with slices := [], preds := [], masks := [], energy := s.me.energy + s.cost i } ∧
      (u.retire i).me.preds = u.me.preds ∧ (u.retire i).me.masks = u.me.masks ∧
      (∀ k, k ∉ s.cur.slices → (u.retire i).me.slices.find k = s.me.slices.find k) ∧
      (∀ k ∈ s.cur.slices, ∃ y, F k (s.sl k) y ∧ ((u.retire i).sl k).still = (s.sl k).still ∧ ((u.retire i).sl k).regs = y.regs ∧
        ((u.retire i).sl k).dix = (s.sl k).dix + 1 ∧ ((u.retire i).sl k).pc = s.cur.next) := by
  have al := prep_alike h i
  have hr : u.cur.raised = none := by
    have := congrArg Issue.raised hm.cur
    simp only at this
    rw [this, prep_raised h]
  have hme := prep_energy h i
  have hsl : u.cur.slices = s.cur.slices := by
    have := congrArg Issue.slices hm.cur
    simp only at this
    rw [this, al.slices]
  have hcur : ∀ {α} (f : Issue → α), (∀ c : Issue, f { c with olds := [] } = f c) → f u.cur = f (s.prep i).cur := by
    intro α f hf
    rw [← hf u.cur, hm.cur, hf]
  have hret : u.retire i = u.eachSl (u.retireSlice i) := by simp [retire, hr]
  have hfold : Moves u (u.retire i) s.cur.slices fun k x y => y = u.retireSlice i k x := by
    rw [hret]
    have := Moves.fold (F := fun k x y => y = u.retireSlice i k x) (fun v k => v.modSl k (u.retireSlice i k)) u u.cur.slices
      (by rw [hsl]; exact h.nodup) hm.found
      (fun v done k hv hk hd => (Moves.one v k (u.retireSlice i k) hv.found).mono (by
        intro j hj x y e
        have hj : j = k := by simpa using hj
        subst hj
        exact e))
    rw [hsl] at this
    simpa only [eachSl, hsl] using this
  have hp := congrArg Gang.preds hfold.gang
  have hq := congrArg Gang.masks hfold.gang
  have all := hm.trans hfold.shifts
  refine ⟨all.module.trans (prep_still h i), ?_, ?_, ?_, hp, hq, ?_, ?_⟩
  · intro g hg
    rw [all.gangs g (by rw [al.gang]; exact hg), prep_gangs h i g hg]
  · rw [all.curGang, al.gang]
  · rw [all.gang, hme]
  · intro k hk
    rw [all.away k hk, hme]
  · intro k hk
    have hx : (s.prep i).me.slices.find k = some (s.sl k) := by rw [hme]; exact h.here k hk
    obtain ⟨z, hz, y, hFy, rfl⟩ := all.slice k hk (s.sl k) hx
    have hy := hF k hk y hFy
    have fl : ∀ {α} (f : Slice → α), (∀ c : Slice, f c.still = f c) → f y = f (s.sl k) := by
      intro α f hf
      rw [← hf y, hy.still, hf]
    have plain := retireSlice_plain (t := u) (i := i) (k := k) (x := y)
      (by rw [fl Slice.live fun _ => rfl]; exact h.live k hk) (by rw [fl Slice.park fun _ => rfl]; exact h.park k hk)
      (by rw [fl Slice.wait fun _ => rfl]; exact h.wait k hk) (by rw [fl Slice.macroAt fun _ => rfl]; exact h.alone k hk)
      (by rw [hcur Issue.macroOp fun _ => rfl]; exact prep_macro h i)
      (by rw [hcur Issue.replay fun _ => rfl, al.replay]; exact h.replay) hs
    have e : (u.retire i).sl k = u.retireSlice i k y := sl_of_find hz
    refine ⟨y, hFy, ?_, ?_, ?_, ?_⟩ <;> rw [e]
    · rw [plain.1, hy.still]
    · exact plain.2.1
    · rw [plain.2.2.1, hy.dix]
    · rw [plain.2.2.2, hcur Issue.next fun _ => rfl, al.next]

/-! ### Register results -/

theorem Wrote.regsOnly {allot n : Nat} {m : Nat → BitVec 4} {f : Nat → Nat → Word} {tg : Nat → Tag} {k : Nat} {x y : Slice}
    (h : Wrote allot n m f tg k x y) : RegsOnly x y := by
  obtain ⟨fl, -, rfl⟩ := h
  exact ⟨rfl, rfl, rfl⟩

theorem Reg.lane_write (r : Reg) (m : BitVec 4) (f : Nat → Word) (t : Tag) (hm : m ≠ 0) (j : Nat) (hj : j < 4) :
    (r.write m f t).lane j = if nib m j then f j else r.lane j := by
  simp only [Reg.write, if_neg hm]
  match j, hj with
  | 0, _ => rfl
  | 1, _ => rfl
  | 2, _ => rfl
  | 3, _ => rfl

theorem Reg.tag_write (r : Reg) (m : BitVec 4) (f : Nat → Word) (t : Tag) (hm : m ≠ 0) : (r.write m f t).tag = t := by
  simp only [Reg.write, if_neg hm]

theorem Reg.poison_write (r : Reg) (m : BitVec 4) (f : Nat → Word) (t : Tag) :
    (r.write m f t).poison = r.poison &&& ~~~m := by
  by_cases hm : m = 0
  · simp only [Reg.write, hm]
    exact (BitVec.and_allOnes).symm
  · simp only [Reg.write, if_neg hm]

theorem nib_zero (j : Nat) : nib 0 j = false := by simp [nib]

theorem storage_ne {s : State} (h : s.Settled) (k n m : Nat) (hn : n < 64) (hm : m < 64) (hne : n ≠ m) :
    s.storage k n ≠ s.storage k m := by
  have ha := h.allot
  simp only [storage, storageOf]
  split <;> split <;> first | omega | skip
  · intro e
    have hlt : ∀ a, (((s.sl k).wb + a) % (s.me.allot - 8)) = ((s.sl k).wb % (s.me.allot - 8) + a) % (s.me.allot - 8) := by
      intro a; rw [Nat.mod_add_mod]
    rw [hlt (n - 8), hlt (m - 8)] at e
    have hb : (s.sl k).wb % (s.me.allot - 8) < s.me.allot - 8 := Nat.mod_lt _ (by omega)
    have case (a : Nat) (ha : a < 56) : ((s.sl k).wb % (s.me.allot - 8) + a) % (s.me.allot - 8) =
        if (s.sl k).wb % (s.me.allot - 8) + a < s.me.allot - 8 then (s.sl k).wb % (s.me.allot - 8) + a
        else (s.sl k).wb % (s.me.allot - 8) + a - (s.me.allot - 8) := by
      split
      · rw [Nat.mod_eq_of_lt (by assumption)]
      · rw [Nat.mod_eq_sub_mod (by omega), Nat.mod_eq_of_lt (by omega)]
    rw [case (n - 8) (by omega), case (m - 8) (by omega)] at e
    split at e <;> split at e <;> omega

/-- The registers of a slice after the results of a word. -/
def putAll (allot wb : Nat) (k : Nat) (m : BitVec 4) : List Result → FMap Reg → FMap Reg
  | [], regs => regs
  | r :: rs, regs => putAll allot wb k m rs (if m = 0 then regs
      else regs.put (storageOf allot wb r.reg)
        ((regs.getOr (storageOf allot wb r.reg) Reg.zero).write m (fun j => r.val (4 * k + j)) r.tag))

/-- A slice after the results of a word. -/
def GotAll (s : State) (i : Instr) (rs : Nat → List Result) (k : Nat) (x y : Slice) : Prop :=
  ∃ fl, y = { x with regs := putAll s.me.allot x.wb k (s.lanesFor i k) (rs k) x.regs, flights := fl }

theorem putAll_zero (allot wb k : Nat) : ∀ (rs : List Result) (regs : FMap Reg), putAll allot wb k 0 rs regs = regs
  | [], _ => rfl
  | _ :: rs, regs => by rw [putAll, if_pos rfl]; exact putAll_zero allot wb k rs regs

theorem putAll_other (allot wb k : Nat) (m : BitVec 4) (st : Nat) : ∀ (rs : List Result) (regs : FMap Reg),
    (∀ r ∈ rs, storageOf allot wb r.reg ≠ st) → (putAll allot wb k m rs regs).find st = regs.find st
  | [], _, _ => rfl
  | r :: rs, regs, h => by
    rw [putAll, putAll_other allot wb k m st rs _ fun r' hr => h r' (by simp [hr])]
    split
    · rfl
    · rw [FMap.find_put, if_neg (Ne.symm (h r (by simp)))]

theorem putAll_at (allot wb k : Nat) (m : BitVec 4) (hm : m ≠ 0) : ∀ (rs : List Result) (regs : FMap Reg),
    rs.Pairwise (fun a b => storageOf allot wb a.reg ≠ storageOf allot wb b.reg) → ∀ r ∈ rs,
      (putAll allot wb k m rs regs).getOr (storageOf allot wb r.reg) Reg.zero =
        (regs.getOr (storageOf allot wb r.reg) Reg.zero).write m (fun j => r.val (4 * k + j)) r.tag
  | [], _, _, _, hr => by simp at hr
  | r₀ :: rs, regs, hp, r, hr => by
    rw [List.pairwise_cons] at hp
    rw [putAll, if_neg hm]
    rcases List.mem_cons.mp hr with rfl | hr
    · simp only [FMap.getOr]
      rw [putAll_other allot wb k m _ rs _ fun r' hr' => Ne.symm (hp.1 r' hr'), FMap.find_put_self]
      rfl
    · rw [putAll_at allot wb k m hm rs _ hp.2 r hr]
      simp only [FMap.getOr]
      rw [FMap.find_put, if_neg (Ne.symm (hp.1 r hr))]

/-- A WORD WHOSE EFFECT GIVES ITS SLICES THEIR RESULTS delivers them. -/
theorem delivers_of_moves {s u : State} {i : Instr} {rs : Nat → List Result} (h : s.Settled)
    (hm : Moves (s.prep i) u s.cur.slices (s.GotAll i rs)) (hs : i.steers = false) (he : s.extraCharge i = 0)
    (hd : ∀ k ∈ s.cur.slices, (rs k).Pairwise fun a b => s.storage k a.reg ≠ s.storage k b.reg) :
    s.Delivers (u.retire i) i rs := by
  obtain ⟨h1, h2, h3, h4, hp, hq, h5, h6⟩ := perform_regs h hm.shifts
    (fun k _ y hy => by obtain ⟨fl, rfl⟩ := hy; exact ⟨rfl, rfl, rfl⟩) hs
  have hreg : ∀ k ∈ s.cur.slices, ((u.retire i).sl k).regs =
      putAll s.me.allot (s.sl k).wb k (s.lanesFor i k) (rs k) (s.sl k).regs := by
    intro k hk
    obtain ⟨y, ⟨fl, rfl⟩, -, hr, -⟩ := h6 k hk
    exact hr
  have hstored : ∀ k ∈ s.cur.slices, ∀ r ∈ rs k, (u.retire i).stored k (s.storage k r.reg) =
      (s.stored k (s.storage k r.reg)).write (s.lanesFor i k) (fun j => r.val (4 * k + j)) r.tag := by
    intro k hk r hr
    simp only [stored, hreg k hk]
    by_cases hz : s.lanesFor i k = 0
    · rw [hz, putAll_zero]; simp [Reg.write]
    · exact putAll_at _ _ _ _ hz _ _ (hd k hk) r hr
  exact
    { lane := by
        intro k hk r hr j hj hn
        have hz : s.lanesFor i k ≠ 0 := by intro e; rw [e, nib_zero] at hn; cases hn
        rw [hstored k hk r hr, Reg.lane_write _ _ _ _ hz j hj, if_pos hn]
      kept := by
        intro k hk r hr j hj hn
        rw [hstored k hk r hr]
        by_cases hz : s.lanesFor i k = 0
        · simp only [Reg.write, if_pos hz]
        · rw [Reg.lane_write _ _ _ _ hz j hj, if_neg (by simp [hn])]
      tag := by
        intro k hk r hr hz
        rw [hstored k hk r hr, Reg.tag_write _ _ _ _ hz]
      poison := by
        intro k hk r hr
        rw [hstored k hk r hr, Reg.poison_write]
      idle := by
        intro k hk hz
        rw [hreg k hk, hz, putAll_zero]
      frame :=
        { module := h1
          gangs := h2
          issue := h3
          gang := by have := congrArg Gang.still h4; simpa [Gang.still] using this
          away := h5
          slice := by
            intro k hk
            obtain ⟨y, -, hy, -⟩ := h6 k hk
            exact hy
          regs := by
            intro k hk st hst
            rw [hreg k hk]
            refine putAll_other _ _ _ _ st _ _ fun r hr => ?_
            exact hst r.reg (List.mem_map_of_mem hr)
          preds := by
            intro p _
            have := congrArg Gang.preds hm.gang
            simp only at this
            rw [hp, this, prep_energy h]
          masks := by
            intro p _
            have := congrArg Gang.masks hm.gang
            simp only at this
            rw [hq, this, prep_energy h] }
      goes :=
        { energy := by unfold Charged; rw [he]; exact congrArg Gang.energy h4
          dix := by intro k hk; obtain ⟨y, -, -, -, hd, -⟩ := h6 k hk; exact hd
          pc := by intro k hk; obtain ⟨y, -, -, -, -, hp⟩ := h6 k hk; exact hp } }

/-- Its answer. -/
theorem issueWord_delivers {s : State} {i : Instr} {rs : Nat → List Result} {chk : State → Option TrapInfo} {act : State → State}
    (h : s.Settled) (hc : s.screen i = none) (hk : s.endTrap i = none ∧ chk s = none) (hs : i.steers = false) (he : s.extraCharge i = 0)
    (hm : Moves (s.prep i) (act (s.prep i)) s.cur.slices (s.GotAll i rs))
    (hd : ∀ k ∈ s.cur.slices, (rs k).Pairwise fun a b => s.storage k a.reg ≠ s.storage k b.reg) :
    ∃ t, s.issueWord i chk act = .next t ∧ s.Delivers t i rs := by
  have hi : (s.interlock i).findFlaws i = s := by rw [interlock_settled h i, findFlaws_settled h i]
  exact ⟨_, issueWord_next act (by rw [hi]; exact hc) (by rw [hi]; exact hk.1) (by rw [hi]; exact hk.2), by
    rw [hi]; exact delivers_of_moves h hm hs he hd⟩

/-- What the effect of a word that writes one register makes of the slices. -/
theorem writeLanes_prep {s : State} (h : s.Settled) (i : Instr) (g : BitVec 3) (n : Nat) (f : Nat → Word) (tg : Nat → Tag) :
    Moves (s.prep i) ((s.prep i).writeLanes g n f tg) s.cur.slices
      (Wrote s.me.allot n (s.act g) (fun k j => f (4 * k + j)) tg) := by
  have al := prep_alike h i
  have hme := prep_energy h i
  have hw := writeLanes_moves (s.prep i) g n f tg (prep_found h i) (by rw [al.slices]; exact h.nodup)
    (by intro k hk; rw [al.slices] at hk; rw [al.sl, hme]; exact h.here k hk)
    (by intro k hk; rw [al.slices] at hk; rw [al.sl, h.flights k hk]; simp)
  rw [al.slices, al.act, hme] at hw
  exact hw

/-- A word whose effect writes one register delivers it. -/
theorem word_delivers {s : State} {i : Instr} {g : BitVec 3} {n : Nat} {f : Nat → Word} {tg : Nat → Tag}
    {chk : State → Option TrapInfo} {act : State → State} (h : s.Settled) (hc : s.screen i = none)
    (hk : s.endTrap i = none ∧ chk s = none) (hs : i.steers = false) (he : s.extraCharge i = 0) (hl : ∀ k, s.lanesFor i k = s.act g k) (ha : act (s.prep i) = (s.prep i).writeLanes g n f tg) :
    ∃ t, s.issueWord i chk act = .next t ∧ s.Delivers t i fun k => [⟨n, f, tg k⟩] := by
  refine issueWord_delivers h hc hk hs he ?_ (by simp)
  rw [ha]
  refine (writeLanes_prep h i g n f tg).mono ?_
  rintro k - x y ⟨fl, -, rfl⟩
  exact ⟨fl, by simp only [putAll, hl]⟩

/-- Every old value noted is a register's. -/
def OnlyV (s : State) : Prop := ∀ e ∈ s.cur.olds, ∃ st, e.2.1 = Dst.v st

theorem OnlyV.write {t : State} (h : OnlyV t) (k n : Nat) (m : BitVec 4) (f : Nat → Word) (tg : Tag) :
    OnlyV (t.write k n m f tg) := by
  have note : ∀ (u : State) (st : Nat) (old : Reg), OnlyV u → OnlyV (u.noteOld k (.v st) m old) := by
    intro u st old hu
    have key : ∀ e ∈ (if (viewOf u.cur.olds k (.v st)).isSome then u.cur.olds else (k, Dst.v st, old) :: u.cur.olds),
        ∃ st, e.2.1 = Dst.v st := by
      intro e he
      split at he
      · exact hu e he
      · rcases List.mem_cons.mp he with rfl | he
        · exact ⟨st, rfl⟩
        · exact hu e he
    intro e he
    refine key e ?_
    have e : (u.noteOld k (.v st) m old).cur.olds =
        if (viewOf u.cur.olds k (.v st)).isSome then u.cur.olds else (k, Dst.v st, old) :: u.cur.olds := by
      show (if u.latOf k (.v st) = 0 then _ else _ : State).cur.olds = _
      split <;> rfl
    rwa [e] at he
  simp only [State.write]
  split
  · exact h
  · exact note _ _ _ h

theorem OnlyV.writeLanes {t : State} (h : OnlyV t) (g : BitVec 3) (n : Nat) (f : Nat → Word) (tg : Nat → Tag) :
    OnlyV (t.writeLanes g n f tg) := by
  simp only [State.writeLanes]
  have : ∀ (ks : List Nat) (u : State), OnlyV u →
      OnlyV (ks.foldl (fun s' k => s'.write k n (t.act g k) (fun j => f (4 * k + j)) (tg k)) u) := by
    intro ks
    induction ks with
    | nil => intro u hu; exact hu
    | cons k r ih => intro u hu; exact ih _ (hu.write k n _ _ _)
  exact this _ t h

theorem viewOf_onlyV : ∀ (o : List (Nat × Dst × Reg)) (k : Nat) (d : Dst), (∀ e ∈ o, ∃ st, e.2.1 = Dst.v st) →
    (∀ st, d ≠ .v st) → viewOf o k d = none
  | [], _, _, _, _ => rfl
  | (k', d', r) :: o, k, d, h, hd => by
    obtain ⟨st, hst⟩ := h (k', d', r) (by simp)
    simp only [viewOf]
    rw [if_neg]
    · exact viewOf_onlyV o k d (fun e he => h e (by simp [he])) hd
    · rintro ⟨-, e⟩
      exact hd st (e ▸ hst)

/-- The lanes a word is active in do not change as it writes registers. -/
theorem act_writeLanes {s : State} {i : Instr} (h : s.Settled) (g g' : BitVec 3) (n : Nat) (f : Nat → Word) (tg : Nat → Tag) :
    ∀ k ∈ s.cur.slices, ((s.prep i).writeLanes g n f tg).act g' k = s.act g' k := by
  intro k hk
  have al := prep_alike h i
  have hme := prep_energy h i
  have hw := writeLanes_moves (s.prep i) g n f tg (prep_found h i) (by rw [al.slices]; exact h.nodup)
    (by intro k hk; rw [al.slices] at hk; rw [al.sl, hme]; exact h.here k hk)
    (by intro k hk; rw [al.slices] at hk; rw [al.sl, h.flights k hk]; simp)
  have holds : OnlyV ((s.prep i).writeLanes g n f tg) := by
    refine OnlyV.writeLanes (t := s.prep i) ?_ g n f tg
    intro e he
    rw [al.olds, h.olds] at he
    simp at he
  have hview : ((s.prep i).writeLanes g n f tg).cur.view = s.cur.view := by
    have := congrArg Issue.view hw.cur
    simp only at this
    rw [this, al.view]
  have hrep : ((s.prep i).writeLanes g n f tg).cur.replay = s.cur.replay := by
    have := congrArg Issue.replay hw.cur
    simp only at this
    rw [this, al.replay]
  have hP : ((s.prep i).writeLanes g n f tg).P = s.P := by
    funext p l
    have hp : ((s.prep i).writeLanes g n f tg).me.preds = s.me.preds := by
      have := congrArg Gang.preds hw.gang
      simp only at this
      rw [this, hme]
    simp only [State.P, seen, predWord, hview, hp]
    rw [viewOf_onlyV _ _ _ holds (by simp)]
    rw [h.olds]
    rfl
  have hm : (((s.prep i).writeLanes g n f tg).sl k).mask = (s.sl k).mask := by
    obtain ⟨y, hy, fl, -, e⟩ := hw.slice k (by rw [al.slices]; exact hk) (s.sl k) (by rw [hme]; exact h.here k hk)
    rw [sl_of_find hy, e]
  simp only [State.act, guardBits, hP, hrep, h.replay, hm, Bool.false_eq_true, if_false]

/-- A word whose effect writes two registers delivers both. -/
theorem word_delivers_two {s : State} {i : Instr} {g : BitVec 3} {n n' : Nat} {f f' : Nat → Word} {tg tg' : Nat → Tag}
    {chk : State → Option TrapInfo} {act : State → State} (h : s.Settled) (hc : s.screen i = none)
    (hk : s.endTrap i = none ∧ chk s = none) (hs : i.steers = false) (he : s.extraCharge i = 0)
    (hl : ∀ k, s.lanesFor i k = s.act g k) (hn : n < 64) (hn' : n' < 64) (hne : n ≠ n')
    (ha : act (s.prep i) = ((s.prep i).writeLanes g n f tg).writeLanes g n' f' tg') :
    ∃ t, s.issueWord i chk act = .next t ∧ s.Delivers t i fun k => [⟨n, f, tg k⟩, ⟨n', f', tg' k⟩] := by
  refine issueWord_delivers h hc hk hs he ?_ (by
    intro k _
    simp only [List.pairwise_cons, List.mem_singleton, forall_eq, List.not_mem_nil, false_implies, implies_true, and_true,
      List.Pairwise.nil]
    exact storage_ne h k n n' hn hn' hne)
  rw [ha]
  have hw := writeLanes_prep h i g n f tg
  have al := prep_alike h i
  have hme := prep_energy h i
  have hx : ∀ k ∈ s.cur.slices, ∃ y, ((s.prep i).writeLanes g n f tg).me.slices.find k = some y ∧
      Wrote s.me.allot n (s.act g) (fun k j => f (4 * k + j)) tg k (s.sl k) y := by
    intro k hk
    exact hw.slice k hk (s.sl k) (by rw [hme]; exact h.here k hk)
  have hal : ((s.prep i).writeLanes g n f tg).me.allot = s.me.allot := by rw [hw.allot, hme]
  have hsl : ((s.prep i).writeLanes g n f tg).cur.slices = s.cur.slices := by rw [hw.curSlices, al.slices]
  have hw' := writeLanes_moves ((s.prep i).writeLanes g n f tg) g n' f' tg' hw.found (by rw [hsl]; exact h.nodup)
    (by intro k hk; rw [hsl] at hk; obtain ⟨y, hy, -⟩ := hx k hk; rw [sl_of_find hy]; exact hy)
    (by
      intro k hk e he
      rw [hsl] at hk
      obtain ⟨y, hy, fl, hfl, rfl⟩ := hx k hk
      rw [sl_of_find hy] at he ⊢
      rw [hal]
      rcases hfl e he with h0 | h0
      · rw [h.flights k hk] at h0; simp at h0
      · rw [h0]
        intro e
        exact storage_ne h k n n' hn hn' hne (by simpa [storage] using e))
  rw [hsl, hal] at hw'
  refine (hw.trans hw').mono ?_
  rintro k hk x z ⟨y, ⟨fl, -, rfl⟩, fl', -, rfl⟩
  refine ⟨fl', ?_⟩
  rw [act_writeLanes h g g n f tg k hk]
  by_cases hz : s.act g k = 0 <;> simp only [putAll, hl, hz, if_true, if_false]

/-! ### Predicates and masks -/

/-- A slice that a write of a predicate or a mask leaves: its registers stand. -/
abbrev Noted (_ : Nat) (x y : Slice) : Prop := ∃ fl, y = { x with flights := fl }

/-- A word that writes no register: its frame. -/
theorem frame_of_shifts {s u : State} {i : Instr} {ps qs : List Nat} (h : s.Settled)
    (hm : Shifts (s.prep i) u s.cur.slices Noted) (hs : i.steers = false) (he : s.extraCharge i = 0)
    (hp : ∀ p, p ∉ ps → u.me.preds.find p = s.me.preds.find p) (hq : ∀ q, q ∉ qs → u.me.masks.find q = s.me.masks.find q) :
    s.Keeps (u.retire i) (fun _ => []) ps qs id ∧ s.Advances (u.retire i) i ∧ (u.retire i).me.preds = u.me.preds ∧
      (u.retire i).me.masks = u.me.masks := by
  obtain ⟨h1, h2, h3, h4, hp', hq', h5, h6⟩ := perform_regs h hm
    (fun k _ y hy => by obtain ⟨fl, rfl⟩ := hy; exact ⟨rfl, rfl, rfl⟩) hs
  refine ⟨⟨h1, h2, h3, ?_, h5, ?_, ?_, ?_, ?_⟩, ⟨?_, ?_, ?_⟩, hp', hq'⟩
  · have := congrArg Gang.still h4; simpa [Gang.still] using this
  · intro k hk; obtain ⟨y, -, hy, -⟩ := h6 k hk; exact hy
  · intro k hk st _; obtain ⟨y, ⟨fl, rfl⟩, -, hr, -⟩ := h6 k hk; rw [hr]
  · intro p hpn; rw [hp', hp p hpn]
  · intro q hqn; rw [hq', hq q hqn]
  · unfold Charged; rw [he]; exact congrArg Gang.energy h4
  · intro k hk; obtain ⟨y, -, -, -, hd, -⟩ := h6 k hk; exact hd
  · intro k hk; obtain ⟨y, -, -, -, -, hp⟩ := h6 k hk; exact hp

theorem Shifts.refl {s : State} (h : s.gangs.find s.cur.gang = some s.me) : Shifts s s [] fun _ x y => y = x :=
  (Moves.refl h).shifts

/-- A change of the gang's predicates and masks alone. -/
theorem Shifts.gangOnly {s t : State} {ks F} (h : Shifts s t ks F) (f : Gang → Gang)
    (hf : ∀ y : Gang, { f y with slices := [], preds := [], masks := [] } = { y with slices := [], preds := [], masks := [] })
    (hs : ∀ y : Gang, (f y).slices = y.slices) : Shifts s (t.modMe f) ks F := by
  have hm := me_modMe t f h.found
  exact
    { module := h.module
      cur := h.cur
      gangs := by
        intro g hg
        show (FMap.adjust _ _ _).find _ = _
        rw [FMap.find_adjust, if_neg (by rw [h.curGang]; exact hg)]
        exact h.gangs g hg
      found := by rw [hm]; exact find_modMe t f h.found
      gang := by rw [hm, hf]; exact h.gang
      away := by intro k hk; rw [hm, hs]; exact h.away k hk
      slice := by intro k hk x hx; rw [hm, hs]; exact h.slice k hk x hx }

/-- Shifts of disjoint slices in turn. -/
theorem Shifts.snoc {s t u : State} {ks : List Nat} {k : Nat} {F : Nat → Slice → Slice → Prop}
    (h₁ : Shifts s t ks F) (h₂ : Shifts t u [k] F) (hk : k ∉ ks) : Shifts s u (ks ++ [k]) F where
  module := h₂.module.trans h₁.module
  cur := h₂.cur.trans h₁.cur
  gangs g hg := (h₂.gangs g (by rw [h₁.curGang]; exact hg)).trans (h₁.gangs g hg)
  found := h₂.found
  gang := h₂.gang.trans h₁.gang
  away j hj := by
    simp only [List.mem_append, List.mem_singleton, not_or] at hj
    rw [h₂.away j (by simpa using hj.2), h₁.away j hj.1]
  slice j hj x hx := by
    by_cases hjk : j = k
    · subst hjk
      exact h₂.slice j (by simp) x (by rw [h₁.away j hk, hx])
    · obtain ⟨y, hy, hF⟩ := h₁.slice j (by simpa [hjk] using hj) x hx
      exact ⟨y, by rw [h₂.away j (by simpa using hjk), hy], hF⟩

/-- Noting an old value in the slices of a list changes nothing but what is noted. -/
theorem noteAll_shifts {s : State} (d : Dst) (m : Nat → BitVec 4) (old : Nat → Reg) : ∀ (r done : List Nat) (t : State),
    Shifts s t done Noted → (∀ k ∈ r, k ∉ done ∧ (t.me.slices.find k).isSome) → r.Nodup →
      Shifts s (r.foldl (fun t k => t.noteOld k d (m k) (old k)) t) (done ++ r) Noted ∧
        (r.foldl (fun t k => t.noteOld k d (m k) (old k)) t).me.preds = t.me.preds ∧
        (r.foldl (fun t k => t.noteOld k d (m k) (old k)) t).me.masks = t.me.masks
  | [], done, t, h, _, _ => by simpa using h
  | k :: r, done, t, h, hr, hn => by
    have hk := hr k (by simp)
    obtain ⟨x, hx⟩ := Option.isSome_iff_exists.mp hk.2
    have one := noteOld_moves t k d (m k) (old k) x h.found hx
    have hp := congrArg Gang.preds one.gang
    have hq := congrArg Gang.masks one.gang
    have h' := h.snoc (one.shifts.mono (by rintro j - a b ⟨-, rfl, fl, -, e⟩; exact ⟨fl, e⟩)) hk.1
    have := noteAll_shifts d m old r (done ++ [k]) _ h' (by
      intro j hj
      have hjk : j ≠ k := by intro e; exact (List.nodup_cons.mp hn).1 (e ▸ hj)
      refine ⟨by simp [hjk, (hr j (by simp [hj])).1], ?_⟩
      rw [one.away j (by simpa using hjk)]
      exact (hr j (by simp [hj])).2) (List.nodup_cons.mp hn).2
    simp only [List.foldl_cons]
    refine ⟨by simpa [List.append_assoc] using this.1, this.2.1.trans hp, this.2.2.trans hq⟩

theorem late_settled {s : State} (h : s.Settled) (i : Instr) (k : Nat) (hk : k ∈ s.cur.slices) (d : Dst) :
    (s.prep i).lateWrite k d = 0 := by
  simp only [lateWrite, (prep_alike h i).sl, h.flights k hk]
  simp

/-- A word whose effect writes a mask register. -/
theorem word_masks {s : State} {i : Instr} {q : BitVec 4} {w : Word} {chk : State → Option TrapInfo} {act : State → State}
    (h : s.Settled) (hc : s.screen i = none) (hk : s.endTrap i = none ∧ chk s = none) (hs : i.steers = false) (he : s.extraCharge i = 0)
    (ha : act (s.prep i) = (s.prep i).writeQ q.toNat w) :
    ∃ t, s.issueWord i chk act = .next t ∧ s.Masks t i q w := by
  have hi : (s.interlock i).findFlaws i = s := by rw [interlock_settled h i, findFlaws_settled h i]
  have al := prep_alike h i
  have hme := prep_energy h i
  refine ⟨_, issueWord_next act (by rw [hi]; exact hc) (by rw [hi]; exact hk.1) (by rw [hi]; exact hk.2), ?_⟩
  rw [hi, ha]
  have late : ((s.prep i).cur.slices.any fun k => (s.prep i).lateWrite k (.q q.toNat) != 0) = false := by
    rw [List.any_eq_false]
    intro k hk
    rw [al.slices] at hk
    simp [late_settled h i k hk]
  have base : Shifts (s.prep i) ((s.prep i).modMe fun g => { g with masks := g.masks.put q.toNat w }) [] Noted :=
    ((Shifts.refl (prep_found h i)).gangOnly (fun g => { g with masks := g.masks.put q.toNat w }) (fun _ => rfl)
      (fun _ => rfl)).mono (by simp)
  have bm : ((s.prep i).modMe fun g => { g with masks := g.masks.put q.toNat w }).me =
      { s.me with energy := s.me.energy + s.cost i, masks := s.me.masks.put q.toNat w } := by
    rw [me_modMe _ _ (prep_found h i), hme]
  obtain ⟨sh, hp, hq⟩ := noteAll_shifts (.q q.toNat) (fun _ => 15) (fun _ => wordReg ((s.prep i).me.masks.getOr q.toNat 0)) s.cur.slices [] _ base
    (by intro k hk; exact ⟨by simp, by rw [bm]; simp [h.here k hk]⟩) h.nodup
  have e : (s.prep i).writeQ q.toNat w = s.cur.slices.foldl
      (fun t k => t.noteOld k (.q q.toNat) 15 (wordReg ((s.prep i).me.masks.getOr q.toNat 0)))
      ((s.prep i).modMe fun g => { g with masks := g.masks.put q.toNat w }) := by
    have n : (if ((s.prep i).cur.slices.any fun k => (s.prep i).lateWrite k (.q q.toNat) != 0) && (s.prep i).freeBit (128 + q.toNat)
        then (s.prep i).me.masks.getOr q.toNat 0 else w) = w := by rw [late]; simp
    simp only [State.writeQ]
    rw [n, al.slices]
  rw [e]
  rw [List.nil_append] at sh
  rw [bm] at hp hq
  obtain ⟨fr, go, -, hmasks⟩ := frame_of_shifts (ps := []) (qs := [q.toNat]) h sh hs he (by intro p _; rw [hp])
    (by intro r hr; rw [hq]; simp only; rw [FMap.find_put, if_neg (by simpa using hr)])
  exact ⟨by rw [hmasks, hq]; simp only; rw [FMap.find_put_self], fr, go⟩

/-- One bit of a predicate after one slice's write. -/
theorem pred_bit (old : Word) (m : BitVec 4) (f : Nat → Bool) (k l : Nat) (hk : k < 8) (hl : l < 32) :
    ((old &&& ~~~((15#32) <<< (4 * k))) |||
      (BitVec.zeroExtend 32 (nibOf fun j => if nib m j then f j else old.getLsbD (4 * k + j))) <<< (4 * k)).getLsbD l =
      if l / 4 = k then (if nib m (l % 4) then f (l % 4) else old.getLsbD l) else old.getLsbD l := by
  have h15 : ∀ i, (15#32).getLsbD i = decide (i < 4) := by
    intro i
    have small : ∀ n : Fin 32, (15#32).getLsbD n = decide (n.val < 4) := by decide
    by_cases h32 : i < 32
    · exact small ⟨i, h32⟩
    · rw [BitVec.getLsbD_of_ge _ i (by omega)]; simp; omega
  have hnib : ∀ (g : Nat → Bool) i, (nibOf g).getLsbD i = (decide (i < 4) && g i) := by
    intro g i
    have bits : ∀ a b c d : Bool, ∀ n : Fin 4, (BitVec.ofBool d ++ BitVec.ofBool c ++ BitVec.ofBool b ++ BitVec.ofBool a).getLsbD n =
        (match n with | 0 => a | 1 => b | 2 => c | 3 => d) := by decide
    by_cases hi : i < 4
    · have := bits (g 0) (g 1) (g 2) (g 3) ⟨i, hi⟩
      refine this.trans ?_
      match i, hi with
      | 0, _ => rfl
      | 1, _ => rfl
      | 2, _ => rfl
      | 3, _ => rfl
    · rw [BitVec.getLsbD_of_ge _ i (by omega)]; simp [hi]
  simp only [BitVec.getLsbD_or, BitVec.getLsbD_and, BitVec.getLsbD_not, BitVec.getLsbD_shiftLeft, h15, BitVec.getLsbD_setWidth,
    hnib, hl, decide_true, Bool.true_and]
  by_cases hlk : l / 4 = k
  · subst hlk
    have h1 : ¬ l < 4 * (l / 4) := by omega
    have h2 : l - 4 * (l / 4) = l % 4 := by omega
    have h3 : l % 4 < 4 := by omega
    have h4 : l % 4 < 32 := by omega
    have h5 : 4 * (l / 4) + l % 4 = l := by omega
    simp [h1, h2, h3, h4, h5]
  · by_cases hlt : l < 4 * k
    · simp [hlk, hlt]
    · have h1 : ¬ l - 4 * k < 4 := by omega
      simp [hlk, hlt, h1]

/-- Writing a predicate in the slices of a list. -/
theorem writePred_shifts {s : State} {i : Instr} (h : s.Settled) (p : Nat) (hp : p ≠ 0) (m : Nat → BitVec 4) (f : Nat → Bool) :
    ∀ (r done : List Nat) (t : State), Shifts (s.prep i) t done Noted → (∀ k ∈ r, k ∉ done ∧ k ∈ s.cur.slices) → r.Nodup →
      let u := r.foldl (fun t k => t.writeP p k (m k) fun j => f (4 * k + j)) t
      Shifts (s.prep i) u (done ++ r) Noted ∧ u.me.masks = t.me.masks ∧ (∀ q, q ≠ p → u.me.preds.find q = t.me.preds.find q) ∧
        ∀ l < 32, (u.predWord p).getLsbD l =
          if l / 4 ∈ r ∧ nib (m (l / 4)) (l % 4) = true then f l else (t.predWord p).getLsbD l
  | [], done, t, ht, _, _ => by simpa using ht
  | k :: r, done, t, ht, hr, hn => by
    have hk := hr k (by simp)
    have hme := prep_energy h i
    have al := prep_alike h i
    have hx : t.me.slices.find k = some (s.sl k) := by
      rw [ht.away k hk.1, hme]; exact h.here k hk.2
    have hlate : t.lateWrite k (.p p) = 0 := by
      simp only [lateWrite, sl_of_find hx, h.flights k hk.2]
      simp
    have step : Shifts (s.prep i) (t.writeP p k (m k) fun j => f (4 * k + j)) (done ++ [k]) Noted ∧
        (t.writeP p k (m k) fun j => f (4 * k + j)).me.masks = t.me.masks ∧
        (∀ q, q ≠ p → (t.writeP p k (m k) fun j => f (4 * k + j)).me.preds.find q = t.me.preds.find q) ∧
        ∀ l < 32, ((t.writeP p k (m k) fun j => f (4 * k + j)).predWord p).getLsbD l =
          if l / 4 = k ∧ nib (m k) (l % 4) = true then f l else (t.predWord p).getLsbD l := by
      by_cases hm : m k = 0
      · have e : (t.writeP p k (m k) fun j => f (4 * k + j)) = t := by simp only [State.writeP, hm, or_true, if_true]
        rw [e]
        refine ⟨ht.snoc (F := Noted) (k := k) ?_ hk.1, rfl, fun _ _ => rfl, ?_⟩
        · exact ⟨rfl, rfl, fun _ _ => rfl, ht.found, rfl, fun _ _ => rfl, fun j hj x hjx => ⟨x, hjx, x.flights, rfl⟩⟩
        · intro l _; rw [hm, nib_zero]; simp
      · have e : (t.writeP p k (m k) fun j => f (4 * k + j)) =
            (t.modMe fun g => { g with preds := g.preds.put p ((t.predWord p &&& ~~~((15#32) <<< (4 * k))) |||
              (BitVec.zeroExtend 32 (nibOf fun j => if nib (m k) j then f (4 * k + j) else (t.predWord p).getLsbD (4 * k + j))) <<<
                (4 * k)) }).noteOld k (.p p) (m k) (wordReg (t.predWord p)) := by
          simp only [State.writeP, hp, hm, or_self, if_false, hlate, nib_zero, Bool.false_and, Bool.not_false, Bool.and_true]
        have base := ht.gangOnly (fun g => { g with preds := g.preds.put p ((t.predWord p &&& ~~~((15#32) <<< (4 * k))) |||
              (BitVec.zeroExtend 32 (nibOf fun j => if nib (m k) j then f (4 * k + j) else (t.predWord p).getLsbD (4 * k + j))) <<<
                (4 * k)) }) (fun _ => rfl) (fun _ => rfl)
        have bm := me_modMe t (fun g => { g with preds := g.preds.put p ((t.predWord p &&& ~~~((15#32) <<< (4 * k))) |||
              (BitVec.zeroExtend 32 (nibOf fun j => if nib (m k) j then f (4 * k + j) else (t.predWord p).getLsbD (4 * k + j))) <<<
                (4 * k)) }) ht.found
        obtain ⟨sh, h1, h2⟩ := noteAll_shifts (.p p) m (fun _ => wordReg (t.predWord p)) [k] done _ base
          (by
            intro j hj
            have hj : j = k := by simpa using hj
            subst hj
            exact ⟨hk.1, by rw [bm]; simp [hx]⟩) (by simp)
        rw [bm] at h1 h2
        simp only [List.foldl_cons, List.foldl_nil] at sh h1 h2
        rw [e]
        refine ⟨sh, h2, ?_, ?_⟩
        · intro q hq; rw [h1, FMap.find_put, if_neg hq]
        · intro l hl
          have hw : ∀ u : State, u.predWord p = u.me.preds.getOr p 0 := by intro u; simp only [predWord, hp, if_false]
          have hw' := hw t
          rw [hw, h1]
          simp only [FMap.getOr, FMap.find_put_self, Option.getD_some]
          rw [pred_bit _ _ (fun j => f (4 * k + j)) k l (h.bound k hk.2) hl]
          by_cases hlk : l / 4 = k
          · have : 4 * k + l % 4 = l := by omega
            by_cases hb : nib (m k) (l % 4) = true <;> simp [hlk, hb, this]
          · simp [hlk]
    have more := writePred_shifts h p hp m f r (done ++ [k]) _ step.1 (by
      intro j hj
      have hjk : j ≠ k := by intro e; exact (List.nodup_cons.mp hn).1 (e ▸ hj)
      exact ⟨by simp [hjk, (hr j (by simp [hj])).1], (hr j (by simp [hj])).2⟩) (List.nodup_cons.mp hn).2
    simp only [List.foldl_cons]
    refine ⟨by simpa [List.append_assoc] using more.1, more.2.1.trans step.2.1,
      fun q hq => (more.2.2.1 q hq).trans (step.2.2.1 q hq), ?_⟩
    intro l hl
    rw [more.2.2.2 l hl, step.2.2.2 l hl]
    by_cases hlk : l / 4 = k
    · have : ¬ k ∈ r := (List.nodup_cons.mp hn).1
      simp [this, hlk]
    · simp [hlk]

/-- A word whose effect writes a predicate. -/
theorem word_sets {s : State} {i : Instr} {g p : BitVec 3} {f : Nat → Bool} {chk : State → Option TrapInfo} {act : State → State}
    (h : s.Settled) (hc : s.screen i = none) (hk : s.endTrap i = none ∧ chk s = none) (hs : i.steers = false) (he : s.extraCharge i = 0)
    (hl : ∀ k, s.lanesFor i k = s.act g k) (ha : act (s.prep i) = (s.prep i).writePred g p f) :
    ∃ t, s.issueWord i chk act = .next t ∧ s.Sets t i p f := by
  have hi : (s.interlock i).findFlaws i = s := by rw [interlock_settled h i, findFlaws_settled h i]
  have al := prep_alike h i
  have hme := prep_energy h i
  refine ⟨_, issueWord_next act (by rw [hi]; exact hc) (by rw [hi]; exact hk.1) (by rw [hi]; exact hk.2), ?_⟩
  rw [hi, ha]
  have id0 : ∀ k, k ∈ s.cur.slices → Shifts (s.prep i) (s.prep i) [k] Noted := fun k _ =>
    ⟨rfl, rfl, fun _ _ => rfl, prep_found h i, rfl, fun _ _ => rfl, fun j hj x hjx => ⟨x, hjx, x.flights, rfl⟩⟩
  by_cases hp : p.toNat = 0
  · have e : (s.prep i).writePred g p f = s.prep i := by
      have : ∀ (r : List Nat) (t : State),
          r.foldl (fun t k => t.writeP p.toNat k ((s.prep i).act g k) fun j => f (4 * k + j)) t = t := by
        intro r
        induction r with
        | nil => intro t; rfl
        | cons k r ih => intro t; rw [List.foldl_cons, ih]; simp only [State.writeP, hp, true_or, if_true]
      exact this _ _
    rw [e]
    have sh : Shifts (s.prep i) (s.prep i) s.cur.slices Noted :=
      ⟨rfl, rfl, fun _ _ => rfl, prep_found h i, rfl, fun _ _ => rfl, fun j hj x hjx => ⟨x, hjx, x.flights, rfl⟩⟩
    obtain ⟨fr, go, hpr, -⟩ := frame_of_shifts (ps := [p.toNat]) (qs := []) h sh hs he (by intro q _; rw [hme])
      (by intro r _; rw [hme])
    refine ⟨?_, fun _ => by rw [hpr, hme], fr, go⟩
    intro hp0
    exact absurd (BitVec.eq_of_toNat_eq (by simpa using hp)) hp0
  · have sh := writePred_shifts (i := i) h p.toNat hp (s.act g) f s.cur.slices [] (s.prep i)
      ((Shifts.refl (prep_found h i)).mono (by simp)) (fun k hk => ⟨by simp, hk⟩) h.nodup
    have e : (s.prep i).writePred g p f =
        s.cur.slices.foldl (fun t k => t.writeP p.toNat k (s.act g k) fun j => f (4 * k + j)) (s.prep i) := by
      simp only [State.writePred]
      rw [al.slices, al.act]
    rw [e]
    simp only [List.nil_append] at sh
    obtain ⟨sh, hq, ho, hb⟩ := sh
    obtain ⟨fr, go, hpr, -⟩ := frame_of_shifts (ps := [p.toNat]) (qs := []) h sh hs he
      (by intro q hq'; rw [ho q (by simpa using hq'), hme]) (by intro r _; rw [hq, hme])
    refine ⟨?_, ?_, fr, go⟩
    · intro _ l hl'
      have hw : ∀ u : State, u.predWord p.toNat = u.me.preds.getOr p.toNat 0 := by
        intro u; simp only [predWord, hp, if_false]
      have h0 : (s.prep i).predWord p.toNat = s.predWord p.toNat := by rw [hw, hw, hme]
      rw [hw, hpr, ← hw, hb l hl', h0, hl]
    · intro hp0
      subst hp0
      exact absurd rfl hp

end State

end Sys2Proof.Machine
end

