-- ==== Sys2Proof/Laws/PerInstr.lean ====
section
/-! SUPPORT. The shape of the encoding of every instruction: a word of a program is one to three words, the events of the table have none. -/

namespace Sys2Proof.Laws

open Sys2Proof Sys2Proof.Machine

/-- An instruction has at most three words (R37), and exactly the events of the table have none. -/
def Encoding.Statement (i : Instr) : Prop := (encode i).length ≤ 3 ∧ isEvent i = (encode i).isEmpty

theorem Encoding.nop (a0) : Encoding.Statement (.nop a0) := ⟨Nat.le_of_ble_eq_true rfl, rfl⟩
theorem Encoding.add (a0) (a1) (a2) (a3) : Encoding.Statement (.add a0 a1 a2 a3) := ⟨Nat.le_of_ble_eq_true rfl, rfl⟩
theorem Encoding.sub (a0) (a1) (a2) (a3) : Encoding.Statement (.sub a0 a1 a2 a3) := ⟨Nat.le_of_ble_eq_true rfl, rfl⟩
theorem Encoding.mul (a0) (a1) (a2) (a3) : Encoding.Statement (.mul a0 a1 a2 a3) := ⟨Nat.le_of_ble_eq_true rfl, rfl⟩
theorem Encoding.mulh (a0) (a1) (a2) (a3) : Encoding.Statement (.mulh a0 a1 a2 a3) := ⟨Nat.le_of_ble_eq_true rfl, rfl⟩
theorem Encoding.fma (a0) (a1) (a2) (a3) : Encoding.Statement (.fma a0 a1 a2 a3) := ⟨Nat.le_of_ble_eq_true rfl, rfl⟩
theorem Encoding.min (a0) (a1) (a2) (a3) : Encoding.Statement (.min a0 a1 a2 a3) := ⟨Nat.le_of_ble_eq_true rfl, rfl⟩
theorem Encoding.max (a0) (a1) (a2) (a3) : Encoding.Statement (.max a0 a1 a2 a3) := ⟨Nat.le_of_ble_eq_true rfl, rfl⟩
theorem Encoding.unopAbs (a0) (a1) (a2) : Encoding.Statement (.unopAbs a0 a1 a2) := ⟨Nat.le_of_ble_eq_true rfl, rfl⟩
theorem Encoding.unopNeg (a0) (a1) (a2) : Encoding.Statement (.unopNeg a0 a1 a2) := ⟨Nat.le_of_ble_eq_true rfl, rfl⟩
theorem Encoding.unopNabs (a0) (a1) (a2) : Encoding.Statement (.unopNabs a0 a1 a2) := ⟨Nat.le_of_ble_eq_true rfl, rfl⟩
theorem Encoding.unopSat (a0) (a1) (a2) : Encoding.Statement (.unopSat a0 a1 a2) := ⟨Nat.le_of_ble_eq_true rfl, rfl⟩
theorem Encoding.unopNot (a0) (a1) (a2) : Encoding.Statement (.unopNot a0 a1 a2) := ⟨Nat.le_of_ble_eq_true rfl, rfl⟩
theorem Encoding.addl (a0) (a1) (a2) (a3) : Encoding.Statement (.addl a0 a1 a2 a3) := ⟨Nat.le_of_ble_eq_true rfl, rfl⟩
theorem Encoding.movl (a0) (a1) (a2) (a3) : Encoding.Statement (.movl a0 a1 a2 a3) := ⟨Nat.le_of_ble_eq_true rfl, rfl⟩
theorem Encoding.movi (a0) (a1) (a2) : Encoding.Statement (.movi a0 a1 a2) := ⟨Nat.le_of_ble_eq_true rfl, rfl⟩
theorem Encoding.mov (a0) (a1) (a2) : Encoding.Statement (.mov a0 a1 a2) := ⟨Nat.le_of_ble_eq_true rfl, rfl⟩
theorem Encoding.sel (a0) (a1) (a2) (a3) : Encoding.Statement (.sel a0 a1 a2 a3) := ⟨Nat.le_of_ble_eq_true rfl, rfl⟩
theorem Encoding.cmpEq (a0) (a1) (a2) (a3) : Encoding.Statement (.cmpEq a0 a1 a2 a3) := ⟨Nat.le_of_ble_eq_true rfl, rfl⟩
theorem Encoding.cmpNe (a0) (a1) (a2) (a3) : Encoding.Statement (.cmpNe a0 a1 a2 a3) := ⟨Nat.le_of_ble_eq_true rfl, rfl⟩
theorem Encoding.cmpLt (a0) (a1) (a2) (a3) : Encoding.Statement (.cmpLt a0 a1 a2 a3) := ⟨Nat.le_of_ble_eq_true rfl, rfl⟩
theorem Encoding.cmpLe (a0) (a1) (a2) (a3) : Encoding.Statement (.cmpLe a0 a1 a2 a3) := ⟨Nat.le_of_ble_eq_true rfl, rfl⟩
theorem Encoding.cmpGt (a0) (a1) (a2) (a3) : Encoding.Statement (.cmpGt a0 a1 a2 a3) := ⟨Nat.le_of_ble_eq_true rfl, rfl⟩
theorem Encoding.cmpGe (a0) (a1) (a2) (a3) : Encoding.Statement (.cmpGe a0 a1 a2 a3) := ⟨Nat.le_of_ble_eq_true rfl, rfl⟩
theorem Encoding.cmpUnord (a0) (a1) (a2) (a3) : Encoding.Statement (.cmpUnord a0 a1 a2 a3) := ⟨Nat.le_of_ble_eq_true rfl, rfl⟩
theorem Encoding.cmpOrd (a0) (a1) (a2) (a3) : Encoding.Statement (.cmpOrd a0 a1 a2 a3) := ⟨Nat.le_of_ble_eq_true rfl, rfl⟩
theorem Encoding.add64 (a0) (a1) (a2) (a3) : Encoding.Statement (.add64 a0 a1 a2 a3) := ⟨Nat.le_of_ble_eq_true rfl, rfl⟩
theorem Encoding.and (a0) (a1) (a2) (a3) : Encoding.Statement (.and a0 a1 a2 a3) := ⟨Nat.le_of_ble_eq_true rfl, rfl⟩
theorem Encoding.or (a0) (a1) (a2) (a3) : Encoding.Statement (.or a0 a1 a2 a3) := ⟨Nat.le_of_ble_eq_true rfl, rfl⟩
theorem Encoding.xor (a0) (a1) (a2) (a3) : Encoding.Statement (.xor a0 a1 a2 a3) := ⟨Nat.le_of_ble_eq_true rfl, rfl⟩
theorem Encoding.andn (a0) (a1) (a2) (a3) : Encoding.Statement (.andn a0 a1 a2 a3) := ⟨Nat.le_of_ble_eq_true rfl, rfl⟩
theorem Encoding.shl (a0) (a1) (a2) (a3) : Encoding.Statement (.shl a0 a1 a2 a3) := ⟨Nat.le_of_ble_eq_true rfl, rfl⟩
theorem Encoding.shr (a0) (a1) (a2) (a3) : Encoding.Statement (.shr a0 a1 a2 a3) := ⟨Nat.le_of_ble_eq_true rfl, rfl⟩
theorem Encoding.sar (a0) (a1) (a2) (a3) : Encoding.Statement (.sar a0 a1 a2 a3) := ⟨Nat.le_of_ble_eq_true rfl, rfl⟩
theorem Encoding.rot (a0) (a1) (a2) (a3) : Encoding.Statement (.rot a0 a1 a2 a3) := ⟨Nat.le_of_ble_eq_true rfl, rfl⟩
theorem Encoding.shli (a0) (a1) (a2) (a3) : Encoding.Statement (.shli a0 a1 a2 a3) := ⟨Nat.le_of_ble_eq_true rfl, rfl⟩
theorem Encoding.shri (a0) (a1) (a2) (a3) : Encoding.Statement (.shri a0 a1 a2 a3) := ⟨Nat.le_of_ble_eq_true rfl, rfl⟩
theorem Encoding.sari (a0) (a1) (a2) (a3) : Encoding.Statement (.sari a0 a1 a2 a3) := ⟨Nat.le_of_ble_eq_true rfl, rfl⟩
theorem Encoding.bitsClz (a0) (a1) (a2) : Encoding.Statement (.bitsClz a0 a1 a2) := ⟨Nat.le_of_ble_eq_true rfl, rfl⟩
theorem Encoding.bitsPopc (a0) (a1) (a2) : Encoding.Statement (.bitsPopc a0 a1 a2) := ⟨Nat.le_of_ble_eq_true rfl, rfl⟩
theorem Encoding.bitsBrev (a0) (a1) (a2) : Encoding.Statement (.bitsBrev a0 a1 a2) := ⟨Nat.le_of_ble_eq_true rfl, rfl⟩
theorem Encoding.bitsFfs (a0) (a1) (a2) : Encoding.Statement (.bitsFfs a0 a1 a2) := ⟨Nat.le_of_ble_eq_true rfl, rfl⟩
theorem Encoding.bitsByterev (a0) (a1) (a2) : Encoding.Statement (.bitsByterev a0 a1 a2) := ⟨Nat.le_of_ble_eq_true rfl, rfl⟩
theorem Encoding.bfx (a0) (a1) (a2) (a3) (a4) : Encoding.Statement (.bfx a0 a1 a2 a3 a4) := ⟨Nat.le_of_ble_eq_true rfl, rfl⟩
theorem Encoding.bfi (a0) (a1) (a2) (a3) (a4) : Encoding.Statement (.bfi a0 a1 a2 a3 a4) := ⟨Nat.le_of_ble_eq_true rfl, rfl⟩
theorem Encoding.dot4 (a0) (a1) (a2) (a3) : Encoding.Statement (.dot4 a0 a1 a2 a3) := ⟨Nat.le_of_ble_eq_true rfl, rfl⟩
theorem Encoding.fnRcp (a0) (a1) (a2) (a3) : Encoding.Statement (.fnRcp a0 a1 a2 a3) := ⟨Nat.le_of_ble_eq_true rfl, rfl⟩
theorem Encoding.fnRsq (a0) (a1) (a2) (a3) : Encoding.Statement (.fnRsq a0 a1 a2 a3) := ⟨Nat.le_of_ble_eq_true rfl, rfl⟩
theorem Encoding.fnSqrt (a0) (a1) (a2) (a3) : Encoding.Statement (.fnSqrt a0 a1 a2 a3) := ⟨Nat.le_of_ble_eq_true rfl, rfl⟩
theorem Encoding.fnExp2 (a0) (a1) (a2) (a3) : Encoding.Statement (.fnExp2 a0 a1 a2 a3) := ⟨Nat.le_of_ble_eq_true rfl, rfl⟩
theorem Encoding.fnLog2 (a0) (a1) (a2) (a3) : Encoding.Statement (.fnLog2 a0 a1 a2 a3) := ⟨Nat.le_of_ble_eq_true rfl, rfl⟩
theorem Encoding.fnTanh (a0) (a1) (a2) (a3) : Encoding.Statement (.fnTanh a0 a1 a2 a3) := ⟨Nat.le_of_ble_eq_true rfl, rfl⟩
theorem Encoding.fnSigm (a0) (a1) (a2) (a3) : Encoding.Statement (.fnSigm a0 a1 a2 a3) := ⟨Nat.le_of_ble_eq_true rfl, rfl⟩
theorem Encoding.fdiv (a0) (a1) (a2) (a3) : Encoding.Statement (.fdiv a0 a1 a2 a3) := ⟨Nat.le_of_ble_eq_true rfl, rfl⟩
theorem Encoding.fscale (a0) (a1) (a2) (a3) : Encoding.Statement (.fscale a0 a1 a2 a3) := ⟨Nat.le_of_ble_eq_true rfl, rfl⟩
theorem Encoding.fcls (a0) (a1) (a2) (a3) : Encoding.Statement (.fcls a0 a1 a2 a3) := ⟨Nat.le_of_ble_eq_true rfl, rfl⟩
theorem Encoding.cvt (a0) (a1) (a2) (a3) (a4) : Encoding.Statement (.cvt a0 a1 a2 a3 a4) := ⟨Nat.le_of_ble_eq_true rfl, rfl⟩
theorem Encoding.tag (a0) (a1) (a2) (a3) : Encoding.Statement (.tag a0 a1 a2 a3) := ⟨Nat.le_of_ble_eq_true rfl, rfl⟩
theorem Encoding.qblk (a0) (a1) (a2) (a3) : Encoding.Statement (.qblk a0 a1 a2 a3) := ⟨Nat.le_of_ble_eq_true rfl, rfl⟩
theorem Encoding.unpb (a0) (a1) (a2) (a3) : Encoding.Statement (.unpb a0 a1 a2 a3) := ⟨Nat.le_of_ble_eq_true rfl, rfl⟩
theorem Encoding.frnd (a0) (a1) (a2) (a3) : Encoding.Statement (.frnd a0 a1 a2 a3) := ⟨Nat.le_of_ble_eq_true rfl, rfl⟩
theorem Encoding.shfli (a0) (a1) (a2) (a3) : Encoding.Statement (.shfli a0 a1 a2 a3) := ⟨Nat.le_of_ble_eq_true rfl, rfl⟩
theorem Encoding.shflx (a0) (a1) (a2) (a3) : Encoding.Statement (.shflx a0 a1 a2 a3) := ⟨Nat.le_of_ble_eq_true rfl, rfl⟩
theorem Encoding.shflu (a0) (a1) (a2) (a3) : Encoding.Statement (.shflu a0 a1 a2 a3) := ⟨Nat.le_of_ble_eq_true rfl, rfl⟩
theorem Encoding.shfld (a0) (a1) (a2) (a3) : Encoding.Statement (.shfld a0 a1 a2 a3) := ⟨Nat.le_of_ble_eq_true rfl, rfl⟩
theorem Encoding.ballot (a0) (a1) (a2) : Encoding.Statement (.ballot a0 a1 a2) := ⟨Nat.le_of_ble_eq_true rfl, rfl⟩
theorem Encoding.voteAny (a0) (a1) (a2) : Encoding.Statement (.voteAny a0 a1 a2) := ⟨Nat.le_of_ble_eq_true rfl, rfl⟩
theorem Encoding.voteAll (a0) (a1) (a2) : Encoding.Statement (.voteAll a0 a1 a2) := ⟨Nat.le_of_ble_eq_true rfl, rfl⟩
theorem Encoding.voteUni (a0) (a1) (a2) : Encoding.Statement (.voteUni a0 a1 a2) := ⟨Nat.le_of_ble_eq_true rfl, rfl⟩
theorem Encoding.matchEq (a0) (a1) (a2) : Encoding.Statement (.matchEq a0 a1 a2) := ⟨Nat.le_of_ble_eq_true rfl, rfl⟩
theorem Encoding.redSum (a0) (a1) (a2) : Encoding.Statement (.redSum a0 a1 a2) := ⟨Nat.le_of_ble_eq_true rfl, rfl⟩
theorem Encoding.redEsum (a0) (a1) (a2) : Encoding.Statement (.redEsum a0 a1 a2) := ⟨Nat.le_of_ble_eq_true rfl, rfl⟩
theorem Encoding.redMin (a0) (a1) (a2) : Encoding.Statement (.redMin a0 a1 a2) := ⟨Nat.le_of_ble_eq_true rfl, rfl⟩
theorem Encoding.redMax (a0) (a1) (a2) : Encoding.Statement (.redMax a0 a1 a2) := ⟨Nat.le_of_ble_eq_true rfl, rfl⟩
theorem Encoding.redAnd (a0) (a1) (a2) : Encoding.Statement (.redAnd a0 a1 a2) := ⟨Nat.le_of_ble_eq_true rfl, rfl⟩
theorem Encoding.redOr (a0) (a1) (a2) : Encoding.Statement (.redOr a0 a1 a2) := ⟨Nat.le_of_ble_eq_true rfl, rfl⟩
theorem Encoding.redXor (a0) (a1) (a2) : Encoding.Statement (.redXor a0 a1 a2) := ⟨Nat.le_of_ble_eq_true rfl, rfl⟩
theorem Encoding.scanSum (a0) (a1) (a2) (a3) : Encoding.Statement (.scanSum a0 a1 a2 a3) := ⟨Nat.le_of_ble_eq_true rfl, rfl⟩
theorem Encoding.scanMin (a0) (a1) (a2) (a3) : Encoding.Statement (.scanMin a0 a1 a2 a3) := ⟨Nat.le_of_ble_eq_true rfl, rfl⟩
theorem Encoding.scanMax (a0) (a1) (a2) (a3) : Encoding.Statement (.scanMax a0 a1 a2 a3) := ⟨Nat.le_of_ble_eq_true rfl, rfl⟩
theorem Encoding.bcast (a0) (a1) (a2) (a3) : Encoding.Statement (.bcast a0 a1 a2 a3) := ⟨Nat.le_of_ble_eq_true rfl, rfl⟩
theorem Encoding.qopAnd (a0) (a1) (a2) (a3) : Encoding.Statement (.qopAnd a0 a1 a2 a3) := ⟨Nat.le_of_ble_eq_true rfl, rfl⟩
theorem Encoding.qopOr (a0) (a1) (a2) (a3) : Encoding.Statement (.qopOr a0 a1 a2 a3) := ⟨Nat.le_of_ble_eq_true rfl, rfl⟩
theorem Encoding.qopXor (a0) (a1) (a2) (a3) : Encoding.Statement (.qopXor a0 a1 a2 a3) := ⟨Nat.le_of_ble_eq_true rfl, rfl⟩
theorem Encoding.qopAndn (a0) (a1) (a2) (a3) : Encoding.Statement (.qopAndn a0 a1 a2 a3) := ⟨Nat.le_of_ble_eq_true rfl, rfl⟩
theorem Encoding.qopOrn (a0) (a1) (a2) (a3) : Encoding.Statement (.qopOrn a0 a1 a2 a3) := ⟨Nat.le_of_ble_eq_true rfl, rfl⟩
theorem Encoding.qopXnor (a0) (a1) (a2) (a3) : Encoding.Statement (.qopXnor a0 a1 a2 a3) := ⟨Nat.le_of_ble_eq_true rfl, rfl⟩
theorem Encoding.qopMov (a0) (a1) (a2) : Encoding.Statement (.qopMov a0 a1 a2) := ⟨Nat.le_of_ble_eq_true rfl, rfl⟩
theorem Encoding.qopNot (a0) (a1) (a2) : Encoding.Statement (.qopNot a0 a1 a2) := ⟨Nat.le_of_ble_eq_true rfl, rfl⟩
theorem Encoding.qopLsb (a0) (a1) (a2) (a3) : Encoding.Statement (.qopLsb a0 a1 a2 a3) := ⟨Nat.le_of_ble_eq_true rfl, rfl⟩
theorem Encoding.qopClrlsb (a0) (a1) (a2) (a3) : Encoding.Statement (.qopClrlsb a0 a1 a2 a3) := ⟨Nat.le_of_ble_eq_true rfl, rfl⟩
theorem Encoding.qi (a0) (a1) (a2) : Encoding.Statement (.qi a0 a1 a2) := ⟨Nat.le_of_ble_eq_true rfl, rfl⟩
theorem Encoding.qvToVector (a0) (a1) (a2) : Encoding.Statement (.qvToVector a0 a1 a2) := ⟨Nat.le_of_ble_eq_true rfl, rfl⟩
theorem Encoding.qvToMask (a0) (a1) (a2) : Encoding.Statement (.qvToMask a0 a1 a2) := ⟨Nat.le_of_ble_eq_true rfl, rfl⟩
theorem Encoding.pqToPredicate (a0) (a1) (a2) : Encoding.Statement (.pqToPredicate a0 a1 a2) := ⟨Nat.le_of_ble_eq_true rfl, rfl⟩
theorem Encoding.pqToMask (a0) (a1) (a2) : Encoding.Statement (.pqToMask a0 a1 a2) := ⟨Nat.le_of_ble_eq_true rfl, rfl⟩
theorem Encoding.compose (a0) (a1) (a2) (a3) : Encoding.Statement (.compose a0 a1 a2 a3) := ⟨Nat.le_of_ble_eq_true rfl, rfl⟩
theorem Encoding.bra (a0) (a1) : Encoding.Statement (.bra a0 a1) := ⟨Nat.le_of_ble_eq_true rfl, rfl⟩
theorem Encoding.join (a0) : Encoding.Statement (.join a0) := ⟨Nat.le_of_ble_eq_true rfl, rfl⟩
theorem Encoding.brx (a0) (a1) : Encoding.Statement (.brx a0 a1) := ⟨Nat.le_of_ble_eq_true rfl, rfl⟩
theorem Encoding.call (a0) (a1) (a2) : Encoding.Statement (.call a0 a1 a2) := ⟨Nat.le_of_ble_eq_true rfl, rfl⟩
theorem Encoding.callx (a0) (a1) (a2) : Encoding.Statement (.callx a0 a1 a2) := ⟨Nat.le_of_ble_eq_true rfl, rfl⟩
theorem Encoding.ret (a0) : Encoding.Statement (.ret a0) := ⟨Nat.le_of_ble_eq_true rfl, rfl⟩
theorem Encoding.callv (a0) (a1) (a2) (a3) (a4) (a5) (a6) : Encoding.Statement (.callv a0 a1 a2 a3 a4 a5 a6) := ⟨Nat.le_of_ble_eq_true rfl, rfl⟩
theorem Encoding.vqual (a0) (a1) : Encoding.Statement (.vqual a0 a1) := ⟨Nat.le_of_ble_eq_true rfl, rfl⟩
theorem Encoding.regang (a0) : Encoding.Statement (.regang a0) := ⟨Nat.le_of_ble_eq_true rfl, rfl⟩
theorem Encoding.exit (a0) : Encoding.Statement (.exit a0) := ⟨Nat.le_of_ble_eq_true rfl, rfl⟩
theorem Encoding.trap (a0) (a1) : Encoding.Statement (.trap a0 a1) := ⟨Nat.le_of_ble_eq_true rfl, rfl⟩
theorem Encoding.rft (a0) : Encoding.Statement (.rft a0) := ⟨Nat.le_of_ble_eq_true rfl, rfl⟩
theorem Encoding.region (a0) (a1) : Encoding.Statement (.region a0 a1) := ⟨Nat.le_of_ble_eq_true rfl, rfl⟩
theorem Encoding.hint (a0) (a1) (a2) (a3) : Encoding.Statement (.hint a0 a1 a2 a3) := ⟨Nat.le_of_ble_eq_true rfl, rfl⟩
theorem Encoding.rolesw (a0) (a1) : Encoding.Statement (.rolesw a0 a1) := ⟨Nat.le_of_ble_eq_true rfl, rfl⟩
theorem Encoding.stage (a0) : Encoding.Statement (.stage a0) := ⟨Nat.le_of_ble_eq_true rfl, rfl⟩
theorem Encoding.sleep (a0) (a1) : Encoding.Statement (.sleep a0 a1) := ⟨Nat.le_of_ble_eq_true rfl, rfl⟩
theorem Encoding.sleepC (a0) (a1) (a2) : Encoding.Statement (.sleepC a0 a1 a2) := ⟨Nat.le_of_ble_eq_true rfl, rfl⟩
theorem Encoding.wait (a0) (a1) (a2) : Encoding.Statement (.wait a0 a1 a2) := ⟨Nat.le_of_ble_eq_true rfl, rfl⟩
theorem Encoding.waitCnt (a0) (a1) : Encoding.Statement (.waitCnt a0 a1) := ⟨Nat.le_of_ble_eq_true rfl, rfl⟩
theorem Encoding.macroOp (a0) (a1) (a2) (a3) (a4) (a5) : Encoding.Statement (.macroOp a0 a1 a2 a3 a4 a5) := ⟨Nat.le_of_ble_eq_true rfl, rfl⟩
theorem Encoding.csrr (a0) (a1) (a2) : Encoding.Statement (.csrr a0 a1 a2) := ⟨Nat.le_of_ble_eq_true rfl, rfl⟩
theorem Encoding.csrw (a0) (a1) (a2) : Encoding.Statement (.csrw a0 a1 a2) := ⟨Nat.le_of_ble_eq_true rfl, rfl⟩
theorem Encoding.stepend (a0) : Encoding.Statement (.stepend a0) := ⟨Nat.le_of_ble_eq_true rfl, rfl⟩
theorem Encoding.qpush (a0) (a1) (a2) (a3) : Encoding.Statement (.qpush a0 a1 a2 a3) := ⟨Nat.le_of_ble_eq_true rfl, rfl⟩
theorem Encoding.qpop (a0) (a1) (a2) (a3) : Encoding.Statement (.qpop a0 a1 a2 a3) := ⟨Nat.le_of_ble_eq_true rfl, rfl⟩
theorem Encoding.segwBase (a0) (a1) (a2) : Encoding.Statement (.segwBase a0 a1 a2) := ⟨Nat.le_of_ble_eq_true rfl, rfl⟩
theorem Encoding.segwLimit (a0) (a1) (a2) : Encoding.Statement (.segwLimit a0 a1 a2) := ⟨Nat.le_of_ble_eq_true rfl, rfl⟩
theorem Encoding.segrBase (a0) (a1) (a2) : Encoding.Statement (.segrBase a0 a1 a2) := ⟨Nat.le_of_ble_eq_true rfl, rfl⟩
theorem Encoding.segrLimit (a0) (a1) (a2) : Encoding.Statement (.segrLimit a0 a1 a2) := ⟨Nat.le_of_ble_eq_true rfl, rfl⟩
theorem Encoding.tlbi (a0) (a1) : Encoding.Statement (.tlbi a0 a1) := ⟨Nat.le_of_ble_eq_true rfl, rfl⟩
theorem Encoding.tlbiAsid (a0) (a1) : Encoding.Statement (.tlbiAsid a0 a1) := ⟨Nat.le_of_ble_eq_true rfl, rfl⟩
theorem Encoding.tlbiAll (a0) : Encoding.Statement (.tlbiAll a0) := ⟨Nat.le_of_ble_eq_true rfl, rfl⟩
theorem Encoding.mcsld (a0) (a1) (a2) : Encoding.Statement (.mcsld a0 a1 a2) := ⟨Nat.le_of_ble_eq_true rfl, rfl⟩
theorem Encoding.dbrk (a0) (a1) : Encoding.Statement (.dbrk a0 a1) := ⟨Nat.le_of_ble_eq_true rfl, rfl⟩
theorem Encoding.pause (a0) (a1) : Encoding.Statement (.pause a0 a1) := ⟨Nat.le_of_ble_eq_true rfl, rfl⟩
theorem Encoding.ldb (a0) (a1) (a2) (a3) (a4) : Encoding.Statement (.ldb a0 a1 a2 a3 a4) := ⟨Nat.le_of_ble_eq_true rfl, rfl⟩
theorem Encoding.ldh (a0) (a1) (a2) (a3) (a4) : Encoding.Statement (.ldh a0 a1 a2 a3 a4) := ⟨Nat.le_of_ble_eq_true rfl, rfl⟩
theorem Encoding.ldw (a0) (a1) (a2) (a3) (a4) : Encoding.Statement (.ldw a0 a1 a2 a3 a4) := ⟨Nat.le_of_ble_eq_true rfl, rfl⟩
theorem Encoding.ldd (a0) (a1) (a2) (a3) (a4) : Encoding.Statement (.ldd a0 a1 a2 a3 a4) := ⟨Nat.le_of_ble_eq_true rfl, rfl⟩
theorem Encoding.ldc (a0) (a1) (a2) (a3) : Encoding.Statement (.ldc a0 a1 a2 a3) := ⟨Nat.le_of_ble_eq_true rfl, rfl⟩
theorem Encoding.ldt (a0) (a1) (a2) (a3) (a4) : Encoding.Statement (.ldt a0 a1 a2 a3 a4) := ⟨Nat.le_of_ble_eq_true rfl, rfl⟩
theorem Encoding.stb (a0) (a1) (a2) (a3) : Encoding.Statement (.stb a0 a1 a2 a3) := ⟨Nat.le_of_ble_eq_true rfl, rfl⟩
theorem Encoding.sth (a0) (a1) (a2) (a3) : Encoding.Statement (.sth a0 a1 a2 a3) := ⟨Nat.le_of_ble_eq_true rfl, rfl⟩
theorem Encoding.stw (a0) (a1) (a2) (a3) : Encoding.Statement (.stw a0 a1 a2 a3) := ⟨Nat.le_of_ble_eq_true rfl, rfl⟩
theorem Encoding.std (a0) (a1) (a2) (a3) : Encoding.Statement (.std a0 a1 a2 a3) := ⟨Nat.le_of_ble_eq_true rfl, rfl⟩
theorem Encoding.atomAdd (a0) (a1) (a2) (a3) : Encoding.Statement (.atomAdd a0 a1 a2 a3) := ⟨Nat.le_of_ble_eq_true rfl, rfl⟩
theorem Encoding.atomMin (a0) (a1) (a2) (a3) : Encoding.Statement (.atomMin a0 a1 a2 a3) := ⟨Nat.le_of_ble_eq_true rfl, rfl⟩
theorem Encoding.atomMax (a0) (a1) (a2) (a3) : Encoding.Statement (.atomMax a0 a1 a2 a3) := ⟨Nat.le_of_ble_eq_true rfl, rfl⟩
theorem Encoding.atomAnd (a0) (a1) (a2) (a3) : Encoding.Statement (.atomAnd a0 a1 a2 a3) := ⟨Nat.le_of_ble_eq_true rfl, rfl⟩
theorem Encoding.atomOr (a0) (a1) (a2) (a3) : Encoding.Statement (.atomOr a0 a1 a2 a3) := ⟨Nat.le_of_ble_eq_true rfl, rfl⟩
theorem Encoding.atomXor (a0) (a1) (a2) (a3) : Encoding.Statement (.atomXor a0 a1 a2 a3) := ⟨Nat.le_of_ble_eq_true rfl, rfl⟩
theorem Encoding.atomExch (a0) (a1) (a2) (a3) : Encoding.Statement (.atomExch a0 a1 a2 a3) := ⟨Nat.le_of_ble_eq_true rfl, rfl⟩
theorem Encoding.atomAddwrap (a0) (a1) (a2) (a3) : Encoding.Statement (.atomAddwrap a0 a1 a2 a3) := ⟨Nat.le_of_ble_eq_true rfl, rfl⟩
theorem Encoding.cas (a0) (a1) (a2) (a3) : Encoding.Statement (.cas a0 a1 a2 a3) := ⟨Nat.le_of_ble_eq_true rfl, rfl⟩
theorem Encoding.asum (a0) (a1) (a2) (a3) : Encoding.Statement (.asum a0 a1 a2 a3) := ⟨Nat.le_of_ble_eq_true rfl, rfl⟩
theorem Encoding.srd (a0) (a1) (a2) (a3) : Encoding.Statement (.srd a0 a1 a2 a3) := ⟨Nat.le_of_ble_eq_true rfl, rfl⟩
theorem Encoding.fenceAcq (a0) : Encoding.Statement (.fenceAcq a0) := ⟨Nat.le_of_ble_eq_true rfl, rfl⟩
theorem Encoding.fenceRel (a0) : Encoding.Statement (.fenceRel a0) := ⟨Nat.le_of_ble_eq_true rfl, rfl⟩
theorem Encoding.fenceAcqrel (a0) : Encoding.Statement (.fenceAcqrel a0) := ⟨Nat.le_of_ble_eq_true rfl, rfl⟩
theorem Encoding.fencePath (a0) (a1) : Encoding.Statement (.fencePath a0 a1) := ⟨Nat.le_of_ble_eq_true rfl, rfl⟩
theorem Encoding.fenceEng (a0) : Encoding.Statement (.fenceEng a0) := ⟨Nat.le_of_ble_eq_true rfl, rfl⟩
theorem Encoding.kick (a0) (a1) (a2) (a3) : Encoding.Statement (.kick a0 a1 a2 a3) := ⟨Nat.le_of_ble_eq_true rfl, rfl⟩
theorem Encoding.binit (a0) (a1) (a2) : Encoding.Statement (.binit a0 a1 a2) := ⟨Nat.le_of_ble_eq_true rfl, rfl⟩
theorem Encoding.barr (a0) (a1) (a2) (a3) : Encoding.Statement (.barr a0 a1 a2 a3) := ⟨Nat.le_of_ble_eq_true rfl, rfl⟩
theorem Encoding.btest (a0) (a1) (a2) (a3) : Encoding.Statement (.btest a0 a1 a2 a3) := ⟨Nat.le_of_ble_eq_true rfl, rfl⟩
theorem Encoding.trst (a0) (a1) : Encoding.Statement (.trst a0 a1) := ⟨Nat.le_of_ble_eq_true rfl, rfl⟩
theorem Encoding.legal (a0) (a1) (a2) (a3) : Encoding.Statement (.legal a0 a1 a2 a3) := ⟨Nat.le_of_ble_eq_true rfl, rfl⟩
theorem Encoding.dist (a0) (a1) (a2) (a3) : Encoding.Statement (.dist a0 a1 a2 a3) := ⟨Nat.le_of_ble_eq_true rfl, rfl⟩
theorem Encoding.topk (a0) (a1) (a2) (a3) : Encoding.Statement (.topk a0 a1 a2 a3) := ⟨Nat.le_of_ble_eq_true rfl, rfl⟩
theorem Encoding.rng (a0) (a1) (a2) (a3) (a4) : Encoding.Statement (.rng a0 a1 a2 a3 a4) := ⟨Nat.le_of_ble_eq_true rfl, rfl⟩
theorem Encoding.sload (a0) (a1) (a2) : Encoding.Statement (.sload a0 a1 a2) := ⟨Nat.le_of_ble_eq_true rfl, rfl⟩
theorem Encoding.nsend (a0) (a1) (a2) : Encoding.Statement (.nsend a0 a1 a2) := ⟨Nat.le_of_ble_eq_true rfl, rfl⟩
theorem Encoding.mfrd (a0) (a1) (a2) (a3) : Encoding.Statement (.mfrd a0 a1 a2 a3) := ⟨Nat.le_of_ble_eq_true rfl, rfl⟩
theorem Encoding.mfwr (a0) (a1) (a2) (a3) : Encoding.Statement (.mfwr a0 a1 a2 a3) := ⟨Nat.le_of_ble_eq_true rfl, rfl⟩
theorem Encoding.mfopAppend (a0) (a1) (a2) : Encoding.Statement (.mfopAppend a0 a1 a2) := ⟨Nat.le_of_ble_eq_true rfl, rfl⟩
theorem Encoding.mfopRollback (a0) (a1) (a2) : Encoding.Statement (.mfopRollback a0 a1 a2) := ⟨Nat.le_of_ble_eq_true rfl, rfl⟩
theorem Encoding.mfopFinish (a0) (a1) (a2) : Encoding.Statement (.mfopFinish a0 a1 a2) := ⟨Nat.le_of_ble_eq_true rfl, rfl⟩
theorem Encoding.mfopFault (a0) (a1) (a2) : Encoding.Statement (.mfopFault a0 a1 a2) := ⟨Nat.le_of_ble_eq_true rfl, rfl⟩
theorem Encoding.trapEntry (a0) : Encoding.Statement (.trapEntry a0) := ⟨Nat.le_of_ble_eq_true rfl, rfl⟩
theorem Encoding.breakpointStop (a0) (a1) : Encoding.Statement (.breakpointStop a0 a1) := ⟨Nat.le_of_ble_eq_true rfl, rfl⟩
theorem Encoding.regangRelease (a0) : Encoding.Statement (.regangRelease a0) := ⟨Nat.le_of_ble_eq_true rfl, rfl⟩
theorem Encoding.retRendezvous (a0) (a1) : Encoding.Statement (.retRendezvous a0 a1) := ⟨Nat.le_of_ble_eq_true rfl, rfl⟩
theorem Encoding.sleepWake (a0) (a1) : Encoding.Statement (.sleepWake a0 a1) := ⟨Nat.le_of_ble_eq_true rfl, rfl⟩
theorem Encoding.waitRelease (a0) (a1) : Encoding.Statement (.waitRelease a0 a1) := ⟨Nat.le_of_ble_eq_true rfl, rfl⟩
theorem Encoding.pauseEnd (a0) (a1) : Encoding.Statement (.pauseEnd a0 a1) := ⟨Nat.le_of_ble_eq_true rfl, rfl⟩
theorem Encoding.engineQueueRoom (a0) (a1) : Encoding.Statement (.engineQueueRoom a0 a1) := ⟨Nat.le_of_ble_eq_true rfl, rfl⟩
theorem Encoding.fenceEngJoin (a0) (a1) : Encoding.Statement (.fenceEngJoin a0 a1) := ⟨Nat.le_of_ble_eq_true rfl, rfl⟩
theorem Encoding.stageItemTaken (a0) : Encoding.Statement (.stageItemTaken a0) := ⟨Nat.le_of_ble_eq_true rfl, rfl⟩
theorem Encoding.poundClose (a0) : Encoding.Statement (.poundClose a0) := ⟨Nat.le_of_ble_eq_true rfl, rfl⟩
theorem Encoding.roleSwitchBacking (a0) : Encoding.Statement (.roleSwitchBacking a0) := ⟨Nat.le_of_ble_eq_true rfl, rfl⟩
theorem Encoding.moveRegister (a0) (a1) : Encoding.Statement (.moveRegister a0 a1) := ⟨Nat.le_of_ble_eq_true rfl, rfl⟩
theorem Encoding.moveAtomic (a0) (a1) : Encoding.Statement (.moveAtomic a0 a1) := ⟨Nat.le_of_ble_eq_true rfl, rfl⟩
theorem Encoding.moveReleaseComplete (a0) (a1) : Encoding.Statement (.moveReleaseComplete a0 a1) := ⟨Nat.le_of_ble_eq_true rfl, rfl⟩
theorem Encoding.moveWriteBack (a0) (a1) : Encoding.Statement (.moveWriteBack a0 a1) := ⟨Nat.le_of_ble_eq_true rfl, rfl⟩
theorem Encoding.moveFill (a0) (a1) (a2) : Encoding.Statement (.moveFill a0 a1 a2) := ⟨Nat.le_of_ble_eq_true rfl, rfl⟩
theorem Encoding.moveDrop (a0) (a1) (a2) : Encoding.Statement (.moveDrop a0 a1 a2) := ⟨Nat.le_of_ble_eq_true rfl, rfl⟩
theorem Encoding.engineAccess (a0) (a1) : Encoding.Statement (.engineAccess a0 a1) := ⟨Nat.le_of_ble_eq_true rfl, rfl⟩
theorem Encoding.landing (a0) (a1) : Encoding.Statement (.landing a0 a1) := ⟨Nat.le_of_ble_eq_true rfl, rfl⟩
theorem Encoding.followOnFire (a0) : Encoding.Statement (.followOnFire a0) := ⟨Nat.le_of_ble_eq_true rfl, rfl⟩
theorem Encoding.matrixOpen (a0) : Encoding.Statement (.matrixOpen a0) := ⟨Nat.le_of_ble_eq_true rfl, rfl⟩
theorem Encoding.matrixAccumulate (a0) : Encoding.Statement (.matrixAccumulate a0) := ⟨Nat.le_of_ble_eq_true rfl, rfl⟩
theorem Encoding.matrixClose (a0) : Encoding.Statement (.matrixClose a0) := ⟨Nat.le_of_ble_eq_true rfl, rfl⟩
theorem Encoding.trestleThread (a0) : Encoding.Statement (.trestleThread a0) := ⟨Nat.le_of_ble_eq_true rfl, rfl⟩
theorem Encoding.nvmeCompletion (a0) (a1) (a2) (a3) : Encoding.Statement (.nvmeCompletion a0 a1 a2 a3) := ⟨Nat.le_of_ble_eq_true rfl, rfl⟩
theorem Encoding.quayTimeout (a0) : Encoding.Statement (.quayTimeout a0) := ⟨Nat.le_of_ble_eq_true rfl, rfl⟩
theorem Encoding.messageAcknowledged (a0) : Encoding.Statement (.messageAcknowledged a0) := ⟨Nat.le_of_ble_eq_true rfl, rfl⟩
theorem Encoding.messageUndeliverable (a0) : Encoding.Statement (.messageUndeliverable a0) := ⟨Nat.le_of_ble_eq_true rfl, rfl⟩
theorem Encoding.messageArrival (a0) (a1) (a2) (a3) : Encoding.Statement (.messageArrival a0 a1 a2 a3) := ⟨Nat.le_of_ble_eq_true rfl, rfl⟩
theorem Encoding.barrierDeadlock (a0) (a1) : Encoding.Statement (.barrierDeadlock a0 a1) := ⟨Nat.le_of_ble_eq_true rfl, rfl⟩
theorem Encoding.towSpill (a0) (a1) : Encoding.Statement (.towSpill a0 a1) := ⟨Nat.le_of_ble_eq_true rfl, rfl⟩
theorem Encoding.towRefill (a0) (a1) : Encoding.Statement (.towRefill a0 a1) := ⟨Nat.le_of_ble_eq_true rfl, rfl⟩
theorem Encoding.compaction (a0) (a1) : Encoding.Statement (.compaction a0 a1) := ⟨Nat.le_of_ble_eq_true rfl, rfl⟩
theorem Encoding.launchDequeue : Encoding.Statement (.launchDequeue) := ⟨Nat.le_of_ble_eq_true rfl, rfl⟩
theorem Encoding.gangPlacement (a0) : Encoding.Statement (.gangPlacement a0) := ⟨Nat.le_of_ble_eq_true rfl, rfl⟩
theorem Encoding.gangStart (a0) : Encoding.Statement (.gangStart a0) := ⟨Nat.le_of_ble_eq_true rfl, rfl⟩
theorem Encoding.launchEnd (a0) : Encoding.Statement (.launchEnd a0) := ⟨Nat.le_of_ble_eq_true rfl, rfl⟩
theorem Encoding.sluiceDoorbell (a0) (a1) : Encoding.Statement (.sluiceDoorbell a0 a1) := ⟨Nat.le_of_ble_eq_true rfl, rfl⟩
theorem Encoding.sluiceLaunch (a0) : Encoding.Statement (.sluiceLaunch a0) := ⟨Nat.le_of_ble_eq_true rfl, rfl⟩
theorem Encoding.sluiceWait (a0) : Encoding.Statement (.sluiceWait a0) := ⟨Nat.le_of_ble_eq_true rfl, rfl⟩
theorem Encoding.sluiceSignal (a0) : Encoding.Statement (.sluiceSignal a0) := ⟨Nat.le_of_ble_eq_true rfl, rfl⟩
theorem Encoding.sluiceArm (a0) : Encoding.Statement (.sluiceArm a0) := ⟨Nat.le_of_ble_eq_true rfl, rfl⟩
theorem Encoding.sluiceDisarm (a0) : Encoding.Statement (.sluiceDisarm a0) := ⟨Nat.le_of_ble_eq_true rfl, rfl⟩
theorem Encoding.semaphoreRetest (a0) : Encoding.Statement (.semaphoreRetest a0) := ⟨Nat.le_of_ble_eq_true rfl, rfl⟩
theorem Encoding.sluiceErrorClear (a0) : Encoding.Statement (.sluiceErrorClear a0) := ⟨Nat.le_of_ble_eq_true rfl, rfl⟩
theorem Encoding.rotationInterrupt : Encoding.Statement (.rotationInterrupt) := ⟨Nat.le_of_ble_eq_true rfl, rfl⟩
theorem Encoding.lockEnable (a0) (a1) : Encoding.Statement (.lockEnable a0 a1) := ⟨Nat.le_of_ble_eq_true rfl, rfl⟩
theorem Encoding.lockDisable (a0) : Encoding.Statement (.lockDisable a0) := ⟨Nat.le_of_ble_eq_true rfl, rfl⟩
theorem Encoding.subtailWrite (a0) (a1) : Encoding.Statement (.subtailWrite a0 a1) := ⟨Nat.le_of_ble_eq_true rfl, rfl⟩
theorem Encoding.stepFinished (a0) : Encoding.Statement (.stepFinished a0) := ⟨Nat.le_of_ble_eq_true rfl, rfl⟩
theorem Encoding.lockRetire (a0) : Encoding.Statement (.lockRetire a0) := ⟨Nat.le_of_ble_eq_true rfl, rfl⟩
theorem Encoding.lockReserve (a0) : Encoding.Statement (.lockReserve a0) := ⟨Nat.le_of_ble_eq_true rfl, rfl⟩
theorem Encoding.lockAdmit (a0) : Encoding.Statement (.lockAdmit a0) := ⟨Nat.le_of_ble_eq_true rfl, rfl⟩
theorem Encoding.lockPublish (a0) : Encoding.Statement (.lockPublish a0) := ⟨Nat.le_of_ble_eq_true rfl, rfl⟩
theorem Encoding.lockPush (a0) : Encoding.Statement (.lockPush a0) := ⟨Nat.le_of_ble_eq_true rfl, rfl⟩
theorem Encoding.invalidatePage (a0) (a1) : Encoding.Statement (.invalidatePage a0 a1) := ⟨Nat.le_of_ble_eq_true rfl, rfl⟩
theorem Encoding.invalidateAsid (a0) : Encoding.Statement (.invalidateAsid a0) := ⟨Nat.le_of_ble_eq_true rfl, rfl⟩
theorem Encoding.invalidateAll : Encoding.Statement (.invalidateAll) := ⟨Nat.le_of_ble_eq_true rfl, rfl⟩
theorem Encoding.invalidationComplete : Encoding.Statement (.invalidationComplete) := ⟨Nat.le_of_ble_eq_true rfl, rfl⟩
theorem Encoding.replayParkId (a0) (a1) (a2) : Encoding.Statement (.replayParkId a0 a1 a2) := ⟨Nat.le_of_ble_eq_true rfl, rfl⟩
theorem Encoding.replayAsid (a0) (a1) (a2) : Encoding.Statement (.replayAsid a0 a1 a2) := ⟨Nat.le_of_ble_eq_true rfl, rfl⟩
theorem Encoding.replayDie (a0) (a1) : Encoding.Statement (.replayDie a0 a1) := ⟨Nat.le_of_ble_eq_true rfl, rfl⟩
theorem Encoding.overflowClear (a0) : Encoding.Statement (.overflowClear a0) := ⟨Nat.le_of_ble_eq_true rfl, rfl⟩
theorem Encoding.peerRequest (a0) (a1) (a2) (a3) (a4) : Encoding.Statement (.peerRequest a0 a1 a2 a3 a4) := ⟨Nat.le_of_ble_eq_true rfl, rfl⟩
theorem Encoding.hostAccess (a0) (a1) (a2) (a3) : Encoding.Statement (.hostAccess a0 a1 a2 a3) := ⟨Nat.le_of_ble_eq_true rfl, rfl⟩
theorem Encoding.preempt (a0) : Encoding.Statement (.preempt a0) := ⟨Nat.le_of_ble_eq_true rfl, rfl⟩
theorem Encoding.preemptDeadline : Encoding.Statement (.preemptDeadline) := ⟨Nat.le_of_ble_eq_true rfl, rfl⟩
theorem Encoding.saveComplete : Encoding.Statement (.saveComplete) := ⟨Nat.le_of_ble_eq_true rfl, rfl⟩
theorem Encoding.contextRestore (a0) : Encoding.Statement (.contextRestore a0) := ⟨Nat.le_of_ble_eq_true rfl, rfl⟩
theorem Encoding.controlStoreReplace (a0) : Encoding.Statement (.controlStoreReplace a0) := ⟨Nat.le_of_ble_eq_true rfl, rfl⟩
theorem Encoding.watchdogExpiry (a0) : Encoding.Statement (.watchdogExpiry a0) := ⟨Nat.le_of_ble_eq_true rfl, rfl⟩
theorem Encoding.powerRecompute (a0) (a1) : Encoding.Statement (.powerRecompute a0 a1) := ⟨Nat.le_of_ble_eq_true rfl, rfl⟩
theorem Encoding.powercapWrite (a0) : Encoding.Statement (.powercapWrite a0) := ⟨Nat.le_of_ble_eq_true rfl, rfl⟩
theorem Encoding.pcSample (a0) : Encoding.Statement (.pcSample a0) := ⟨Nat.le_of_ble_eq_true rfl, rfl⟩
theorem Encoding.triggerLine (a0) : Encoding.Statement (.triggerLine a0) := ⟨Nat.le_of_ble_eq_true rfl, rfl⟩
theorem Encoding.hostStopRequest (a0) : Encoding.Statement (.hostStopRequest a0) := ⟨Nat.le_of_ble_eq_true rfl, rfl⟩
theorem Encoding.hostResume (a0) : Encoding.Statement (.hostResume a0) := ⟨Nat.le_of_ble_eq_true rfl, rfl⟩
theorem Encoding.scrub (a0) (a1) (a2) (a3) (a4) : Encoding.Statement (.scrub a0 a1 a2 a3 a4) := ⟨Nat.le_of_ble_eq_true rfl, rfl⟩
theorem Encoding.retirementRequest (a0) : Encoding.Statement (.retirementRequest a0) := ⟨Nat.le_of_ble_eq_true rfl, rfl⟩
theorem Encoding.securityVersionRaise (a0) : Encoding.Statement (.securityVersionRaise a0) := ⟨Nat.le_of_ble_eq_true rfl, rfl⟩
theorem Encoding.moduleReset (a0) (a1) : Encoding.Statement (.moduleReset a0 a1) := ⟨Nat.le_of_ble_eq_true rfl, rfl⟩
theorem Encoding.getVersion : Encoding.Statement (.getVersion) := ⟨Nat.le_of_ble_eq_true rfl, rfl⟩
theorem Encoding.getCapabilities : Encoding.Statement (.getCapabilities) := ⟨Nat.le_of_ble_eq_true rfl, rfl⟩
theorem Encoding.negotiateAlgorithms (a0) (a1) : Encoding.Statement (.negotiateAlgorithms a0 a1) := ⟨Nat.le_of_ble_eq_true rfl, rfl⟩
theorem Encoding.getCertificate (a0) (a1) (a2) : Encoding.Statement (.getCertificate a0 a1 a2) := ⟨Nat.le_of_ble_eq_true rfl, rfl⟩
theorem Encoding.challenge (a0) : Encoding.Statement (.challenge a0) := ⟨Nat.le_of_ble_eq_true rfl, rfl⟩
theorem Encoding.getMeasurements (a0) : Encoding.Statement (.getMeasurements a0) := ⟨Nat.le_of_ble_eq_true rfl, rfl⟩
theorem Encoding.linkTraining (a0) (a1) : Encoding.Statement (.linkTraining a0 a1) := ⟨Nat.le_of_ble_eq_true rfl, rfl⟩
theorem Encoding.portLinkChange (a0) (a1) (a2) : Encoding.Statement (.portLinkChange a0 a1 a2) := ⟨Nat.le_of_ble_eq_true rfl, rfl⟩
theorem Encoding.registerWrite (a0) (a1) (a2) : Encoding.Statement (.registerWrite a0 a1 a2) := ⟨Nat.le_of_ble_eq_true rfl, rfl⟩
theorem Encoding.sluiceMap (a0) (a1) : Encoding.Statement (.sluiceMap a0 a1) := ⟨Nat.le_of_ble_eq_true rfl, rfl⟩

end Sys2Proof.Laws
end

