-- ==== Sys2Proof/Laws/Words.lean ====
section
/-! SUPPORT. Every word of a program is issued by the one shared operation, with the faults of execution of its own rules. -/

namespace Sys2Proof.Machine

/-- A word of a program is an issue with its own faults and some effect. -/
theorem exec_issueWord (s : State) (i : Instr) (h : isEvent i = false) :
    ∃ act, exec i s = s.issueWord i (fun s => s.faults i) act := by
  cases i
  case nop => exact ⟨_, by simp only [exec]; unfold execNop; rfl⟩
  case add => exact ⟨_, by simp only [exec]; unfold execAdd; rfl⟩
  case sub => exact ⟨_, by simp only [exec]; unfold execSub; rfl⟩
  case mul => exact ⟨_, by simp only [exec]; unfold execMul; rfl⟩
  case mulh => exact ⟨_, by simp only [exec]; unfold execMulh; rfl⟩
  case fma => exact ⟨_, by simp only [exec]; unfold execFma; rfl⟩
  case min => exact ⟨_, by simp only [exec]; unfold execMin; rfl⟩
  case max => exact ⟨_, by simp only [exec]; unfold execMax; rfl⟩
  case unopAbs => exact ⟨_, by simp only [exec]; unfold execUnopAbs; rfl⟩
  case unopNeg => exact ⟨_, by simp only [exec]; unfold execUnopNeg; rfl⟩
  case unopNabs => exact ⟨_, by simp only [exec]; unfold execUnopNabs; rfl⟩
  case unopSat => exact ⟨_, by simp only [exec]; unfold execUnopSat; rfl⟩
  case unopNot => exact ⟨_, by simp only [exec]; unfold execUnopNot; rfl⟩
  case addl => exact ⟨_, by simp only [exec]; unfold execAddl; rfl⟩
  case movl => exact ⟨_, by simp only [exec]; unfold execMovl; rfl⟩
  case movi => exact ⟨_, by simp only [exec]; unfold execMovi; rfl⟩
  case mov => exact ⟨_, by simp only [exec]; unfold execMov; rfl⟩
  case sel => exact ⟨_, by simp only [exec]; unfold execSel; rfl⟩
  case cmpEq => exact ⟨_, by simp only [exec]; unfold execCmpEq; rfl⟩
  case cmpNe => exact ⟨_, by simp only [exec]; unfold execCmpNe; rfl⟩
  case cmpLt => exact ⟨_, by simp only [exec]; unfold execCmpLt; rfl⟩
  case cmpLe => exact ⟨_, by simp only [exec]; unfold execCmpLe; rfl⟩
  case cmpGt => exact ⟨_, by simp only [exec]; unfold execCmpGt; rfl⟩
  case cmpGe => exact ⟨_, by simp only [exec]; unfold execCmpGe; rfl⟩
  case cmpUnord => exact ⟨_, by simp only [exec]; unfold execCmpUnord; rfl⟩
  case cmpOrd => exact ⟨_, by simp only [exec]; unfold execCmpOrd; rfl⟩
  case add64 => exact ⟨_, by simp only [exec]; unfold execAdd64; rfl⟩
  case and => exact ⟨_, by simp only [exec]; unfold execAnd; rfl⟩
  case or => exact ⟨_, by simp only [exec]; unfold execOr; rfl⟩
  case xor => exact ⟨_, by simp only [exec]; unfold execXor; rfl⟩
  case andn => exact ⟨_, by simp only [exec]; unfold execAndn; rfl⟩
  case shl => exact ⟨_, by simp only [exec]; unfold execShl; rfl⟩
  case shr => exact ⟨_, by simp only [exec]; unfold execShr; rfl⟩
  case sar => exact ⟨_, by simp only [exec]; unfold execSar; rfl⟩
  case rot => exact ⟨_, by simp only [exec]; unfold execRot; rfl⟩
  case shli => exact ⟨_, by simp only [exec]; unfold execShli; rfl⟩
  case shri => exact ⟨_, by simp only [exec]; unfold execShri; rfl⟩
  case sari => exact ⟨_, by simp only [exec]; unfold execSari; rfl⟩
  case bitsClz => exact ⟨_, by simp only [exec]; unfold execBitsClz; rfl⟩
  case bitsPopc => exact ⟨_, by simp only [exec]; unfold execBitsPopc; rfl⟩
  case bitsBrev => exact ⟨_, by simp only [exec]; unfold execBitsBrev; rfl⟩
  case bitsFfs => exact ⟨_, by simp only [exec]; unfold execBitsFfs; rfl⟩
  case bitsByterev => exact ⟨_, by simp only [exec]; unfold execBitsByterev; rfl⟩
  case bfx => exact ⟨_, by simp only [exec]; unfold execBfx; rfl⟩
  case bfi => exact ⟨_, by simp only [exec]; unfold execBfi; rfl⟩
  case dot4 => exact ⟨_, by simp only [exec]; unfold execDot4; rfl⟩
  case fnRcp => exact ⟨_, by simp only [exec]; unfold execFnRcp; rfl⟩
  case fnRsq => exact ⟨_, by simp only [exec]; unfold execFnRsq; rfl⟩
  case fnSqrt => exact ⟨_, by simp only [exec]; unfold execFnSqrt; rfl⟩
  case fnExp2 => exact ⟨_, by simp only [exec]; unfold execFnExp2; rfl⟩
  case fnLog2 => exact ⟨_, by simp only [exec]; unfold execFnLog2; rfl⟩
  case fnTanh => exact ⟨_, by simp only [exec]; unfold execFnTanh; rfl⟩
  case fnSigm => exact ⟨_, by simp only [exec]; unfold execFnSigm; rfl⟩
  case fdiv => exact ⟨_, by simp only [exec]; unfold execFdiv; rfl⟩
  case fscale => exact ⟨_, by simp only [exec]; unfold execFscale; rfl⟩
  case fcls => exact ⟨_, by simp only [exec]; unfold execFcls; rfl⟩
  case cvt => exact ⟨_, by simp only [exec]; unfold execCvt; rfl⟩
  case tag => exact ⟨_, by simp only [exec]; unfold execTag; rfl⟩
  case qblk => exact ⟨_, by simp only [exec]; unfold execQblk; rfl⟩
  case unpb => exact ⟨_, by simp only [exec]; unfold execUnpb; rfl⟩
  case frnd => exact ⟨_, by simp only [exec]; unfold execFrnd; rfl⟩
  case shfli => exact ⟨_, by simp only [exec]; unfold execShfli; rfl⟩
  case shflx => exact ⟨_, by simp only [exec]; unfold execShflx; rfl⟩
  case shflu => exact ⟨_, by simp only [exec]; unfold execShflu; rfl⟩
  case shfld => exact ⟨_, by simp only [exec]; unfold execShfld; rfl⟩
  case ballot => exact ⟨_, by simp only [exec]; unfold execBallot; rfl⟩
  case voteAny => exact ⟨_, by simp only [exec]; unfold execVoteAny; rfl⟩
  case voteAll => exact ⟨_, by simp only [exec]; unfold execVoteAll; rfl⟩
  case voteUni => exact ⟨_, by simp only [exec]; unfold execVoteUni; rfl⟩
  case matchEq => exact ⟨_, by simp only [exec]; unfold execMatchEq; rfl⟩
  case redSum => exact ⟨_, by simp only [exec]; unfold execRedSum; rfl⟩
  case redEsum => exact ⟨_, by simp only [exec]; unfold execRedEsum; rfl⟩
  case redMin => exact ⟨_, by simp only [exec]; unfold execRedMin; rfl⟩
  case redMax => exact ⟨_, by simp only [exec]; unfold execRedMax; rfl⟩
  case redAnd => exact ⟨_, by simp only [exec]; unfold execRedAnd; rfl⟩
  case redOr => exact ⟨_, by simp only [exec]; unfold execRedOr; rfl⟩
  case redXor => exact ⟨_, by simp only [exec]; unfold execRedXor; rfl⟩
  case scanSum => exact ⟨_, by simp only [exec]; unfold execScanSum; rfl⟩
  case scanMin => exact ⟨_, by simp only [exec]; unfold execScanMin; rfl⟩
  case scanMax => exact ⟨_, by simp only [exec]; unfold execScanMax; rfl⟩
  case bcast => exact ⟨_, by simp only [exec]; unfold execBcast; rfl⟩
  case qopAnd => exact ⟨_, by simp only [exec]; unfold execQopAnd; rfl⟩
  case qopOr => exact ⟨_, by simp only [exec]; unfold execQopOr; rfl⟩
  case qopXor => exact ⟨_, by simp only [exec]; unfold execQopXor; rfl⟩
  case qopAndn => exact ⟨_, by simp only [exec]; unfold execQopAndn; rfl⟩
  case qopOrn => exact ⟨_, by simp only [exec]; unfold execQopOrn; rfl⟩
  case qopXnor => exact ⟨_, by simp only [exec]; unfold execQopXnor; rfl⟩
  case qopMov => exact ⟨_, by simp only [exec]; unfold execQopMov; rfl⟩
  case qopNot => exact ⟨_, by simp only [exec]; unfold execQopNot; rfl⟩
  case qopLsb => exact ⟨_, by simp only [exec]; unfold execQopLsb; rfl⟩
  case qopClrlsb => exact ⟨_, by simp only [exec]; unfold execQopClrlsb; rfl⟩
  case qi => exact ⟨_, by simp only [exec]; unfold execQi; rfl⟩
  case qvToVector => exact ⟨_, by simp only [exec]; unfold execQvToVector; rfl⟩
  case qvToMask => exact ⟨_, by simp only [exec]; unfold execQvToMask; rfl⟩
  case pqToPredicate => exact ⟨_, by simp only [exec]; unfold execPqToPredicate; rfl⟩
  case pqToMask => exact ⟨_, by simp only [exec]; unfold execPqToMask; rfl⟩
  case compose => exact ⟨_, by simp only [exec]; unfold execCompose; rfl⟩
  case bra => exact ⟨_, by simp only [exec]; unfold execBra; rfl⟩
  case join => exact ⟨_, by simp only [exec]; unfold execJoin; rfl⟩
  case brx => exact ⟨_, by simp only [exec]; unfold execBrx; rfl⟩
  case call => exact ⟨_, by simp only [exec]; unfold execCall; rfl⟩
  case callx => exact ⟨_, by simp only [exec]; unfold execCallx; rfl⟩
  case ret => exact ⟨_, by simp only [exec]; unfold execRet; rfl⟩
  case callv => exact ⟨_, by simp only [exec]; unfold execCallv; rfl⟩
  case vqual => exact ⟨_, by simp only [exec]; unfold execVqual; rfl⟩
  case regang => exact ⟨_, by simp only [exec]; unfold execRegang; rfl⟩
  case exit => exact ⟨_, by simp only [exec]; unfold execExit; rfl⟩
  case trap => exact ⟨_, by simp only [exec]; unfold execTrap; rfl⟩
  case rft => exact ⟨_, by simp only [exec]; unfold execRft; rfl⟩
  case region => exact ⟨_, by simp only [exec]; unfold execRegion; rfl⟩
  case hint => exact ⟨_, by simp only [exec]; unfold execHint; rfl⟩
  case rolesw => exact ⟨_, by simp only [exec]; unfold execRolesw; rfl⟩
  case stage => exact ⟨_, by simp only [exec]; unfold execStage; rfl⟩
  case sleep => exact ⟨_, by simp only [exec]; unfold execSleep; rfl⟩
  case sleepC => exact ⟨_, by simp only [exec]; unfold execSleepC; rfl⟩
  case wait => exact ⟨_, by simp only [exec]; unfold execWait; rfl⟩
  case waitCnt => exact ⟨_, by simp only [exec]; unfold execWaitCnt; rfl⟩
  case macroOp => exact ⟨_, by simp only [exec]; unfold execMacroOp; rfl⟩
  case csrr => exact ⟨_, by simp only [exec]; unfold execCsrr; rfl⟩
  case csrw => exact ⟨_, by simp only [exec]; unfold execCsrw; rfl⟩
  case stepend => exact ⟨_, by simp only [exec]; unfold execStepend; rfl⟩
  case qpush => exact ⟨_, by simp only [exec]; unfold execQpush; rfl⟩
  case qpop => exact ⟨_, by simp only [exec]; unfold execQpop; rfl⟩
  case segwBase => exact ⟨_, by simp only [exec]; unfold execSegwBase; rfl⟩
  case segwLimit => exact ⟨_, by simp only [exec]; unfold execSegwLimit; rfl⟩
  case segrBase => exact ⟨_, by simp only [exec]; unfold execSegrBase; rfl⟩
  case segrLimit => exact ⟨_, by simp only [exec]; unfold execSegrLimit; rfl⟩
  case tlbi => exact ⟨_, by simp only [exec]; unfold execTlbi; rfl⟩
  case tlbiAsid => exact ⟨_, by simp only [exec]; unfold execTlbiAsid; rfl⟩
  case tlbiAll => exact ⟨_, by simp only [exec]; unfold execTlbiAll; rfl⟩
  case mcsld => exact ⟨_, by simp only [exec]; unfold execMcsld; rfl⟩
  case dbrk => exact ⟨_, by simp only [exec]; unfold execDbrk; rfl⟩
  case pause => exact ⟨_, by simp only [exec]; unfold execPause; rfl⟩
  case ldb => exact ⟨_, by simp only [exec]; unfold execLdb; rfl⟩
  case ldh => exact ⟨_, by simp only [exec]; unfold execLdh; rfl⟩
  case ldw => exact ⟨_, by simp only [exec]; unfold execLdw; rfl⟩
  case ldd => exact ⟨_, by simp only [exec]; unfold execLdd; rfl⟩
  case ldc => exact ⟨_, by simp only [exec]; unfold execLdc; rfl⟩
  case ldt => exact ⟨_, by simp only [exec]; unfold execLdt; rfl⟩
  case stb => exact ⟨_, by simp only [exec]; unfold execStb; rfl⟩
  case sth => exact ⟨_, by simp only [exec]; unfold execSth; rfl⟩
  case stw => exact ⟨_, by simp only [exec]; unfold execStw; rfl⟩
  case std => exact ⟨_, by simp only [exec]; unfold execStd; rfl⟩
  case atomAdd => exact ⟨_, by simp only [exec]; unfold execAtomAdd; rfl⟩
  case atomMin => exact ⟨_, by simp only [exec]; unfold execAtomMin; rfl⟩
  case atomMax => exact ⟨_, by simp only [exec]; unfold execAtomMax; rfl⟩
  case atomAnd => exact ⟨_, by simp only [exec]; unfold execAtomAnd; rfl⟩
  case atomOr => exact ⟨_, by simp only [exec]; unfold execAtomOr; rfl⟩
  case atomXor => exact ⟨_, by simp only [exec]; unfold execAtomXor; rfl⟩
  case atomExch => exact ⟨_, by simp only [exec]; unfold execAtomExch; rfl⟩
  case atomAddwrap => exact ⟨_, by simp only [exec]; unfold execAtomAddwrap; rfl⟩
  case cas => exact ⟨_, by simp only [exec]; unfold execCas; rfl⟩
  case asum => exact ⟨_, by simp only [exec]; unfold execAsum; rfl⟩
  case srd => exact ⟨_, by simp only [exec]; unfold execSrd; rfl⟩
  case fenceAcq => exact ⟨_, by simp only [exec]; unfold execFenceAcq; rfl⟩
  case fenceRel => exact ⟨_, by simp only [exec]; unfold execFenceRel; rfl⟩
  case fenceAcqrel => exact ⟨_, by simp only [exec]; unfold execFenceAcqrel; rfl⟩
  case fencePath => exact ⟨_, by simp only [exec]; unfold execFencePath; rfl⟩
  case fenceEng => exact ⟨_, by simp only [exec]; unfold execFenceEng; rfl⟩
  case kick => exact ⟨_, by simp only [exec]; unfold execKick; rfl⟩
  case binit => exact ⟨_, by simp only [exec]; unfold execBinit; rfl⟩
  case barr => exact ⟨_, by simp only [exec]; unfold execBarr; rfl⟩
  case btest => exact ⟨_, by simp only [exec]; unfold execBtest; rfl⟩
  case trst => exact ⟨_, by simp only [exec]; unfold execTrst; rfl⟩
  case legal => exact ⟨_, by simp only [exec]; unfold execLegal; rfl⟩
  case dist => exact ⟨_, by simp only [exec]; unfold execDist; rfl⟩
  case topk => exact ⟨_, by simp only [exec]; unfold execTopk; rfl⟩
  case rng => exact ⟨_, by simp only [exec]; unfold execRng; rfl⟩
  case sload => exact ⟨_, by simp only [exec]; unfold execSload; rfl⟩
  case nsend => exact ⟨_, by simp only [exec]; unfold execNsend; rfl⟩
  case mfrd => exact ⟨_, by simp only [exec]; unfold execMfrd; rfl⟩
  case mfwr => exact ⟨_, by simp only [exec]; unfold execMfwr; rfl⟩
  case mfopAppend => exact ⟨_, by simp only [exec]; unfold execMfopAppend; rfl⟩
  case mfopRollback => exact ⟨_, by simp only [exec]; unfold execMfopRollback; rfl⟩
  case mfopFinish => exact ⟨_, by simp only [exec]; unfold execMfopFinish; rfl⟩
  case mfopFault => exact ⟨_, by simp only [exec]; unfold execMfopFault; rfl⟩
  case trapEntry => exact absurd h (by simp [isEvent, Instr.pipe])
  case breakpointStop => exact absurd h (by simp [isEvent, Instr.pipe])
  case regangRelease => exact absurd h (by simp [isEvent, Instr.pipe])
  case retRendezvous => exact absurd h (by simp [isEvent, Instr.pipe])
  case sleepWake => exact absurd h (by simp [isEvent, Instr.pipe])
  case waitRelease => exact absurd h (by simp [isEvent, Instr.pipe])
  case pauseEnd => exact absurd h (by simp [isEvent, Instr.pipe])
  case engineQueueRoom => exact absurd h (by simp [isEvent, Instr.pipe])
  case fenceEngJoin => exact absurd h (by simp [isEvent, Instr.pipe])
  case stageItemTaken => exact absurd h (by simp [isEvent, Instr.pipe])
  case poundClose => exact absurd h (by simp [isEvent, Instr.pipe])
  case roleSwitchBacking => exact absurd h (by simp [isEvent, Instr.pipe])
  case moveRegister => exact absurd h (by simp [isEvent, Instr.pipe])
  case moveAtomic => exact absurd h (by simp [isEvent, Instr.pipe])
  case moveReleaseComplete => exact absurd h (by simp [isEvent, Instr.pipe])
  case moveWriteBack => exact absurd h (by simp [isEvent, Instr.pipe])
  case moveFill => exact absurd h (by simp [isEvent, Instr.pipe])
  case moveDrop => exact absurd h (by simp [isEvent, Instr.pipe])
  case engineAccess => exact absurd h (by simp [isEvent, Instr.pipe])
  case landing => exact absurd h (by simp [isEvent, Instr.pipe])
  case followOnFire => exact absurd h (by simp [isEvent, Instr.pipe])
  case matrixOpen => exact absurd h (by simp [isEvent, Instr.pipe])
  case matrixAccumulate => exact absurd h (by simp [isEvent, Instr.pipe])
  case matrixClose => exact absurd h (by simp [isEvent, Instr.pipe])
  case trestleThread => exact absurd h (by simp [isEvent, Instr.pipe])
  case nvmeCompletion => exact absurd h (by simp [isEvent, Instr.pipe])
  case quayTimeout => exact absurd h (by simp [isEvent, Instr.pipe])
  case messageAcknowledged => exact absurd h (by simp [isEvent, Instr.pipe])
  case messageUndeliverable => exact absurd h (by simp [isEvent, Instr.pipe])
  case messageArrival => exact absurd h (by simp [isEvent, Instr.pipe])
  case barrierDeadlock => exact absurd h (by simp [isEvent, Instr.pipe])
  case towSpill => exact absurd h (by simp [isEvent, Instr.pipe])
  case towRefill => exact absurd h (by simp [isEvent, Instr.pipe])
  case compaction => exact absurd h (by simp [isEvent, Instr.pipe])
  case launchDequeue => exact absurd h (by simp [isEvent, Instr.pipe])
  case gangPlacement => exact absurd h (by simp [isEvent, Instr.pipe])
  case gangStart => exact absurd h (by simp [isEvent, Instr.pipe])
  case launchEnd => exact absurd h (by simp [isEvent, Instr.pipe])
  case sluiceDoorbell => exact absurd h (by simp [isEvent, Instr.pipe])
  case sluiceLaunch => exact absurd h (by simp [isEvent, Instr.pipe])
  case sluiceWait => exact absurd h (by simp [isEvent, Instr.pipe])
  case sluiceSignal => exact absurd h (by simp [isEvent, Instr.pipe])
  case sluiceArm => exact absurd h (by simp [isEvent, Instr.pipe])
  case sluiceDisarm => exact absurd h (by simp [isEvent, Instr.pipe])
  case semaphoreRetest => exact absurd h (by simp [isEvent, Instr.pipe])
  case sluiceErrorClear => exact absurd h (by simp [isEvent, Instr.pipe])
  case rotationInterrupt => exact absurd h (by simp [isEvent, Instr.pipe])
  case lockEnable => exact absurd h (by simp [isEvent, Instr.pipe])
  case lockDisable => exact absurd h (by simp [isEvent, Instr.pipe])
  case subtailWrite => exact absurd h (by simp [isEvent, Instr.pipe])
  case stepFinished => exact absurd h (by simp [isEvent, Instr.pipe])
  case lockRetire => exact absurd h (by simp [isEvent, Instr.pipe])
  case lockReserve => exact absurd h (by simp [isEvent, Instr.pipe])
  case lockAdmit => exact absurd h (by simp [isEvent, Instr.pipe])
  case lockPublish => exact absurd h (by simp [isEvent, Instr.pipe])
  case lockPush => exact absurd h (by simp [isEvent, Instr.pipe])
  case invalidatePage => exact absurd h (by simp [isEvent, Instr.pipe])
  case invalidateAsid => exact absurd h (by simp [isEvent, Instr.pipe])
  case invalidateAll => exact absurd h (by simp [isEvent, Instr.pipe])
  case invalidationComplete => exact absurd h (by simp [isEvent, Instr.pipe])
  case replayParkId => exact absurd h (by simp [isEvent, Instr.pipe])
  case replayAsid => exact absurd h (by simp [isEvent, Instr.pipe])
  case replayDie => exact absurd h (by simp [isEvent, Instr.pipe])
  case overflowClear => exact absurd h (by simp [isEvent, Instr.pipe])
  case peerRequest => exact absurd h (by simp [isEvent, Instr.pipe])
  case hostAccess => exact absurd h (by simp [isEvent, Instr.pipe])
  case preempt => exact absurd h (by simp [isEvent, Instr.pipe])
  case preemptDeadline => exact absurd h (by simp [isEvent, Instr.pipe])
  case saveComplete => exact absurd h (by simp [isEvent, Instr.pipe])
  case contextRestore => exact absurd h (by simp [isEvent, Instr.pipe])
  case controlStoreReplace => exact absurd h (by simp [isEvent, Instr.pipe])
  case watchdogExpiry => exact absurd h (by simp [isEvent, Instr.pipe])
  case powerRecompute => exact absurd h (by simp [isEvent, Instr.pipe])
  case powercapWrite => exact absurd h (by simp [isEvent, Instr.pipe])
  case pcSample => exact absurd h (by simp [isEvent, Instr.pipe])
  case triggerLine => exact absurd h (by simp [isEvent, Instr.pipe])
  case hostStopRequest => exact absurd h (by simp [isEvent, Instr.pipe])
  case hostResume => exact absurd h (by simp [isEvent, Instr.pipe])
  case scrub => exact absurd h (by simp [isEvent, Instr.pipe])
  case retirementRequest => exact absurd h (by simp [isEvent, Instr.pipe])
  case securityVersionRaise => exact absurd h (by simp [isEvent, Instr.pipe])
  case moduleReset => exact absurd h (by simp [isEvent, Instr.pipe])
  case getVersion => exact absurd h (by simp [isEvent, Instr.pipe])
  case getCapabilities => exact absurd h (by simp [isEvent, Instr.pipe])
  case negotiateAlgorithms => exact absurd h (by simp [isEvent, Instr.pipe])
  case getCertificate => exact absurd h (by simp [isEvent, Instr.pipe])
  case challenge => exact absurd h (by simp [isEvent, Instr.pipe])
  case getMeasurements => exact absurd h (by simp [isEvent, Instr.pipe])
  case linkTraining => exact absurd h (by simp [isEvent, Instr.pipe])
  case portLinkChange => exact absurd h (by simp [isEvent, Instr.pipe])
  case registerWrite => exact absurd h (by simp [isEvent, Instr.pipe])
  case sluiceMap => exact absurd h (by simp [isEvent, Instr.pipe])

/-- The first trap is none when neither is. -/
theorem State.firstOf_none {a b : Option TrapInfo} : State.firstOf a b = none ↔ a = none ∧ b = none := by
  cases a <;> cases b <;> simp [State.firstOf]
  split <;> simp

/-- A word that no trap meets fails no check, ends within the code, and meets no fault of its own. -/
theorem State.trapOf_none {s : State} {i : Instr} :
    s.trapOf i = none ↔ s.screen i = none ∧ s.endTrap i = none ∧ s.faults i = none := by
  rw [State.trapOf, State.firstFault, State.firstOf_none, State.firstOf_none]

/-- A word that meets a trap takes it. -/
theorem exec_trap {s : State} {i : Instr} {ti : TrapInfo} (h : s.Settled) (hi : isEvent i = false)
    (ht : s.trapOf i = some ti) : exec i s = .next (s.takeTrap ti) := by
  obtain ⟨act, e⟩ := exec_issueWord s i hi
  rw [e]
  simp only [State.issueWord, State.interlock_settled h i, State.findFlaws_settled h i]
  rw [show s.firstFault i (fun s => s.faults i) = some ti from ht]

/-- A legal instruction word has passed the static checks. -/
theorem State.wf_of_screen {s : State} {i : Instr} (h : s.screen i = none) : i.wf = true := by
  simp only [State.screen] at h
  split at h
  · cases h
  · simp_all

end Sys2Proof.Machine
end

