-- ==== Sys2Proof/Tests/Slice0.lean ====
section
/-! SUPPORT. Tests: decodings written out from the spec's encodings, ill-formed words, and for each statement a state and operands that meet
its hypotheses. -/

namespace Sys2Proof.Tests

open Sys2Proof Sys2Proof.Machine

set_option Elab.async false

/-! ### Decoding -/

/-- A decoding gives an instruction, or refuses for a reason. -/
def reads (r : Except DecodeError Instr) (i : Instr) : Bool := match r with | .ok j => decide (j = i) | .error _ => false
def refuses (r : Except DecodeError Instr) (e : DecodeError) : Bool := match r with | .ok _ => false | .error f => decide (f = e)

/-- Every word of a list decodes, whatever follows it, to the instruction beside it. -/
def readsAs (l : List (Word × Instr)) : Bool := l.all fun x => reads (decode x.1 0 0) x.2

/-- Words laid out field by field from the rows of the opcode table, with a value of its own in every field. -/
theorem test_decode_words_1 : readsAs [
    (0x40000000, .nop ⟨false, 4⟩),
    (0x603223ED, .add ⟨false, 6, 4⟩ 34 15 45),
    (0xB052FCB6, .sub ⟨true, 3, 4⟩ 47 50 54),
    (0x906C6A27, .mul ⟨true, 1, 3⟩ 6 40 39),
    (0x50994885, .mulh ⟨false, 5, 6⟩ 20 34 5),
    (0x60B62F84, .fma ⟨false, 6, 5⟩ 34 62 4),
    (0x90D739FA, .min ⟨true, 1, 5⟩ 51 39 58),
    (0xD0F69D48, .max ⟨true, 5, 5⟩ 41 53 8),
    (0x21120200, .unopAbs ⟨false, 2, 4⟩ 32 8),
    (0x4111F401, .unopNeg ⟨false, 4, 4⟩ 31 16),
    (0x410EEBC2, .unopNabs ⟨false, 4, 3⟩ 46 47),
    (0x411ACF43, .unopSat ⟨false, 4, 6⟩ 44 61),
    (0xB11058C4, .unopNot ⟨true, 3, 4⟩ 5 35),
    (0x316EAE0F, .movi ⟨false, 3, 3⟩ 42 3599),
    (0x9184E140, .mov ⟨true, 1, 1⟩ 14 5),
    (0xD1A91072, .sel ⟨true, 5, 2⟩ 17 1 50),
    (0x31CA0327, .cmpEq ⟨false, 3, 2⟩ 4 12 39)] = true := by decide +kernel

theorem test_decode_words_2 : readsAs [
    (0xC1C99B26, .cmpNe ⟨true, 4, 2⟩ 3 44 38),
    (0x91D72E9E, .cmpLt ⟨true, 1, 5⟩ 6 58 30),
    (0x31D6B289, .cmpLe ⟨false, 3, 5⟩ 5 10 9),
    (0x41D9C30D, .cmpGt ⟨false, 4, 6⟩ 3 12 13),
    (0x61D6DB5E, .cmpGe ⟨false, 6, 5⟩ 5 45 30),
    (0x51D76D99, .cmpUnord ⟨false, 5, 5⟩ 6 54 25),
    (0xB1D2FAAA, .cmpOrd ⟨true, 3, 4⟩ 5 42 42),
    (0x51F5CAE6, .add64 ⟨false, 5, 5⟩ 28 43 38),
    (0xD2162570, .and ⟨true, 5, 5⟩ 34 21 48),
    (0x122A9817, .or ⟨false, 1, 2⟩ 41 32 23),
    (0x42568076, .xor ⟨false, 4, 5⟩ 40 1 54),
    (0xC26A1252, .andn ⟨true, 4, 2⟩ 33 9 18),
    (0xD28820FE, .shl ⟨true, 5, 2⟩ 2 3 62),
    (0xE2B07679, .shr ⟨true, 6, 4⟩ 7 25 57),
    (0x62D56BCD, .sar ⟨false, 6, 5⟩ 22 47 13),
    (0x22EE01B0, .rot ⟨false, 2, 3⟩ 32 6 48),
    (0x53146666, .shli ⟨false, 5, 5⟩ 6 25 38)] = true := by decide +kernel

theorem test_decode_words_3 : readsAs [
    (0xE333009D, .shri ⟨true, 6, 4⟩ 48 2 29),
    (0x4353750F, .sari ⟨false, 4, 4⟩ 55 20 15),
    (0xC36BB080, .bitsClz ⟨true, 4, 2⟩ 59 2),
    (0x43770301, .bitsPopc ⟨false, 4, 5⟩ 48 12),
    (0x237294C2, .bitsBrev ⟨false, 2, 4⟩ 41 19),
    (0x13708703, .bitsFfs ⟨false, 1, 4⟩ 8 28),
    (0x2365CE84, .bitsByterev ⟨false, 2, 1⟩ 28 58),
    (0x93D5C1CD, .dot4 ⟨true, 1, 5⟩ 28 7 13),
    (0x14179220, .fnRcp ⟨false, 1, 5⟩ 57 8 1),
    (0x140E0BA1, .fnRsq ⟨false, 1, 3⟩ 32 46 1),
    (0x94044522, .fnSqrt ⟨true, 1, 1⟩ 4 20 1),
    (0xC4076123, .fnExp2 ⟨true, 4, 1⟩ 54 4 1),
    (0x94084084, .fnLog2 ⟨true, 1, 2⟩ 4 2 0),
    (0xE4155705, .fnTanh ⟨true, 6, 5⟩ 21 28 0),
    (0x540CE5E6, .fnSigm ⟨false, 5, 3⟩ 14 23 1),
    (0xB436FA65, .fdiv ⟨true, 3, 5⟩ 47 41 37),
    (0x94476590, .fscale ⟨true, 1, 1⟩ 54 22 16)] = true := by decide +kernel

theorem test_decode_words_4 : readsAs [
    (0xA46B930F, .fcls ⟨true, 2, 2⟩ 57 12 15),
    (0xD494F152, .cvt ⟨true, 5, 5⟩ 15 5 1 2),
    (0xB4B278CA, .tag ⟨true, 3, 4⟩ 39 35 10),
    (0xB4DA6742, .qblk ⟨true, 3, 6⟩ 38 29 2),
    (0xA4F5FD1C, .unpb ⟨true, 2, 5⟩ 31 52 28),
    (0x4513E042, .frnd ⟨false, 4, 4⟩ 62 1 2),
    (0x5619860C, .shfli ⟨false, 5, 6⟩ 24 24 12),
    (0xD6390A54, .shflx ⟨true, 5, 6⟩ 16 41 20),
    (0x5653684F, .shflu ⟨false, 5, 4⟩ 54 33 15),
    (0xA67A225E, .shfld ⟨true, 2, 6⟩ 34 9 30),
    (0x9690C100, .ballot ⟨true, 1, 4⟩ 12 4),
    (0x96A68180, .voteAny ⟨true, 1, 1⟩ 5 6),
    (0x56A60041, .voteAll ⟨false, 5, 1⟩ 4 1),
    (0xD6B98C02, .voteUni ⟨true, 5, 6⟩ 3 48),
    (0x96D18100, .matchEq ⟨true, 1, 4⟩ 24 4),
    (0x96EE7C40, .redSum ⟨true, 1, 3⟩ 39 49),
    (0xC6EB6F81, .redEsum ⟨true, 4, 2⟩ 54 62)] = true := by decide +kernel

theorem test_decode_words_5 : readsAs [
    (0x16F61AC2, .redMin ⟨false, 1, 5⟩ 33 43),
    (0xC6EA9E83, .redMax ⟨true, 4, 2⟩ 41 58),
    (0xC6F4C6C4, .redAnd ⟨true, 4, 5⟩ 12 27),
    (0xC6E447C5, .redOr ⟨true, 4, 1⟩ 4 31),
    (0x46E87AC6, .redXor ⟨false, 4, 2⟩ 7 43),
    (0x1714A440, .scanSum ⟨false, 1, 5⟩ 10 17 0),
    (0x57190E49, .scanMin ⟨false, 5, 6⟩ 16 57 1),
    (0x171594C2, .scanMax ⟨false, 1, 5⟩ 25 19 0),
    (0x472C93F9, .bcast ⟨false, 4, 3⟩ 9 15 57),
    (0x5740434A, .qopAnd ⟨false, 5⟩ 4 13 10),
    (0xD7403255, .qopOr ⟨true, 5⟩ 3 9 5),
    (0x17405062, .qopXor ⟨false, 1⟩ 5 1 2),
    (0xB740B075, .qopAndn ⟨true, 3⟩ 11 1 5),
    (0xA740668B, .qopOrn ⟨true, 2⟩ 6 10 11),
    (0x47402656, .qopXnor ⟨false, 4⟩ 2 9 6),
    (0xD740B6E0, .qopMov ⟨true, 5⟩ 11 11),
    (0xC740D570, .qopNot ⟨true, 4⟩ 13 5)] = true := by decide +kernel

theorem test_decode_words_6 : readsAs [
    (0xC740A908, .qopLsb ⟨true, 4⟩ 10 4 8),
    (0xC7407ADD, .qopClrlsb ⟨true, 4⟩ 7 11 13),
    (0x47609FBA, .qi ⟨false, 4⟩ 9 4026),
    (0x3780B280, .qvToVector ⟨false, 3⟩ 11 10),
    (0x17805A01, .qvToMask ⟨false, 1⟩ 5 40),
    (0x37A88140, .pqToPredicate ⟨false, 3, 2⟩ 1 5),
    (0x47A45181, .pqToMask ⟨false, 4, 1⟩ 5 6),
    (0x47CCF926, .compose ⟨false, 4, 3⟩ 15 36 38),
    (0x48143FE2, .bra ⟨false, 4, 5⟩ 16354),
    (0x28200000, .join ⟨false, 2⟩),
    (0x584C0340, .brx ⟨false, 5, 3⟩ 13),
    (0xA876F6F4, .call ⟨true, 2, 5⟩ 5 30452),
    (0xC8860B80, .callx ⟨true, 4, 1⟩ 4 46),
    (0xA8A00000, .ret ⟨true, 2⟩),
    (0x48E00080, .vqual ⟨false, 4⟩ 2),
    (0x69000000, .regang ⟨false, 6⟩),
    (0x49380000, .exit ⟨false, 4, 6⟩)] = true := by decide +kernel

theorem test_decode_words_7 : readsAs [
    (0x49540B81, .trap ⟨false, 4, 5⟩ 2945),
    (0xE9600000, .rft ⟨true, 6⟩),
    (0xD9800CF8, .region ⟨true, 5⟩ 3320),
    (0xE9C00002, .rolesw ⟨true, 6⟩ 2),
    (0xB9E00000, .stage ⟨true, 3⟩),
    (0x5A000A00, .sleep ⟨false, 5⟩ 40),
    (0xEA01ED81, .sleepC ⟨true, 6⟩ 30 54),
    (0x2A215380, .wait ⟨false, 2⟩ 21 14),
    (0x5A200C41, .waitCnt ⟨false, 5⟩ 49),
    (0x5A73D34C, .csrr ⟨false, 5, 4⟩ 61 844),
    (0x3A807469, .csrw ⟨false, 3⟩ 7 1129),
    (0x6AA00000, .stepend ⟨false, 6⟩),
    (0xDAC4086D, .qpush ⟨true, 5, 1⟩ 33 5 5),
    (0xCAF0C01D, .qpop ⟨true, 4, 4⟩ 12 3 5),
    (0xDB0005C4, .segwBase ⟨true, 5⟩ 23 4),
    (0x6B00024D, .segwLimit ⟨false, 6⟩ 9 5),
    (0x2B37D005, .segrBase ⟨false, 2, 5⟩ 61 5)] = true := by decide +kernel

theorem test_decode_words_8 : readsAs [
    (0x1B2BC00B, .segrLimit ⟨false, 1, 2⟩ 60 3),
    (0xBB400100, .tlbi ⟨true, 3⟩ 4),
    (0x4B400301, .tlbiAsid ⟨false, 4⟩ 12),
    (0xBB400002, .tlbiAll ⟨true, 3⟩),
    (0xDB600120, .mcsld ⟨true, 5⟩ 4 32),
    (0x4B800809, .dbrk ⟨false, 4⟩ 2057),
    (0x3BA00E04, .pause ⟨false, 3⟩ 3588),
    (0x6C0DBD2E, .ldb ⟨false, 6, 3⟩ 27 52 5 6),
    (0x4C304E4D, .ldh ⟨false, 4, 4⟩ 4 57 1 5),
    (0xDC560FB2, .ldw ⟨true, 5, 5⟩ 32 62 6 2),
    (0xCC6668EB, .ldd ⟨true, 4, 1⟩ 38 35 5 3),
    (0x4C9287EE, .ldc ⟨false, 4, 4⟩ 40 31 6),
    (0xECB76BA4, .ldt ⟨true, 6, 5⟩ 54 46 4 4),
    (0xDCD779E8, .stb ⟨true, 5, 5⟩ 55 39 5),
    (0xBCF68C60, .sth ⟨true, 3, 5⟩ 40 49 4),
    (0xCD0BD5E0, .stw ⟨true, 4, 2⟩ 61 23 4),
    (0x4D39CF58, .std ⟨false, 4, 6⟩ 28 61 3)] = true := by decide +kernel

theorem test_decode_words_9 : readsAs [
    (0x5D476930, .atomAdd ⟨false, 5, 1⟩ 54 36 6),
    (0x3D4EC1E1, .atomMin ⟨false, 3, 3⟩ 44 7 4),
    (0xCD4A615A, .atomMax ⟨true, 4, 2⟩ 38 5 3),
    (0x5D57D8AB, .atomAnd ⟨false, 5, 5⟩ 61 34 5),
    (0xDD55182C, .atomOr ⟨true, 5, 5⟩ 17 32 5),
    (0x6D5B292D, .atomXor ⟨false, 6, 6⟩ 50 36 5),
    (0x4D47ADD6, .atomExch ⟨false, 4, 1⟩ 58 55 2),
    (0x2D4B07D7, .atomAddwrap ⟨false, 2, 2⟩ 48 31 2),
    (0x5D726EA8, .cas ⟨false, 5, 4⟩ 38 58 5),
    (0xCD91B9F0, .asum ⟨true, 4, 4⟩ 27 39 6),
    (0xCDB197A0, .srd ⟨true, 4, 4⟩ 25 30 4),
    (0x9DC00000, .fenceAcq ⟨true, 1⟩),
    (0xCDC00001, .fenceRel ⟨true, 4⟩),
    (0x2DC00002, .fenceAcqrel ⟨false, 2⟩),
    (0x9DC00043, .fencePath ⟨true, 1⟩ 1),
    (0xCDC00004, .fenceEng ⟨true, 4⟩),
    (0xBE02D7C8, .kick ⟨true, 3⟩ 45 31 8)] = true := by decide +kernel

theorem test_decode_words_10 : readsAs [
    (0x5E205340, .binit ⟨false, 5⟩ 5 13),
    (0x3E4130BE, .barr ⟨false, 3⟩ 19 2 62),
    (0x3E61170D, .btest ⟨false, 3⟩ 17 28 13),
    (0xCE800640, .trst ⟨true, 4⟩ 25),
    (0xDEB33244, .legal ⟨true, 5, 4⟩ 51 9 4),
    (0xCED2E268, .dist ⟨true, 4, 4⟩ 46 9 40),
    (0x4EEBDE76, .topk ⟨false, 4, 2⟩ 61 57 54),
    (0x5F0C7619, .rng ⟨false, 5, 3⟩ 7 24 1 9),
    (0xDF200C70, .sload ⟨true, 5⟩ 49 48),
    (0x9F40073C, .nsend ⟨true, 1⟩ 28 60),
    (0xDF6F8AC5, .mfrd ⟨true, 5, 3⟩ 56 43 5),
    (0x2F97DD74, .mfwr ⟨false, 2, 5⟩ 61 53 52),
    (0xCFB4B700, .mfopAppend ⟨true, 4, 5⟩ 11 28),
    (0x6FAAB781, .mfopRollback ⟨false, 6, 2⟩ 43 30),
    (0x6FB3AD82, .mfopFinish ⟨false, 6, 4⟩ 58 54),
    (0xDFB0F943, .mfopFault ⟨true, 5, 4⟩ 15 37)] = true := by decide +kernel
/-- The words that the spec writes out itself (R41, R85, R88–R92, R97, R99, R104, R107, R119, R134–R141, R151, R152, R157, R170–R176, R184–R193,
R197, R199). -/
theorem test_decode_spec_words : readsAs [
    (0x30000000, .nop ⟨false, 3⟩), (0x8020C24A, .add ⟨true, 0, 0⟩ 12 9 10), (0x0C41454B, .ldw ⟨false, 0, 0⟩ 20 21 1 3),
    (0x00A0E314, .fma ⟨false, 0, 0⟩ 14 12 20), (0x00A18516, .fma ⟨false, 0, 0⟩ 24 20 22), (0x0161EFFF, .movi ⟨false, 0, 0⟩ 30 (-1)),
    (0x01A90452, .sel ⟨false, 0, 2⟩ 16 17 18), (0x01C1A24A, .cmpLt ⟨false, 0, 0⟩ 3 9 10), (0x0807FFFA, .bra ⟨false, 0, 1⟩ (-6)),
    (0x08200000, .join ⟨false, 0⟩), (0x0861001E, .call ⟨false, 0, 0⟩ 2 30), (0x08A00000, .ret ⟨false, 0⟩), (0x09000000, .regang ⟨false, 0⟩),
    (0x09200000, .exit ⟨false, 0, 0⟩), (0x0A00EA01, .sleepC ⟨false, 0⟩ 14 40), (0x0C41E582, .ldw ⟨false, 0, 0⟩ 30 22 0 2),
    (0x0C009221, .ldb ⟨false, 0, 0⟩ 9 8 4 1), (0x0D015500, .stw ⟨false, 0, 0⟩ 21 20 0), (0x0D40C248, .atomAdd ⟨false, 0, 0⟩ 12 9 1),
    (0x0D814550, .asum ⟨false, 0, 0⟩ 20 21 2), (0x0DC00002, .fenceAcqrel ⟨false, 0⟩), (0x0DC00043, .fencePath ⟨false, 0⟩ 1),
    (0x0E02830D, .kick ⟨false, 0⟩ 40 12 13), (0x0E20E440, .binit ⟨false, 0⟩ 14 17), (0x0E40E3D0, .barr ⟨false, 0⟩ 14 15 16),
    (0x0EC1060C, .dist ⟨false, 0, 0⟩ 16 24 12), (0x0EE12411, .topk ⟨false, 0, 0⟩ 18 16 17), (0x0F014243, .rng ⟨false, 0, 0⟩ 20 9 0 3),
    (0x0F609202, .mfrd ⟨false, 0, 0⟩ 9 8 2), (0x0FA4A200, .mfopAppend ⟨false, 0, 1⟩ 10 8), (0x0400E361, .fnRsq ⟨false, 0, 0⟩ 14 13 1),
    (0x04C14281, .qblk ⟨false, 0, 0⟩ 20 10 1)] = true := by decide +kernel

/-- The owners of literals, as the spec writes them out (R87, R88, R99, R100, R141, R146, R157). -/
theorem test_decode_literals :
    reads (decode 0x1140E003 0x3F800000 0) (.movl ⟨false, 1, 0⟩ 14 3 0x3F800000) = true ∧
    reads (decode 0x0380C248 4 0) (.bfx ⟨false, 0, 0⟩ 12 9 8 4) = true ∧
    reads (decode 0b0_000_0011101_000_001100_001001_001000 4 0) (.bfi ⟨false, 0, 0⟩ 12 9 8 4) = true ∧
    reads (decode 0b0_000_0001001_010_000011_000100_000000 0xFFFFFFFF 0) (.addl ⟨false, 0, 2⟩ 3 4 0xFFFFFFFF) = true ∧
    reads (decode 0x0A40524A 0x2CC00000 0) (.macroOp ⟨false, 0⟩ 5 9 10 11 12) = true ∧
    reads (decode 0x08C1279F 0x40000010 0) (.callv ⟨false, 0, 0⟩ 2 2 30 31 2 0x10) = true ∧
    reads (decode 0b0_000_1001101_000_000000_000111_000000 0x0000000F 0x80000000) (.hint ⟨false, 0⟩ 7 0x0000000F 0x80000000) = true := by
  decide +kernel

/-- Reserved opcodes, function codes that no row defines, and fields that must be zero are refused (R64, R65). -/
theorem test_decode_refuses :
    ([0x1F, 0x29, 0x2F, 0x3F, 0x5E, 0x5F, 0x6F, 0x7E, 0x7F].all fun o : Nat => refuses (decode (BitVec.ofNat 32 (o * 2 ^ 21)) 0 0) .reservedOpcode) = true ∧
    refuses (decode 0x00000001 0 0) .undefinedForm = true ∧ refuses (decode 0x08200001 0 0) .undefinedForm = true ∧
    refuses (decode 0b0_000_0001000_000_000001_000010_111111 0 0) .undefinedForm = true := by decide +kernel

/-- Bytes are taken least significant first, and too few are refused (R4, R35). -/
theorem test_decode_bytes :
    (decodeBytes [0x4A, 0xC2, 0x20, 0x80, 7]).toOption = some (.add ⟨true, 0, 0⟩ 12 9 10, [7]) ∧
    (decodeBytes [0x4A, 0xC2, 0x20]).toOption = none ∧
    decodeTableWord 32 0x8020C24A = some (.add ⟨true, 0, 0⟩ 12 9 10) := by decide +kernel

/-! ### Ill-formed words -/

/-- A header without chain, stall or guard. -/
def h0 : Hdr := ⟨false, 0, 0⟩
def z0 : Hd0 := ⟨false, 0⟩

/-- One ill-formed word for each check, each refused (R49, R50, R53, R59, R64, R88, R97, R99, R100, R109, R137, R141, R150, R158, R188, R191,
R196). -/
theorem test_ill_formed_words : (([
    .movl h0 1 15 0, .tag h0 1 2 15, .sel h0 1 2 3, .add64 h0 1 2 4, .add64 h0 2 1 4, .add64 h0 2 4 1, .shli h0 1 2 32, .shri h0 1 2 32,
    .sari h0 1 2 63, .bfx h0 1 2 0 0, .bfx h0 1 2 0 33, .bfx h0 1 2 31 2, .bfx h0 1 2 32 1, .bfi h0 1 2 0 64, .bfi h0 1 2 30 3,
    .cvt h0 1 2 0 0, .cvt h0 1 2 0 11, .qblk h0 1 2 0, .qblk h0 2 2 3, .unpb h0 1 3 0, .unpb h0 1 2 3, .redEsum h0 1 2, .call h0 0 0,
    .call h0 7 0, .callx h0 0 1, .callx h0 7 1, .callv h0 0 0 0 0 0 0, .callv h0 7 0 0 0 0 0, .callv h0 1 7 0 0 0 0, .callv h0 1 0 0 0 4 0,
    .sleep z0 1, .sleepC z0 0 1, .csrr h0 1 0x009, .csrr h0 1 0x019, .csrr h0 1 0x025, .csrr h0 1 0x048, .csrr h0 1 0x051, .csrr h0 1 0x080,
    .csrw z0 1 0x010, .csrw z0 1 0x023, .csrw z0 1 0x060, .qpush h0 2 0 0, .qpop h0 6 0 0, .segwBase z0 1 0, .segwBase z0 2 6,
    .segwLimit z0 2 7, .segrBase h0 1 0, .segrLimit h0 2 6, .tlbi z0 1, .mcsld z0 1 0, .ldb h0 1 2 5 0, .ldb h0 1 3 7 0, .ldb h0 1 2 0 3,
    .ldh h0 1 2 6 0, .ldh h0 1 2 0 3, .ldw h0 1 2 5 0, .ldd h0 1 2 0 0, .ldd h0 2 1 7 0, .ldt h0 1 2 4 0, .stb h0 1 2 5, .sth h0 1 1 7,
    .stw h0 1 2 6, .std h0 1 2 0, .std h0 2 2 5, .atomAdd h0 1 2 5, .atomMin h0 1 3 7, .atomMax h0 1 2 6, .atomAnd h0 1 2 5, .atomOr h0 1 2 5,
    .atomXor h0 1 2 5, .atomExch h0 1 2 5, .atomAddwrap h0 1 2 5, .cas h0 1 2 0, .cas h0 2 2 5, .asum h0 1 2 5, .srd h0 1 2 6, .kick z0 1 2 3,
    .btest z0 1 2 5, .dist h0 1 2 3, .topk h0 1 2 3, .mfrd h0 1 2 19, .mfrd h0 1 2 31, .mfwr h0 1 2 48] : List Instr).all
      fun i => !i.wf) = true := by decide +kernel

/-- The same words just inside each check are legal. -/
theorem test_well_formed_words : (([
    .movl h0 1 14 0, .tag h0 1 2 14, .sel ⟨false, 0, 1⟩ 1 2 3, .add64 h0 62 2 4, .shli h0 1 2 31, .bfx h0 1 2 0 32, .bfi h0 1 2 31 1,
    .cvt h0 1 2 0 1, .cvt h0 1 2 0 10, .qblk h0 2 2 2, .unpb h0 1 2 2, .call h0 1 0, .call h0 6 0, .callv h0 6 6 0 0 3 0, .csrr h0 1 0x07F,
    .csrr h0 1 0x050, .csrw z0 1 0x018, .csrw z0 1 0x047, .qpush h0 60 0 0, .segwLimit z0 2 5, .ldb h0 1 2 7 2, .ldt h0 1 2 3 15,
    .stw h0 1 2 4, .btest z0 1 2 4, .dist h0 1 4 3, .mfrd h0 1 2 18, .mfwr h0 1 2 32, .mfwr h0 1 2 47] : List Instr).all
      fun i => i.wf) = true := by decide +kernel

/-- Events that name a unit the module does not have are ill-formed (R3, R200, R321, R348, R398). -/
theorem test_ill_formed_events : (([
    .breakpointStop 0 8, .sleepWake 0 8, .waitRelease 0 8, .pauseEnd 0 8, .engineQueueRoom 0 8, .fenceEngJoin 0 8, .moveRegister 0 8,
    .moveAtomic 0 8, .moveReleaseComplete 0 8, .moveWriteBack 4 0, .moveFill 0 65536 0, .messageArrival 65536 0 0 [], .barrierDeadlock 0 2048,
    .towSpill 0 8, .towRefill 0 8, .compaction 0 4, .sluiceDoorbell 64 0, .sluiceLaunch 64, .sluiceWait 64, .sluiceSignal 64, .sluiceArm 64,
    .sluiceDisarm 64, .semaphoreRetest 64, .sluiceErrorClear 64, .lockEnable 8 0, .lockDisable 8, .subtailWrite 8 0, .stepFinished 8,
    .lockRetire 8, .lockReserve 8, .lockAdmit 8, .lockPublish 8, .lockPush 8, .invalidatePage 0 65536, .invalidateAsid 65536,
    .replayParkId 4 0 true, .replayAsid 4 0 true, .replayAsid 0 65536 true, .replayDie 4 true, .overflowClear 4, .peerRequest 0 65536 0 true [],
    .preempt 65536, .contextRestore 65536, .watchdogExpiry 65536, .triggerLine 8, .scrub 4 1 0 0 0, .scrub 0 0 0 0 0, .scrub 0 9 0 0 0,
    .scrub 0 1 8 0 0, .getMeasurements 0, .getMeasurements 8, .portLinkChange 8 true 0, .sluiceMap 64 true] : List Instr).all
      fun i => !i.wf) = true := by decide +kernel

/-! ### States for the witnesses -/

/-- A register with one word in every lane, under a tag. -/
def reg1 (v : Nat) (t : Tag) : Reg :=
  { Reg.zero with l0 := BitVec.ofNat 32 v, l1 := BitVec.ofNat 32 v, l2 := BitVec.ofNat 32 v, l3 := BitVec.ofNat 32 v, tag := t }

/-- Registers of every kind that the words below ask for. -/
def regs1 : FMap Reg :=
  [(1, reg1 3 .i32), (2, reg1 5 .i32), (3, reg1 7 .i32), (4, reg1 0 .u32), (5, reg1 2 .u32), (6, reg1 0x3F800000 .f32),
   (7, reg1 0x40000000 .f32), (8, reg1 0 .f32), (9, reg1 0 .u32), (10, reg1 0x40 .a64), (11, reg1 0 .a64), (16, reg1 0x01020304 .i8x4), (17, reg1 0x01020304 .i8x4),
   (20, reg1 0 .idx), (22, reg1 0 .blk), (23, reg1 0 .scl)]

/-- A slice of four live lanes at word 0. -/
def slice1 : Slice := { Slice.blank with mask := 15, live := 15, stream := 1, regs := regs1 }

/-- A gang with that one slice. -/
def gang1 : Gang := { residentGang with slices := [(0, slice1)], preds := [(1, 0b0101), (2, 0)] }

/-- The module with that gang, in a mapped gigabyte. -/
def base1 : State := { State.reset.withResident [] with gangs := [(0, gang1)] }

/-- The issue of one word by its slice. -/
def issue1 : Issue := { Issue.idle with gang := 0, slices := [0], next := 1 }

/-- The slice is about to issue. -/
def about (s : State) : State := { s with cur := issue1 }
def s1 : State := about base1

/-- A change of the slice, and of the gang. -/
def withSlice (s : State) (f : Slice → Slice) : State := s.modSlice 0 0 f
def withGang (s : State) (f : Gang → Gang) : State := s.modGang 0 f

/-- Every word of a list has what `f` asks of it and is met by no trap. -/
def ready {α : Type} (s : State) (f : State → Instr → Option α) (l : List Instr) : Bool :=
  l.all fun i => (f s i).isSome && (s.trapOf i).isNone

/-- What `Settled` asks of a state whose issue is `issue1`, as a test. -/
def settles (s : State) : Bool :=
  decide (s.cur = issue1) && decide (s.gangs.find 0 = some s.me) && decide (s.me.slices.find 0 = some (s.sl 0)) &&
    decide (s.me.slices.keys.Nodup) && decide ((s.sl 0).live ≠ 0) && decide ((s.sl 0).park = none) && decide ((s.sl 0).wait = none) &&
    decide ((s.sl 0).macroAt = none) && decide ((s.sl 0).flights = []) && decide ((s.sl 0).pend.all (fun p => !p.isRmw) = true) &&
    decide (64 ≤ s.me.allot) && decide (∀ r ∈ (s.sl 0).regs, r.2.flaw = 0)

/-- Registers without an error give none at any index. -/
theorem sound_of : ∀ m : FMap Reg, (∀ r ∈ m, r.2.flaw = 0) → ∀ st, (m.getOr st Reg.zero).flaw = 0
  | [], _, _ => rfl
  | (j, v) :: m, h, st => by
    have ih := sound_of m (fun r hr => h r (List.mem_cons_of_mem _ hr)) st
    have hv := h (j, v) List.mem_cons_self
    simp only [FMap.getOr, FMap.find] at ih ⊢
    split
    · exact hv
    · exact ih

theorem settled (s : State) (h : settles s = true) : s.Settled := by
  simp only [settles, Bool.and_eq_true, decide_eq_true_eq] at h
  obtain ⟨⟨⟨⟨⟨⟨⟨⟨⟨⟨⟨hc, hg⟩, hs⟩, hk⟩, hl⟩, hp⟩, hw⟩, hm⟩, hf⟩, hq⟩, ha⟩, hz⟩ := h
  exact {
    gang := by rw [hc]; exact hg
    slices := by rw [hc]; decide
    keys := hk
    nodup := by rw [hc]; decide
    bound := by rw [hc]; decide
    live := by rw [hc]; simpa [issue1] using hl
    here := by rw [hc]; simpa [issue1] using hs
    park := by rw [hc]; simpa [issue1] using hp
    wait := by rw [hc]; simpa [issue1] using hw
    alone := by rw [hc]; simpa [issue1] using hm
    flights := by rw [hc]; simpa [issue1] using hf
    quiet := by rw [hc]; simpa [issue1] using hq
    sound := by
      rw [hc]
      intro k hk st
      obtain rfl : k = 0 := by simpa [issue1] using hk
      unfold State.stored
      exact sound_of _ hz st
    allot := ha
    view := by rw [hc]; rfl
    olds := by rw [hc]; rfl
    raised := by rw [hc]; rfl
    replay := by rw [hc]; rfl
    macroOp := by rw [hc]; rfl }

/-- What `MayEnter` asks, as a test. -/
def mayEnter (s : State) (ti : TrapInfo) : Bool :=
  (ti.who.map TrapSlice.slice ++ s.entering ti).all fun k => decide (State.refusedEntry s.me (ti.own k).isSome (s.sl k) = none)

theorem mayEnter_of {s : State} {ti : TrapInfo} (h : mayEnter s ti = true) : s.MayEnter ti := by
  simp only [mayEnter, List.all_eq_true, decide_eq_true_eq, List.mem_append] at h
  exact fun k hk => h k hk

theorem trap_of {s : State} {i : Instr} (h : ((s.trapOf i).any (mayEnter s)) = true) : ∃ ti, s.trapOf i = some ti ∧ s.MayEnter ti := by
  cases ht : s.trapOf i with
  | none => rw [ht] at h; cases h
  | some ti => rw [ht] at h; exact ⟨ti, rfl, mayEnter_of h⟩

/-! ### Register words -/

theorem witness_ArithmeticAndLogicDeliver : s1.Settled ∧
    ready s1 State.arithResults [.add h0 1 2 3, .sub h0 1 2 3, .mul h0 1 6 7, .mulh h0 1 2 3, .fma h0 1 2 3, .min h0 1 2 3, .max h0 1 6 7,
      .unopAbs h0 1 2, .unopNeg h0 1 2, .unopNabs h0 1 6, .unopSat h0 1 6, .unopNot h0 1 2, .addl h0 1 2 9, .movl h0 1 14 9, .movi h0 1 (-1),
      .mov h0 1 2, .sel ⟨false, 0, 1⟩ 1 2 3, .add64 h0 12 10 10, .dot4 h0 1 16 17] = true ∧
    ready s1 State.logicResults [.and h0 1 2 3, .or h0 1 2 4, .xor h0 1 2 3, .andn h0 1 2 3, .shl h0 1 2 5, .shr h0 1 4 5, .sar h0 1 2 5,
      .rot h0 1 2 5, .shli h0 1 2 31, .shri h0 1 2 0, .sari h0 1 2 3, .bitsClz h0 1 2, .bitsPopc h0 1 2, .bitsBrev h0 1 2, .bitsFfs h0 1 2,
      .bitsByterev h0 1 2, .bfx h0 1 2 0 32, .bfi h0 1 2 31 1] = true := ⟨settled _ (by decide +kernel), by decide +kernel⟩

theorem witness_ShiftsFillOrRotate : s1.Settled ∧ ready s1 (fun _ => shiftOf) [.shl h0 1 2 5, .shr h0 1 4 5, .sar h0 1 2 5, .rot h0 1 2 5] = true ∧
    (s1.formatFault (.shl h0 1 6 5)).isSome = true ∧ s1.tagOf 0 6 = .f32 := ⟨settled _ (by decide +kernel), by decide +kernel⟩

theorem witness_ConversionsDeliver : s1.Settled ∧ ready s1 State.convertResults [.fnRcp h0 1 6 0, .fnRsq h0 1 6 1, .fnSqrt h0 1 6 0,
    .fnExp2 h0 1 6 0, .fnLog2 h0 1 6 0, .fnTanh h0 1 6 0, .fnSigm h0 1 6 0, .fdiv h0 1 6 7, .fscale h0 1 6 2, .fcls h0 1 6 63, .cvt h0 24 6 0 1,
    .tag h0 1 2 0, .qblk h0 24 6 0, .unpb h0 24 22 0, .frnd h0 1 6 3] = true := ⟨settled _ (by decide +kernel), by decide +kernel⟩

theorem witness_LanesDeliver : s1.Settled ∧ ready s1 State.laneResults [.shfli h0 1 2 4, .shflx h0 1 2 3, .shflu h0 1 2 1, .shfld h0 1 2 1,
    .bcast h0 1 2 4, .matchEq h0 1 2, .redSum h0 1 2, .redEsum h0 24 2, .redMin h0 1 2, .redMax h0 1 6, .redAnd h0 1 2, .redOr h0 1 2,
    .redXor h0 1 2, .scanSum h0 1 2 0, .scanMin h0 1 2 1, .scanMax h0 1 2 0, .compose h0 1 20 20, .qvToVector z0 1 3, .topk h0 8 6 4,
    .segrBase h0 24 0, .segrLimit h0 24 5] = true ∧ s1.trapOf (.rng h0 1 4 3 15) = none := ⟨settled _ (by decide +kernel), by decide +kernel⟩

/-- The slice with no active lane. -/
def idle1 : State := withSlice s1 fun x => { x with mask := 0 }

theorem witness_PredicatesAndMasksAreSet : s1.Settled ∧ idle1.Settled ∧ ready s1 State.predResults [.cmpEq h0 1 2 3, .cmpNe h0 7 2 3,
    .cmpLt h0 1 2 3, .cmpLe h0 1 6 7, .cmpGt h0 1 2 3, .cmpGe h0 1 2 3, .cmpUnord h0 1 6 7, .cmpOrd h0 1 6 7, .voteAny h0 1 2, .voteAll h0 1 2,
    .voteUni h0 0 2, .pqToPredicate h0 2 3] = true ∧
    ready s1 State.maskResults [.ballot h0 15 1, .qopAnd z0 1 2 3, .qopOr z0 1 2 3, .qopXor z0 1 2 3, .qopAndn z0 1 2 3, .qopOrn z0 1 2 3,
      .qopXnor z0 1 2 3, .qopMov z0 1 2, .qopNot z0 1 2, .qopLsb z0 1 2 0, .qopClrlsb z0 1 2 0, .qi z0 2 (-1), .qvToMask z0 1 4,
      .pqToMask h0 1 1] = true ∧
    idle1.lowest 0 = none ∧ idle1.trapOf (.qvToMask z0 1 4) = none :=
  ⟨settled _ (by decide +kernel), settled _ (by decide +kernel), by decide +kernel⟩

theorem witness_ElementsAreExact : fmtOf .i8x4 = none ∧ 3 < nelem .i8x4 ∧ (fmtF32.decode 0x7F800001).isNan = true ∧
    (fmtF32.decode 0x7F800000).isNan = false ∧ (fmtF32.decode 0xFFFFFFFF).isNan = true := by decide +kernel

theorem witness_BitsAreCountedAndPlaced : 0 < 1 ∧ 31 + 1 ≤ 32 ∧ 0 < 32 ∧ 0 + 32 ≤ 32 := by decide

/-! ### Checks and traps -/

/-- No privilege, the scoreboard checked, a result under way in v1, and a poisoned v2. -/
def worker1 : State := withGang s1 fun y => { y with system := false }
def checked1 : State :=
  withSlice (withGang s1 fun y => { y with schk := true }) fun x => { x with flights := [⟨.v 1, 100, Reg.zero, 15⟩] }
def poisoned1 : State := withSlice s1 fun x => { x with regs := x.regs.put 2 { reg1 5 .i32 with poison := 8 } }

theorem witness_ChecksRank : (Instr.movl h0 1 15 0).wf = false ∧ s1.valueIllegal (.macroOp z0 0 0 0 0 0) = true ∧
    worker1.mayRun (.segwBase z0 10 0) = false ∧ (checked1.me.schk && checked1.early (.add h0 1 2 3)) = true ∧
    (s1.formatFault (.add h0 1 2 6)).isSome = true ∧ poisoned1.formatFault (.add h0 1 2 3) = none ∧
    (poisoned1.poisonFault (.add h0 1 2 3)).isSome = true ∧ s1.poisonFault (.add h0 1 2 3) = none := by decide +kernel

/-- A gang without a handler, one of the smallest allotment, and one without room in the TOW; a slice in a handler that holds its reserve or
not, with so many levels open. -/
def unhandled1 : State := withGang s1 fun y => { y with handler := 0xFFFFFFFF }
def small1 : State := withGang s1 fun y => { y with allot := 64 }
def towless1 : State := withGang s1 fun y => { y with towSize := 0 }
def levels1 (n : Nat) (held : Bool) : State :=
  withSlice s1 fun x => { x with
    levels := List.replicate n ⟨0, 0, none, none, 2, false, none, false, [], 0, [], none⟩, reserve := held }

/-- The state is about to issue, and a trap that is met names its slice 0. -/
def meets (s : State) : Bool := settles s && decide (s.me.stop = none) &&
  ((s.trapOf (.add h0 1 2 6)).bind fun ti => ti.who.head?.map TrapSlice.slice) == some 0

theorem witness_TrapsAreTakenOrStop : s1.Settled ∧ (∃ ti, s1.trapOf (.add h0 1 2 6) = some ti ∧ s1.MayEnter ti) ∧
    [unhandled1, small1, towless1, levels1 1 false, levels1 4 true].all meets = true ∧
    RefusedWith small1.me (small1.sl 0) 4 ∧ RefusedWith unhandled1.me (unhandled1.sl 0) 7 ∧
    RefusedWith (levels1 1 false).me ((levels1 1 false).sl 0) 5 ∧ RefusedWith (levels1 4 true).me ((levels1 4 true).sl 0) 11 ∧
    RefusedWith towless1.me (towless1.sl 0) 5 :=
  ⟨settled _ (by decide +kernel), trap_of (by decide +kernel), by decide +kernel, .inl (by decide +kernel),
    .inr (.inl (by decide +kernel)), .inr (.inr (.inl (by decide +kernel))), .inr (.inr (.inr (.inl (by decide +kernel)))),
    .inr (.inr (.inr (.inr (by decide +kernel))))⟩
/-! ### A module with something in every unit -/

/-- Fields placed in memory, each at its offset with the bytes its value takes. -/
def put (m : List Host.Cell) (k : Nat) (l : List (Nat × Nat)) : List Host.Cell :=
  l.foldl (fun m x => Memory.writeLE m (k + x.1) (if x.2 < 2 ^ 8 then 1 else if x.2 < 2 ^ 16 then 2 else if x.2 < 2 ^ 32 then 4 else 8) x.2) m

/-- A record placed in device memory, and in the Basin of core 0. -/
def inDev (s : State) (a : Nat) (l : List (Nat × Nat)) : State := { s with mem := put s.mem (keyAt devSpace 0 a) l }
def inBasin (s : State) (a : Nat) (l : List (Nat × Nat)) : State := { s with mem := put s.mem (keyAt basinSpace 0 a) l }

/-- Offsets, counts and barriers in registers; a barge, a Trestle command, a drive read, a message, a legality table and a query in the
Basin; barrier 5 armed with a byte and two arrivals to come; drive 0; a Lock with four manifests. -/
def s2 : State :=
  let s := withSlice s1 fun x => { x with
    regs := regs1 ++ [(30, reg1 0x100 .u32), (31, reg1 0x200 .u32), (32, reg1 0x240 .u32), (33, reg1 0x300 .u32), (34, reg1 1 .u32),
      (35, reg1 0 .u32), (36, reg1 0x40 .u32), (37, reg1 0x400 .u32), (38, reg1 16 .u32), (39, reg1 0x480 .u32), (40, reg1 5 .u32),
      (41, reg1 0xFF0002 .u32), (42, reg1 6 .u32), (43, reg1 64 .u32)] }
  let s := withGang s fun y => { y with lgl := 0x500, preds := [(1, 0b0101), (2, 0), (3, 1)] }
  let s := inBasin s 0x100 [(8, 4), (12, 1), (24, 1), (27, 1), (28, 5)]
  let s := inBasin s 0x200 [(2, 5), (16, 1), (24, 0x9000)]
  let s := inBasin s 0x240 [(4, 7), (8, 0x480), (12, 16), (16, 5)]
  let s := inBasin s 0x300 [(0, 1), (2, 5), (4, 64), (8, 0x100000), (16, 0x8000), (32, 1), (38, 1)]
  let s := inBasin s 0x500 [(0, 4), (4, 2)]
  let s := s.setBarrier 0 5 { pending := 1, expect := 2, remain := 2, group := 0xFF, fault := false, armed := true, phase := false, stamp := 0 }
  let s := inDev s 0x20000 [(0, 1), (1, 0xFF), (6, 0xFFFF), (0x22, 9), (0x23, 5), (0x24, 100)]
  let s := inDev s 0x30000 [(0, 0x31000), (8, 4)]
  let s := inDev s 0x31000 [(0, 3), (8, 70), (16, 1000), (24, 3), (28, 32), (32, 0x32000)]
  { s with quay := ⟨0x20000, [], [(0, ⟨0, 0, false, [(0, 0, 0, 0)]⟩)], []⟩, locks := [(0, { Lock.blank with record := 0x30000, enable := true, served := true, pages := 16 })],
           cores := [(0, { Core.blank with store := [(5, ⟨true, [0]⟩)], barrierLaunch := [(5, 0)] })] }

/-- A store of the slice's own that is still pending. -/
def store1 : Pend := ⟨.store, 0x100000, 4, 7, 0, 0x100000, 0, false, 0, 0, 0, .raw, none, 0⟩

/-! ### Control words -/

/-- No word of the list meets a trap, and each slice is settled. -/
def clear (s : State) (l : List Instr) : Bool := settles s && l.all fun i => (s.trapOf i).isNone

theorem clear_settled {s : State} {l : List Instr} (h : clear s l = true) : s.Settled := by
  simp only [clear, Bool.and_eq_true] at h
  exact settled s h.1

/-- The slice of the fuller module with no active lane. -/
def idle2 : State := withSlice s2 fun x => { x with mask := 0 }

theorem witness_EmptyWordsPass : clear s1 [.nop z0, .dbrk z0 0, .pause z0 0] = true ∧ (s1.ctx s1.me.asid).debugger = false ∧
    clear idle2 [.sleep z0 10, .sleepC z0 4 10, .wait z0 4 5, .waitCnt z0 4, .trap h0 5, .vqual z0 4, .csrw z0 4 0x050,
      .segwBase z0 10 0, .segwLimit z0 10 5, .kick z0 24 4 5, .trst z0 4, .sload z0 4 0, .nsend z0 4 63, .binit z0 4 5, .barr z0 4 5 5,
      .btest z0 1 4 4, .tlbi z0 10, .tlbiAsid z0 4, .mcsld z0 10 5, .dist h0 1 36 4] = true ∧
    idle2.actLanes 0 = [] ∧ idle2.cycleOf 10 = none ∧ idle2.operand 4 = none := by decide +kernel

/-- A full reconvergence stack; the two states that a branch of lanes 0 and 2 and the first join after it leave. -/
def full1 : State := withSlice s1 fun x => { x with stack := List.replicate 8 ⟨0, 0, 15, true⟩ }
def taken1 : State := withSlice s1 fun x => { x with mask := 5, stack := [⟨1, 10, 15, true⟩], pc := 2 }
def joined1 : State := withSlice s1 fun x => { x with mask := 10, stack := [⟨1, 10, 15, false⟩], pc := 1 }

theorem witness_BranchesDivergeAndJoin : clear s1 [.bra h0 2, .brx h0 5] = true ∧ clear s1 [.bra ⟨false, 0, 1⟩ 2] = true ∧
    settles full1 = true ∧ full1.screen (.bra ⟨false, 0, 1⟩ 2) = none ∧ full1.badTarget (full1.cur.widx + 2) = none ∧
    full1.act 1 0 ≠ 0 ∧ full1.act 1 0 ≠ (full1.sl 0).mask ∧ (full1.sl 0).stack.length = 8 ∧ s1.act 1 0 ≠ (s1.sl 0).mask ∧ s1.act 1 0 ≠ 0 ∧
    ((taken1.sl 0).mask, (taken1.sl 0).stack, (taken1.sl 0).pc) = s1.branched 1 (fun _ => 2) 0 ∧
    ((joined1.sl 0).mask, (joined1.sl 0).stack, (joined1.sl 0).pc) = taken1.joined 0 := by decide +kernel

theorem witness_JoinActsOnTheTop : clear s1 [.join z0] = true ∧ clear taken1 [.join z0] = true ∧ clear joined1 [.join z0] = true := by
  decide +kernel

theorem witness_CallsEnterWhole : clear s1 [.call h0 1 2, .callx h0 6 5, .call ⟨false, 0, 1⟩ 2 2] = true ∧ s1.fitsCall 0 48 ∧ s1.fitsCall 1 8 := by
  refine ⟨by decide +kernel, ?_, ?_⟩ <;> unfold State.fitsCall <;> decide +kernel

/-- A table of one entry at the base of g2, frozen or not. -/
def table1 (flags : Nat) : State :=
  inDev (inDev s1 0x300000 [(0, 1), (1, flags), (2, 3), (3, 3)]) 0x300020 [(0, 2), (14, 1)]

theorem witness_CallvEntersItsChoice :
    clear (table1 0) [.callv h0 2 0 4 5 2 0] = true ∧ clear (table1 1) [.callv h0 2 0 4 5 2 0] = true ∧
    (match ((table1 1).chargeWord (.callv h0 2 0 4 5 2 0) 0).vplan h0 0 4 5 2 0 with
      | .go x head _ w _ => head.frozen && keySpace x.pa == devSpace && w == 2 | _ => false) = true ∧
    (match ((table1 0).chargeWord (.callv h0 2 0 4 5 2 0) 0).vplan h0 0 4 5 2 0 with
      | .go _ head _ w _ => !head.frozen && w == 2 | _ => false) = true ∧ (table1 1).fitsCall 0 16 ∧
    clear idle1 [.callv h0 2 0 4 5 2 0] = true ∧ idle1.actLanes 0 = [] := by
  refine ⟨by decide +kernel, by decide +kernel, by decide +kernel, by decide +kernel, ?_, by decide +kernel, by decide +kernel⟩
  unfold State.fitsCall; decide +kernel

/-- A frame of a call of 8 registers, in the ring or spilled. -/
def frame1 (spilled : Bool) : Frame := ⟨.call, 3, 1, 0, 15, 8, spilled, none⟩
def called1 (spilled : Bool) : State :=
  withSlice s1 fun x => { x with frames := [frame1 spilled], wb := 8, towPtr := if spilled then 160 else 0 }

/-- A module whose engines' queues are full. -/
def busy2 : State := { s2 with threads := (List.range 1312).map fun n =>
    (n, { Thread.blank with ended := none, kind := if n < 1024 then .quay else if n < 1280 then .barge else .trestle }) }

theorem witness_WaitingWordsHold :
    ready (called1 false) State.waitOf [.ret z0] = true ∧ settles (called1 false) = true ∧ settles s1 = true ∧
    ready s1 State.waitOf [.regang z0, .rolesw z0 0, .stage z0, .sleep z0 10, .sleepC z0 4 10, .wait z0 4 5, .waitCnt z0 4, .pause z0 1,
      .pause z0 4095, .fenceEng z0] = true ∧
    ready busy2 State.waitOf [.sload z0 31 0, .kick z0 24 33 34, .trst z0 30] = true ∧ settles busy2 = true ∧
    clear (called1 true) [.ret z0] = true := by decide +kernel

theorem witness_LanesEnd : clear s1 [.exit h0, .exit ⟨false, 0, 1⟩, .stepend z0] = true ∧ s1.inStep = false ∧
    (s1.sl 0).live &&& ~~~(s1.ending (.exit ⟨false, 0, 1⟩) 0) ≠ 0 ∧ (s1.sl 0).live &&& ~~~(s1.ending (.exit h0) 0) = 0 ∧
    s1.liveSlices 0 = [0] := by decide +kernel

/-- A slice in its handler: one level, over the trap frame. -/
def handler1 (imp : Bool) : State :=
  withSlice s1 fun x => { x with
    frames := [⟨.trap, 0, 0, 0, 15, 56, false, none⟩], wb := 56, tpc := 2, amask := 15, tcause := if imp then 0x80000000 else 0,
    levels := [⟨1, 0, if imp then some ⟨15, [], 7, 9⟩ else none, none, 2, false, none, false, [], 0, [], none⟩] }

theorem witness_HandlersAreLeft : clear s1 [.trap h0 5, .trap ⟨false, 0, 1⟩ 4095] = true ∧ s1.actLanes 1 ≠ [] ∧
    clear (handler1 false) [.rft z0] = true ∧ clear (handler1 true) [.rft z0] = true ∧
    ((handler1 true).sl 0).frames.head? = some ⟨.trap, 0, 0, 0, 15, 56, false, none⟩ := by decide +kernel

theorem witness_RegionsAndMarksAreKept : clear s2 [.region z0 4095, .hint z0 35 0xFFFFFFFF 0, .macroOp z0 5 1 2 3 4, .vqual z0 35] = true ∧
    s2.actLanes 0 ≠ [] ∧ s2.preempting s2.me.asid = false ∧
    ({ s2 with preempt := some ⟨0, 0, false, false⟩ } : State).preempting s2.me.asid = true := by decide +kernel

/-! ### Debuggers, special registers, memory -/

/-- A context with a debugger; with a watchpoint besides that stops on a write of the first byte of g0. -/
def debug1 : State := s1.modCtx 0 fun c => { c with debugger := true }
def watch1 : State := debug1.modCtx 0 fun c => { c with watches := [⟨0x100003, 1, false, true, true⟩] }

theorem witness_DebuggersStop : clear debug1 [.dbrk z0 4095] = true ∧ (debug1.ctx debug1.me.asid).debugger = true ∧ debug1.me.stop = none ∧
    clear watch1 [.stw h0 2 4 0] = true ∧ accessOf (.stw h0 2 4 0) = some (0, 4, 4, .write, false, true) ∧
    watch1.watchHit 0 0 4 4 false true = some ⟨0x100003, 1, false, true, true⟩ ∧ watch1.me.stop = none := by decide +kernel

theorem witness_SpecialRegistersRead : clear s1 [.csrr h0 1 0, .csrr h0 1 8, .csrr h0 1 0x010, .csrr h0 1 0x011, .csrr h0 1 0x012,
    .csrr h0 1 0x013, .csrr h0 1 0x017, .csrr h0 1 0x020, .csrr h0 1 0x024, .csrr h0 1 0x031, .csrr h0 1 0x047, .csrr h0 1 0x07F] = true := by
  decide +kernel

theorem witness_SpecialRegistersWrite : clear s1 [.csrw z0 4 0x014, .csrw z0 4 0x018, .csrw z0 4 0x020, .csrw z0 4 0x022, .csrw z0 4 0x030,
    .csrw z0 5 0x031, .csrw z0 4 0x050, .segwBase z0 10 0, .segwBase z0 10 5, .segwLimit z0 10 0, .segwLimit z0 10 4] = true ∧
    clear (handler1 false) [.csrw z0 4 0x040, .csrw z0 4 0x047] = true ∧ s1.lowest 0 = some 0 ∧ (handler1 false).lowest 0 = some 0 ∧
    (s1.csrWritten 0 0x014 9).isSome = true ∧ (s1.csrWritten 0 0x021 9).isSome = true ∧ (s1.csrWritten 0 0x022 9).isSome = true ∧
    (s1.csrWritten 0 0x040 9).isSome = true := by decide +kernel

/-- Address v5 of g0 is past a limit of one byte, and the page after the mapped gigabyte has no translation. -/
def short1 : State := withGang s1 fun y => { y with segs := y.segs.put 0 ⟨0x100000, 1⟩ }
def unmapped1 : State := withGang s1 fun y => { y with segs := y.segs.put 0 ⟨0x40000000, 0x1000⟩ }

theorem witness_AccessesAreCheckedAndPark : s1.screen (.ldw h0 1 5 0 2) = none ∧
    (s1.actLanes 0).find? (s1.addressFails 0 5 4) = some 0 ∧ (s1.addressOf 0 5 4 0).2 = false ∧
    short1.screen (.ldw h0 1 4 0 2) = none ∧ (short1.actLanes 0).find? (short1.addressFails 0 4 4) = some 0 ∧
    (short1.addressOf 0 4 4 0).2 = true ∧
    clear unmapped1 [.ldw h0 1 4 0 2, .stb h0 1 4 0] = true ∧ unmapped1.watchHit 0 0 4 4 true false = none ∧
    unmapped1.missing 0 0 4 4 .read 0 = 15 ∧ s1.missing 0 0 4 4 .read 0 = 0 := by decide +kernel

/-- The slice with that store pending. -/
def storing1 : State := withSlice s1 fun x => { x with pend := [store1] }

theorem witness_LoadsDeliver :
    ready s1 (fun _ => accessOf) [.ldb h0 1 4 0 0, .ldh h0 1 4 1 1, .ldw h0 1 4 2 15, .ldd h0 24 4 3 0, .ldc h0 1 4 3, .ldt h0 1 4 0 2,
      .srd h0 1 4 0, .ldw h0 1 10 7 2, .ldb h0 1 4 4 2] = true ∧ settles s1 = true ∧ (s1.sl 0).pend = [] ∧
    s1.watchHit 0 0 4 4 true false = none ∧ s1.missing 0 0 4 4 .read 0 = 0 ∧
    (s1.placesOf 0 0 4 4 .read).all (fun p => !p.2.counted) = true ∧
    (s1.begun (.ldw h0 1 4 0 2)).contests (s1.placesOf 0 0 4 4 .read) 0 = false ∧ (s1.slice 0 0).pend = [] ∧ s1.cores = [] ∧ s1.dies = [] ∧ (storing1.slice 0 0).pend = [] ++ [store1] ∧ store1.isRmw = false := by
  decide +kernel

theorem witness_StoresArePending :
    ready s1 (fun _ i => (accessOf i).bind fun _ => pendingOf i) [.stb h0 1 4 0, .sth h0 1 4 0, .stw h0 1 4 0, .std h0 10 4 0,
      .atomAdd h0 4 4 0, .atomMin h0 4 4 0, .atomMax h0 4 4 0, .atomAnd h0 4 4 0, .atomOr h0 4 4 0, .atomXor h0 4 4 0, .atomExch h0 4 4 0,
      .atomAddwrap h0 4 4 0, .asum h0 6 4 0] = true ∧ clear s2 [.cas h0 34 4 0] = true ∧ settles s1 = true ∧
    s1.watchHit 0 0 4 4 false true = none ∧ s1.missing 0 0 4 4 .write 0 = 0 := by decide +kernel

theorem witness_FencesOrder : clear s1 [.fenceAcq z0, .fenceRel z0, .fenceAcqrel z0, .fencePath z0 0, .fencePath z0 3] = true ∧
    clear storing1 [.fenceRel z0, .fenceAcqrel z0] = true := by decide +kernel

theorem witness_InvalidationsAndLoadsComplete :
    ready s1 State.scopeOf [.tlbi z0 10, .tlbiAsid z0 5, .tlbiAll z0] = true ∧ settles s1 = true ∧
    (s1.slice 0 0).pend = [] ∧ clear s1 [.mcsld z0 10 5] = true ∧ s1.lowest 0 = some 0 ∧
    (s1.core s1.me.core).loading.keys = [] ∧
    ((s1.begun (.mcsld z0 10 5)).readOps ((s1.V64 10 0).toNat % 2 ^ 57) 32).isOk = true ∧
    settles (withSlice s1 fun x => { x with regs := x.regs.put 10 (reg1 0x40000000 .a64) }) = true ∧
    (((withSlice s1 fun x => { x with regs := x.regs.put 10 (reg1 0x40000000 .a64) }).begun (.mcsld z0 10 5)).readOps 0x40000000 32).isOk = false := by
  decide +kernel

/-- A pound that holds one item. -/
def stocked1 : State := s1.modLaunch 0 fun y => { y with pounds := [(0, { Pound.blank with tail := 1 })] }

theorem witness_PoundsFillAndEmpty : clear s1 [.qpush h0 4 1 0, .qpush ⟨false, 0, 1⟩ 4 0 0] = true ∧
    clear stocked1 [.qpop h0 24 1 0, .qpop h0 24 0 0] = true ∧ (s1.poundOf 0).isSome = true ∧ (stocked1.poundOf 0).isSome = true ∧
    s1.mem.all (fun _ => true) = true ∧ Memory.wf s1.mem = true ∧
    (((s1.begun (.qpush h0 4 1 0)).ringItems 0 0 0 ⟨0x700000, 16, 0, true⟩ .write 0 4).isOk &&
      ((stocked1.begun (.qpop h0 24 1 0)).ringItems 0 0 0 ⟨0x700000, 16, 0, true⟩ .read 0 1).isOk) = true := by decide +kernel

/-! ### Engines, barriers, manifests -/

theorem witness_CommandsFork :
    ready s2 (fun s i => (s.begun i).commandOf i) [.kick z0 24 33 34, .trst z0 30, .sload z0 31 0, .nsend z0 32 0] = true ∧ settles s2 = true ∧
    ([.kick z0 24 33 34, .trst z0 30, .sload z0 31 0, .nsend z0 32 0].all s2.room) = true := by decide +kernel

/-- The same module with its barrier unarmed; with no arrivals to come; bound to a group that the gang is no member of. -/
def unarmed2 : State := s2.setBarrier 0 5 { s2.barrier 0 5 with pending := 0, armed := false }
def due2 : State := s2.setBarrier 0 5 { s2.barrier 0 5 with pending := 0, remain := 0 }
def bound2 : State := s2.setBarrier 0 5 { s2.barrier 0 5 with group := 3 }

theorem witness_BarriersAreKept : clear unarmed2 [.binit z0 40 41] = true ∧ unarmed2.operand 40 = some 5 ∧
    unarmed2.operand 41 = some 0xFF0002 ∧ Memory.wf unarmed2.mem = true ∧
    clear s2 [.barr z0 40 43 34, .barr z0 40 35 35, .btest z0 1 40 0, .btest z0 1 40 4] = true ∧ Memory.wf s2.mem = true ∧
    s2.operand 40 = some 5 ∧ s2.operand 43 = some 64 ∧ s2.operand 34 = some 1 ∧ s2.memberOf s2.me 5 = true ∧
    clear due2 [.barr z0 40 35 34] = true ∧ (due2.barrier 0 5).remain = 0 ∧ clear bound2 [.barr z0 40 35 34] = true ∧
    bound2.memberOf bound2.me 5 = false ∧ mayEnter due2 (due2.barrierTrap 5) = true ∧ mayEnter bound2 (bound2.barrierTrap 5) = true ∧
    (due2.entering (due2.barrierTrap 5)).all (fun k => decide ((due2.sl k).resident + 168 ≤ due2.me.ring)) = true := by decide +kernel

theorem witness_BasinTablesAnswer :
    ready s2 (fun s i => (s.begun i).basinResults i) [.legal h0 1 4 4, .dist h0 1 36 4] = true ∧ settles s2 = true ∧
    s2.basinBad (.legal h0 1 4 4) 0 = 0 := by decide +kernel

theorem witness_ManifestWordsPerform :
    ready s2 (fun _ => manifestOf) [.mfrd h0 1 4 2, .mfwr h0 5 4 2, .mfopAppend ⟨false, 0, 3⟩ 1 4, .mfopRollback h0 35 4, .mfopFinish h0 4 4,
      .mfopFault h0 4 4] = true ∧ settles s2 = true ∧
    (match s2.mfIndex 4 0 with
      | .ok (_, m) => (s2.mfField m 0 .write 0).isOk && (s2.mfField m 14 .write 0).isOk | .error _ => false) = true ∧
    (match (inDev s2 0x31000 [(0, 4)]).mfIndex 4 0 with
      | .ok (_, m) => (match (inDev s2 0x31000 [(0, 4)]).mfField m 0 .write 0 with
        | .ok st => (inDev s2 0x31000 [(0, 4)]).homeWord st % 16 == 4 | .error _ => false) | .error _ => false) = true ∧
    (s2.sl 0).pend = [] := by decide +kernel
/-! ### Moves, waits and meetings -/

/-- The fuller module outside an issue. -/
def s3 : State := { s2 with cur := Issue.idle }

/-- Pending entries: a store, and behind it an atomic of the host, an `asum` cell and a release. -/
def atom1 : Pend := ⟨.atom 0, 0x100000, 4, 7, 0, 0x100000, 0, false, 0, 0, 4, .u32, none, 0⟩
def cell1 : Pend := ⟨.asum, 0x100020, 32, 7, 0, 0x100020, 0, false, 0, 0, 0, .f32, none, 0⟩
def fence1 : Pend := ⟨.release, 0, 0, 0, 0, 0, 0, false, 9, 0, 0, .raw, none, 0⟩

theorem witness_PendingEntriesLand : movable Pend.isStore [store1, cell1] = some ([], store1, [cell1]) ∧ store1.counted = false ∧
    Memory.wf s3.mem = true ∧ movable Pend.isRmw [cell1, fence1, atom1] = some ([], cell1, [fence1, atom1]) ∧
    movable Pend.isRmw [atom1] = some ([], atom1, []) ∧ keySpace atom1.pa = devSpace ∧
    ((withSlice s3 fun x => { x with pend := [store1, cell1] }).slice 0 0).pend = [store1, cell1] ∧
    (State.wordsOf cell1.pa 32).all (fun w => !s3.wordBad 0 w) = true := by decide +kernel

/-- A dirty word of a page that is still writable, in the aqueduct of die 0. -/
def dirty1 : AqWord := ⟨7, 15, 3, false, 0, [⟨0, 0, 0, 0x100000, 0⟩]⟩
def dirty3 : State := s3.modDie 0 fun d => { d with aq := [(0x40000, dirty1)] }

theorem witness_CopiesMove :
    ((withSlice s3 fun x => { x with pend := [fence1] }).slice 0 0).pend.head? = some fence1 ∧
    (dirty3.die 0).aq.find (0x100000 / 4) = some dirty1 ∧ Memory.wf dirty3.mem = true ∧ dirty3.stillWritable 0x40000 dirty1 = true ∧
    dirty3.stillWritable 0x40000 { dirty1 with dirtied := [⟨0, 0, 0, 0x40000000, 0⟩] } = false ∧ (s3.fillPlace 0 0 0x100000).isSome = true := by decide +kernel

/-- The slice waits. -/
def waits (w : Wait) : State := withSlice s3 fun x => { x with wait := some w }

/-- The conditions of a clause of the waits. -/
def wakes (w : Wait) (p : State → Bool) : Bool :=
  let s := waits w
  s.awake 0 0 && decide ((s.slice 0 0).wait = some w) && decide ((s.gang 0).slices.keys.Nodup) && p s

/-- A barrier with nothing pending; one with a fault; ended threads 7 and 8, the second by a fault on barrier 5. -/
def clear5 (s : State) : State := s.setBarrier 0 5 { s.barrier 0 5 with pending := 0 }
def fault5 (s : State) : State := s.setBarrier 0 5 { s.barrier 0 5 with fault := true, stamp := 3 }
def ends78 (s : State) : State :=
  { withSlice s (fun x => { x with forked := [7, 8] }) with
    threads := [(7, { Thread.blank with barrier := 6 }), (8, { Thread.blank with barrier := 5, ended := some 0x11 })] }

theorem witness_WaitsEnd :
    wakes (.sleep 0) (fun s => decide (0 ≤ s.now)) = true ∧ wakes (.pause 0) (fun s => decide (0 ≤ s.now)) = true ∧
    wakes (.sleepC 9 5 true) (fun s => (clear5 s).awake 0 0 && !((clear5 s).barrier 0 5).fault && ((clear5 s).barrier 0 5).pending == 0) = true ∧
    wakes (.wait 5 true) (fun s => !(s.barrier 0 5).fault && !(s.barrier 0 5).phase) = true ∧
    wakes (.waitCnt 5) (fun s => (clear5 s).awake 0 0 && !((clear5 s).barrier 0 5).fault && ((clear5 s).barrier 0 5).pending == 0) = true ∧
    wakes .queue (fun s => s.roomNow 0 0) = true ∧
    wakes .fenceEng (fun s => (s.mates 0 0).all fun j => (s.slice 0 j).forked.all fun i => (s.thread i).ended == some 0) = true ∧
    wakes (.sleepC 9 5 false) (fun s => (fault5 s).awake 0 0 && ((fault5 s).barrier 0 5).fault) = true ∧
    wakes (.wait 5 true) (fun s => (fault5 s).awake 0 0 && ((fault5 s).barrier 0 5).fault) = true ∧
    wakes (.waitCnt 5) (fun s => (fault5 s).awake 0 0 && ((fault5 s).barrier 0 5).fault) = true ∧
    wakes (.sleepC 0 5 false) (fun s => !(s.barrier 0 5).fault && (s.barrier 0 5).pending != 0 && decide (0 ≤ s.now)) = true ∧
    wakes .fenceEng (fun s => (ends78 s).awake 0 0 && ((ends78 s).slice 0 0).forked == [7, 8] && ((ends78 s).mates 0 0) == [0] &&
      ((ends78 s).thread 7).ended == some 0 && ((ends78 s).thread 8).ended == some 0x11 && ((ends78 s).thread 8).barrier == 5) = true := by
  decide +kernel

/-- A slice at the `ret` of its call, entered by `call` or by `callv` of the table of `table1`. -/
def block1 : VBlock := ⟨0x300000, 0xFFFFFFFF, 0xFFFFFFFF, 0, 0, 0, none, 0, false, false, 0, false⟩
def returning (s : State) (vb : Option VBlock) : State :=
  { withSlice s (fun x => { x with frames := [{ frame1 false with vb := vb, kind := if vb.isSome then .callv else .call }], wb := 8,
                                    wait := some .ret }) with cur := Issue.idle }

theorem witness_SlicesMeet :
    (waits .regang).allMeet 0 (fun w => decide (w = .regang)) = true ∧ (waits .regang).me.slices.keys.Nodup ∧
    (returning s3 none).instanceMeets 0 1 = true ∧ (returning s3 none).instanceOf 0 1 = [0] ∧
    (returning (table1 0) (some block1)).instanceMeets 0 1 = true ∧
    ((returning (table1 0) (some block1)).updateXlat ((returning (table1 0) (some block1)).gang 0) block1).isOk = true ∧
    (match (returning (table1 0) (some block1)).updateXlat ((returning (table1 0) (some block1)).gang 0) block1 with
      | .ok (some (_, y)) => keySpace y.pa == devSpace && y.pa % 32 == 0 && !y.counted | _ => false) = true ∧
    (match (returning (table1 1) (some block1)).updateXlat ((returning (table1 1) (some block1)).gang 0) block1 with
      | .ok none => true | _ => false) = true ∧
    ((returning s3 (some { block1 with table := 0x40000000 })).updateXlat (s3.gang 0) { block1 with table := 0x40000000 }).isOk = false := by
  decide +kernel

/-- A slice whose release failed, in a region and outside one; two slices at regangs that cannot meet; a barrier of one group on which the
gang waits for an arrival that nobody will make. -/
def failed1 (r : Option Region) : State := withSlice s3 fun x => { x with failed := some ⟨0x100000, 2, 0, r.map fun x => (0, 5, x)⟩, region := r }
def apart1 : State := withGang (waits .regang) fun y => { y with slices := y.slices ++ [(1, { slice1 with pc := 1, wait := some .regang })] }
def dead1 : State :=
  (waits (.wait 5 false)).setBarrier 0 5 { s3.barrier 0 5 with pending := 0, group := 0 }

theorem witness_GangsTrapOutsideAnIssue :
    (failed1 (some ⟨15, [], 0, 1⟩)).failedSlices 0 = [0] ∧ ((failed1 none).gangs.find 0).any (fun y => y.stop.isNone) = true ∧
    State.blamed ((failed1 (some ⟨15, [], 0, 1⟩)).slice 0 0) = some (5, ⟨15, [], 0, 1⟩) ∧
    State.blamed ((failed1 none).slice 0 0) = none ∧ ((failed1 none).slice 0 0).live ≠ 0 ∧ (failed1 none).failedSlices 0 = [0] ∧
    apart1.failedSlices 0 = [] ∧ apart1.unmatched 0 ≠ [] ∧ (apart1.gang 0).slices.keys.Nodup ∧
    dead1.deadlocked 0 5 = true ∧ dead1.memberGangs 0 5 = some [0] ∧ dead1.gangs.keys.Nodup := by decide +kernel
/-! ### Engine threads -/

/-- A record of `n` bytes. -/
def record (n : Nat) (l : List (Nat × Nat)) : List Byte := Memory.bytes (put [] 0 l) 0 n

/-- The module with one live thread, on barrier 5. -/
def thread1 (kind : ThreadKind) (r : List Byte) (f : Thread → Thread) : State :=
  { s3 with threads := [(0, f { Thread.blank with kind := kind, record := r, barrier := 5, ended := none, fired := false })], threadNo := 1 }

/-- A request of one row of 64 bytes from `src` to Basin 0x8000. -/
def barge1 (src : Nat) (f : Thread → Thread) : State :=
  thread1 .barge (record 64 [(0, 1), (2, 5), (4, 64), (8, src), (16, 0x8000), (32, 1), (38, 1)]) f

def bytes64 (t : Thread) : Thread := { t with buffer := (List.range 64).map fun n => (n, 7) }
def wrote64 (t : Thread) : Thread := { bytes64 t with wrote := List.range 64 }

/-- What the access of byte 0 meets. -/
def accesses (s : State) (dst : Bool) (p : Row → Bool) : Bool :=
  let t := s.thread 0
  t.ended.isNone && (t.parks.find 0).isNone && decide (0 < t.size) && (t.byte 0).isSome == dst && t.wrote == [] &&
    match s.rowOf t dst 0 with
    | some r => decide (0 < (r.word 0).2.2) && p r && (!dst || (List.range (r.word 0).2.2).all fun j => (t.byte ((r.word 0).1 + j)).isSome)
    | none => false

def goesTo (s : State) (u : Use) (r : Row) : Bool :=
  !s.reachBad 0 r.space r.base r.len && match s.enginePlace (s.thread 0) r.space (r.word 0).2.1 u with | .ok x => !x.counted | .error _ => false

theorem witness_EnginesAccess : accesses (barge1 0x100000 id) false (goesTo (barge1 0x100000 id) .read) = true ∧
    accesses (barge1 0x100000 bytes64) true (goesTo (barge1 0x100000 bytes64) .write) = true ∧
    accesses (barge1 0x40000000 id) false (fun r => !(barge1 0x40000000 id).reachBad 0 r.space r.base r.len &&
      !((barge1 0x40000000 id).enginePlace ((barge1 0x40000000 id).thread 0) r.space (r.word 0).2.1 .read).isOk) = true ∧
    accesses (barge1 0x1FFFFFFFFFFFFFF id) false (fun r => (barge1 0x1FFFFFFFFFFFFFF id).reachBad 0 r.space r.base r.len) = true ∧
    Memory.wf (barge1 0x100000 id).mem = true := by decide +kernel

/-- A request of one row that a word of the index list at Basin 0x9000 chooses; a matrix thread that has asked for a word. -/
def indexed1 : State :=
  thread1 .barge (record 64 [(0, 3), (2, 5), (4, 64), (8, 0x100000), (16, 0x8000), (24, 64), (32, 1), (38, 1), (40, 0x9000)]) id
def matrixAsks1 (k : ThreadKind) : State := (thread1 k (record 16 []) id).modThread 0 fun t => { t with todo := [srcKey 1 0 0x40] }

theorem witness_EnginesReadWords : ([.matrix, .trestle].all fun k => let s := matrixAsks1 k; let t := s.thread 0; let w := srcKey 1 t.core 0x40
      t.ended.isNone && (t.parks.find w).isNone && !s.leaving t.asid && !s.slowed t && t.todo.contains w && decide (w < 2 ^ 130)) = true ∧
    (indexed1.thread 0).ended = none ∧ (indexed1.thread 0).parks.find 0 = none ∧ State.indexDue (indexed1.thread 0) 0 = true ∧
    indexed1.slowed (indexed1.thread 0) = false ∧ 0 < indexed1.extent (indexed1.thread 0) ∧ State.indexKey (indexed1.thread 0) 0 < 2 ^ 130 ∧
    keyAddr (State.indexKey (indexed1.thread 0) 0) + 4 ≤ Config.basinTop := by decide +kernel

/-- A request whose unit has landed, with a follow-on command. -/
def follow1 : State :=
  thread1 .barge (record 64 [(0, 1), (1, 1), (2, 5), (4, 64), (8, 0x100000), (16, 0x8000), (32, 1), (38, 1)])
    fun t => { wrote64 t with landed := [0] }

/-- A read of one block of drive 0, with blocks of four bytes, and the drive's answer; the bytes written under a status; the drive failed;
a command not yet given to it; a command past the drive's timeout, its thread ended or not. -/
def read1 : State := inDev (thread1 .quay (record 32 [(2, 5), (16, 1), (24, 0x9000)]) fun t => { t with asked := 1 }) 0x20000 [(0x22, 2)]
def answered1 (status : Nat) : State :=
  read1.modThread 0 fun t => { t with status := [(0, status)], buffer := (List.range 4).map (·, 1), wrote := List.range 4 }
def failed4 : State := { read1.modThread 0 (fun t => { t with asked := 0 }) with quay := { read1.quay with failed := [0] } }
def late1 (e : Option Nat) : State := { read1.modThread 0 (fun t => { t with ended := e }) with cyc := 0x1000000 }
def answer1 : List Byte := List.replicate 4 1

/-- A message whose payload is read. -/
def message1 : State := thread1 .send (record 32 [(4, 7), (8, 0x480), (12, 64), (16, 5)]) bytes64

theorem witness_ThreadsLand : (barge1 0x100000 wrote64).landReady 0 0 = true ∧ Memory.wf (barge1 0x100000 wrote64).mem = true ∧
    State.follows ((barge1 0x100000 wrote64).thread 0) = false ∧ follow1.fireReady 0 = true ∧ 0 < follow1.threadNo ∧
    read1.outstanding 0 0 = true ∧ answer1.length = (DriveRead.ofBytes (read1.thread 0).record).bytesOf (read1.drive 0) 0 ∧
    ((barge1 0x100000 wrote64).thread 0).kind ≠ .quay ∧
    ([0, 7].all fun v => (answered1 v).landReady 0 0 && ((answered1 v).thread 0).status.find 0 == some v) = true ∧
    ((answered1 0).thread 0).kind = .quay ∧ (answered1 0).commandId 0 0 = some 0 ∧ Memory.wf (answered1 0).mem = true ∧
    failed4.driveLate 0 = true ∧ (late1 none).driveLate 0 = true ∧ (late1 (some 0x40)).driveLate 0 = true ∧ (message1.thread 0).kind = .send ∧ (message1.thread 0).ended = none ∧
    ((List.range (message1.thread 0).size).all fun n => ((message1.thread 0).byte n).isSome) = true ∧ message1.portUp 0 = true := by
  decide +kernel
/-! ### The span array and the Trestle unit -/

/-- A matrix command over shapes at Basin 0x2000 (one row of one I8), 0x2040 (one target) and 0x2080 (an I32 output), heading its queue. -/
def raw1 (ctl ktotal out step : Nat) (x : Slot) : State :=
  let s := thread1 .matrix (record 16 [(0, 0x80), (2, 0x81), (4, ctl), (6, out), (12, ktotal)]) id
  let s := inBasin s 0x2000 [(0, 1), (4, 1), (8, 4), (12, 7), (14, 1), (16, 0x3000), (32, 0xFFFF)]
  let s := inBasin s 0x2040 [(0, 1), (4, 1), (12, 7), (14, 2), (32, 0xFFFF)]
  let s := inBasin s 0x2080 [(0, 1), (4, 1), (8, 4), (12, 1), (14, 1), (16, 0x3100)]
  s.modCore 0 fun c => { c with matrixQueue := [0], matrixStep := step, slots := [(0, x)] }

/-- A slot that is open, and one whose run has all its products. -/
def open1 : Slot := ⟨true, .i32, 1, 1, 1, 0, [], [], [], [(0, Acc.zero 100)], false, false⟩
def whole1 : Slot := { open1 with ksum := 1, cmds := [[]] }

/-- Whether a command is ready at a step, and how its job ends. -/
def spans (s : State) (step : Nat) (p : MatCmd → Bool) : Bool :=
  s.spanReady 0 (· == step) p && s.spanHead 0 == some 0 && decide ((s.thread 0).kind = .matrix) && (s.thread 0).core == 0
def jobEnds (s : State) : Option (Option Nat) :=
  match s.spanJob 0 (MatCmd.ofBytes (s.thread 0).record) (s.slot 0 0) none with
  | .ok _ => none | .error (.fault c _) => some (some c) | .error (.bad _) => some (some 0x25) | .error (.need _) => some none

/-- The thread with the words that a command asks for in its hands, for as many rounds as it asks. -/
def fed (wants : State → List Nat) : Nat → State → State
  | 0, s => s
  | n + 1, s => fed wants n (s.modThread 0 fun t => { t with buffer := (wants s).foldl (fun b w =>
      (List.range 4).foldl (fun b j => b.put (w + j) (s.homeByte ((w + j) % 2 ^ 130) 0)) b) t.buffer })
def needs {α : Type} : SpanM α → List Nat
  | .error (.need ws) => ws | _ => []

/-- The command with its operands in its hands, or its output's chain. -/
def fedSpan (s : State) : State :=
  fed (fun s => needs (s.spanJob 0 (MatCmd.ofBytes (s.thread 0).record) (s.slot 0 0) none)) 3
    (fed (fun s => needs (s.closeJob 0 (MatCmd.ofBytes (s.thread 0).record) (s.slot 0 0))) 1 s)
def span1 (ctl ktotal out step : Nat) (x : Slot) : State := fedSpan (raw1 ctl ktotal out step x)

/-- A Trestle thread of one symbol and one state. -/
def rawTrestle1 (maps : Nat) : State :=
  thread1 .trestle (record 64 [(0, 0x100000), (8, 1), (12, 1), (16, maps), (24, 1), (27, 1), (28, 5), (48, 0x120000)]) id
def trestleEnds (s : State) : Option (Option Nat) :=
  match s.trestleOut 0 (TrestleCmd.ofBytes (s.thread 0).record) with
  | .ok _ => none | .error (.fault c _) => some (some c) | .error (.bad _) => some (some 0x25) | .error (.need _) => some none
def feeds (s : State) : State := fed (fun s => needs (s.trestleOut 0 (TrestleCmd.ofBytes (s.thread 0).record))) 3 s
def trestle1 : State := feeds (rawTrestle1 0x110000)

theorem witness_SpanAndTrestleRun :
    spans (span1 4 1 0 0 Slot.blank) 0 MatCmd.opens = true ∧ jobEnds (span1 4 1 0 0 Slot.blank) = none ∧
    spans (span1 12 1 0x82 0 Slot.blank) 0 MatCmd.opens = true ∧ jobEnds (span1 12 1 0x82 0 Slot.blank) = none ∧
    spans (span1 0 0 0 0 open1) 0 (fun c => !c.opens) = true ∧ jobEnds (span1 0 0 0 0 open1) = none ∧
    jobEnds (span1 0 0 0 0 Slot.blank) = some (some 0x23) ∧
    jobEnds (fedSpan (inBasin (raw1 4 1 0 0 Slot.blank) 0x2000 [(4, 2)])) = some (some 0x20) ∧
    spans (span1 8 0 0x82 1 whole1) 1 MatCmd.closes = true ∧
    ((span1 8 0 0x82 1 whole1).closeJob 0 (MatCmd.ofBytes ((span1 8 0 0x82 1 whole1).thread 0).record) whole1).toBool = true ∧
    whole1.checked = true ∧ (span1 8 0 0x82 1 whole1).slot 0 0 = whole1 ∧ Memory.wf (span1 8 0 0x82 1 whole1).mem = true := by decide +kernel

theorem witness_SpanAsks : spans (raw1 4 1 0 0 Slot.blank) 0 MatCmd.opens = true ∧ jobEnds (raw1 4 1 0 0 Slot.blank) = some none := by decide +kernel

/-- A CLOSE whose output is written, and counted but for its first unit. -/
def closing1 : State := (span1 8 0 0x82 1 whole1).modThread 0 fun t =>
  { t with fired := true, buffer := (List.range 64).map fun n => (n, 0), wrote := List.range 64, landed := List.range' 1 15 }

theorem witness_SpanCloses : closing1.landReady 0 0 = true ∧ (closing1.thread 0).kind = .matrix ∧ (closing1.thread 0).fired = true ∧
    64 * (MatCmd.ofBytes (closing1.thread 0).record).out + 64 ≤ Config.basinTop ∧ closing1.units (closing1.thread 0) = 16 ∧
    closing1.spanHead 0 = some 0 ∧ ((List.range 16).all fun v => v == 0 || (closing1.thread 0).landed.contains v) = true ∧ Memory.wf closing1.mem = true ∧
    (span1 8 0 0x82 1 { whole1 with ksum := 1, replayed := false }).slot 0 0 = whole1 := by decide +kernel

/-- A run of one product, 2 by 3, that its OPEN has accumulated, and which rows of its output rest on operands that `f` changes. -/
def product1 : State :=
  let s := inBasin (raw1 12 1 0x82 0 Slot.blank) 0x3000 [(0, 2)]
  fedSpan { s with mem := put s.mem (keyAt deckSpace 0 (deckAddr 0)) [(0, 3)] }
def changes (s : State) (f : State → State) : Option (List Nat) :=
  match exec (.matrixOpen 0) s with | .next t => some ((f t).changedRows 0 (t.slot 0 0)) | _ => none

theorem witness_SpanChanges : changes product1 id = some [] ∧ changes product1 (fun t => inBasin t 0x3000 [(0, 9)]) = some [0] := by
  decide +kernel

theorem witness_TrestleRuns : trestle1.trestleReady 0 = true ∧ trestleEnds trestle1 = none ∧
    trestleEnds (feeds (inDev (rawTrestle1 0x110000) 0x100000 [(0, 5)])) = some (some 0x30) ∧
    trestleEnds (rawTrestle1 0x110000) = some none ∧ Memory.wf trestle1.mem = true := by decide +kernel
/-- A module with a launch image at 0x50000: one gang of one slice, its first segment at 0x100000. -/
def imaged (s : State) : State :=
  inDev (inDev s 0x50000 [(0, 1), (4, 1), (8, 1), (9, 1), (0x18, 6), (0x1C, 0xFFFFFFFF), (0x28, 0x10000), (0x2C, 0xB00), (0x30, 0x100000),
    (0x38, 0x10000)]) 0x50100 [(4, 64), (7, 1), (8, 0xFF), (9, 0xFF)]

/-- Sluice `q` with one packet to process, in its ring at 0x60000 + 0x400 q. -/
def sluiced (s : State) (q : Nat) (p : List (Nat × Nat)) : State :=
  (inDev s (0x60000 + 0x400 * q) p).modSluice q fun x =>
    { x with base := BitVec.ofNat 64 (0x60000 + 0x400 * q), size := 16, tail := 1, mapped := true }

/-! ### Launches -/

/-- Launch 1 of sluice 0, and what the image of a launch may say. -/
def queued1 (s : State) (image asid : Nat) : State :=
  { s with launches := s.launches ++ [(1, { Launch.blank with source := .sluice 0 0, image := image, asid := asid, state := .queued, reported := false })],
           launchNo := 2, queue := [1] }
def placing1 (m : Image) : State :=
  { s3 with launches := [(0, residentLaunch), (1, { Launch.blank with img := some m, state := .placing, gangs := 1, reported := false })],
            launchNo := 2, placing := [1] }

/-- Whether launch 1 is dequeued next, and what its image comes to: a fault, a code, an image that begins. -/
def dequeues (s : State) : Bool :=
  s.rereads.isNone && decide (s.nextQueued = some 1) && (s.launches.find 1).any fun y => y.cores == []
def imageCode (s : State) : Option Nat :=
  match s.imageNow (s.launch 1) with | .ok (.error c) => some c | _ => none

/-- The module with the image, the launch that names it, and ARM packets with a buffer of one slot of 64 bytes inside and outside the
segment. -/
def arm1 (buffer : Nat) : List (Nat × Nat) := [(0, 4), (8, 0x50000), (48, buffer), (56, 9), (60, 6)]
def opening1 : State := queued1 (sluiced (sluiced (imaged s3) 0 (arm1 0x100000)) 1 (arm1 0x200000)) 0x50000 0
def packet1 (q : Nat) : Packet6 := Packet6.ofBytes ((opening1.nextPacket q).getD [])

theorem witness_LaunchesAreDequeued : dequeues opening1 = true ∧ opening1.ctxValid 0 = true ∧ dequeues (queued1 s3 0x50000 1) = true ∧
    (queued1 s3 0x50000 1).ctxValid 1 = false ∧ dequeues (queued1 s3 0x50001 0) = true ∧ imageCode (queued1 s3 0x50001 0) = some 1 ∧
    dequeues (queued1 s3 0x40000000 0) = true ∧ ((queued1 s3 0x40000000 0).imageNow ((queued1 s3 0x40000000 0).launch 1)).isOk = false := by
  decide +kernel

theorem witness_LaunchesBegin : (match opening1.imageNow (opening1.launch 1) with
    | .ok (.ok m) => State.localSets m == [] && State.bufferFits m (packet1 0) && !State.bufferFits m (packet1 1) | _ => false) = true := by
  decide +kernel

/-- An image of a second role, smaller and fed by a second pound. -/
def roles2 : Image :=
  { residentImage with
    roles := residentImage.roles ++ [{ entry := 3, allot := 64, cls := 1, gangs := 1, inp := some 1, out := none, tags := 0, args := [] }],
    pounds := residentImage.pounds ++ [{ ring := 0x700000, cap := 2, init := 0, valid := true }] }

/-- The quarters of core 0 as compaction finds them: 64 registers at 0 and at 512 and 512 at 1024 in the first, the others full, the other
cores of its one cluster held by another context. -/
def crowded1 : State :=
  let s := placing1 residentImage
  let y (c q p b a : Nat) : Gang := { Gang.blank with core := c, quarter := q, place := p, base := b, allot := a }
  { s with
    security := { s.security with remap := s.security.remap.take 1 }, gangNo := 20,
    gangs := [(0, y 0 0 0 0 64), (1, y 0 0 1 512 64), (2, y 0 0 2 1024 512), (3, y 0 1 0 0 1024), (4, y 0 1 1 1024 512), (5, y 0 2 0 0 1024),
      (6, y 0 2 1 1024 512), (7, y 0 3 0 0 1024), (8, y 0 3 1 1024 512)] ++
      (List.range 3).map fun c => (9 + c, { y (1 + c) 0 0 0 64 with asid := 1 }) }

theorem witness_LaunchesArePlaced : (placing1 residentImage).placeable 1 ≠ none ∧ crowded1.switchFragmented 0 0 = none ∧
    crowded1.placeFragmented 0 0 = some (1, 0) ∧ (crowded1.repack 0 0 none 20 512).isSome = true ∧ crowded1.gangAllot 1 0 = 512 := by
  decide +kernel

/-- The gang placed and not started; at `stage` with an item in the pound of its own role or of the other; at `rolesw`. -/
def placed1 : State := withGang s3 fun y => { y with started := false }
def staged1 (pounds : FMap Pound) : State :=
  (waits (.stage 0)).modLaunch 0 fun y => { y with img := some roles2, pounds := pounds }
def switching1 (n : Nat) : State := (waits (.rolesw n)).modLaunch 0 fun y => { y with img := some roles2 }

def takes (s : State) (n : Nat) : Bool :=
  s.stageDue 0 && decide (s.chooseRole 0 0 = some n) && decide ((s.gang 0).slices.keys.Nodup) && (s.launches.find 0).isSome &&
    match s.ringItems 0 0 0 (s.poundAt 0 n).1 .read (s.poundAt 0 n).2.head 1 with | .ok [_] => true | _ => false

theorem witness_LaunchesGoOn : placed1.startDue 0 = true ∧ (placed1.launch 0).loaded.contains 0 = true ∧ (placed1.launch 0).lost = [] ∧
    takes (staged1 [(0, { Pound.blank with tail := 1 })]) 0 = true ∧ takes (staged1 [(1, { Pound.blank with tail := 1 })]) 1 = true ∧
    (switching1 0).pendingRole 0 = some (0, none) ∧ (switching1 1).pendingRole 0 = some (1, none) ∧ ((switching1 1).gang 0).role = 0 ∧
    ((switching1 1).gang 0).slices.keys.Nodup ∧ ((switching1 1).roleBlock 0 1).isSome = true ∧ ((switching1 1).slice 0 0).pend = [] ∧
    (switching1 1).liveSlices 0 = [0] ∧ (staged1 []).poison = [] ∧ (staged1 []).closeDue 0 = true ∧ (staged1 []).gangs.keys.Nodup := by decide +kernel

/-- Launch 1 of sluice 0, all of its gangs ended, with a code. -/
def ending1 (code : Nat) : State :=
  { s3 with
    launches := [(0, residentLaunch), (1, { Launch.blank with source := .sluice 0 0, state := .placing, gangs := 1, placed := 1, ended := 1,
                                                               code := code, doneVa := 0x140000, doneVal := 77, reported := false })],
    launchNo := 2, sluices := [(0, { Sluice.blank with launches := [1] })] }

theorem witness_LaunchesRun : (ending1 0).allEnded 1 = true ∧ (ending1 4).allEnded 1 = true ∧ ((ending1 4).sluice 0).launches = [1] ∧
    ((ending1 4).unitXlat 0 0x140000 .write).isOk = true ∧ Memory.wf (ending1 4).mem = true ∧ ((ending1 4).launch 1).doneVa = 0x140000 := by
  decide +kernel
/-! ### Sluices and armed launches -/

/-- What sluice 0 has to process: a kind, whether the packet waits, and what its semaphore word holds. -/
def due (s : State) (k : Nat) (waits : Bool) (p : State → Packet6 → Bool) : Bool :=
  s.packetDue 0 k && (s.nextPacket 0).any fun b => (Packet6.ofBytes b).waits == waits && p s (Packet6.ofBytes b)

/-- A packet of a kind whose semaphore word, a zero, is compared with 0 or with 5. -/
def packet (kind flags operand sem : Nat) : List (Nat × Nat) := [(0, kind), (1, flags), (16, sem), (24, operand)]
def holds (want : Bool) (s : State) (p : Packet6) : Bool := (s.semWord 0 p).any fun v => condHolds p.cond v p.operand == want

/-- Sluice 0 behind a launch of its own that runs. -/
def behind (s : State) : State := queued1 (s.modSluice 0 fun x => { x with launches := [1] }) 0x50000 0

/-- Sluice 0 blocked at a packet whose condition holds by now. -/
def blocked1 (kind flags : Nat) : State :=
  s3.modSluice 0 fun x => { x with
    mapped := true, blocked := true, blockCyc := 9, held := some (record 64 [(0, kind), (1, flags), (16, 0x150000)]) }
def retests (s : State) : Bool :=
  s.retestDue 0 && ((s.sluice 0).held.any fun b => (s.semWord 0 (Packet6.ofBytes b)).isSome)

theorem witness_SluicesProcess :
    ((s3.modSluice 0 fun x => { x with error := some 2 }).sluice 0).error.isSome = true ∧
    (sluiced s3 0 [(0, 9)]).packetDue 0 0 = true ∧ (sluiced s3 0 [(0, 9)]).nextPacket 0 = none ∧
    due (sluiced s3 0 [(0, 1)]) 1 false (fun _ _ => true) = true ∧
    due (sluiced s3 0 (packet 1 1 5 0x40000000)) 1 true (fun s p => (s.semWord 0 p).isNone) = true ∧
    due (sluiced s3 0 (packet 2 0 5 0x40000000)) 2 true (fun s p => (s.semWord 0 p).isNone) = true ∧
    due (sluiced s3 0 (packet 1 1 5 0x150000)) 1 true (holds false) = true ∧ due (sluiced s3 0 (packet 2 0 5 0x150000)) 2 true (holds false) = true ∧
    due (sluiced s3 0 (packet 2 0 0 0x150000)) 2 true (holds true) = true ∧
    due (behind (sluiced s3 0 (packet 1 3 0 0x150000))) 1 true (fun s p => holds true s p && p.ordered && !s.launchesOver 0) = true ∧
    due (sluiced s3 0 (packet 1 1 0 0x150000)) 1 true (holds true) = true := by decide +kernel

theorem witness_PacketsProcess :
    due (sluiced s3 0 (packet 3 0 5 0x40000000)) 3 false (fun s p => !(s.unitXlat 0 p.sem .write).isOk) = true ∧
    due (sluiced s3 0 (packet 3 0 5 0x150000)) 3 false (fun s p => (s.unitXlat 0 p.sem .write).isOk) = true ∧
    due opening1 4 false (fun s p => s.ctxValid 0 && (s.armedOf 0 p.tag).isNone) = true ∧ opening1.packetDue 1 4 = true ∧
    (packet1 1).doneVa = 0 ∧ due (sluiced s3 0 [(0, 5), (56, 9)]) 5 false (fun _ _ => true) = true ∧
    retests (blocked1 2 0) = true ∧ retests (blocked1 1 1) = true ∧ retests (behind (blocked1 1 3)) = true ∧
    (behind (blocked1 1 3)).launchesOver 0 = false ∧
    State.rotationDue { blocked1 2 0 with rotate := 8, unmapped := 1 } = true := by decide +kernel

/-- An armed launch of tag 9 with two slots of 64 bytes, one of them taken. -/
def armed1 : State :=
  s3.modCtx 0 fun c => { c with armed := [⟨7, 9, 0x50000, 0x100000, 6, 2, 0, 0, 0, [0], 0, { residentImage with groups := [] }⟩] }

theorem witness_MessagesFire : armed1.messageFires 0 9 64 = true ∧ (armed1.armedOf 0 9).any (fun a => State.freeSlotOf a == some 1 &&
      State.localSets a.img == [] && (armed1.unitWrite 0 (a.buffer + 64) (List.replicate 64 1)).isOk) = true ∧ armed1.ctxValid 0 = true ∧
    due (sluiced armed1 0 (arm1 0x100000)) 4 false (fun s p => (s.armedOf 0 p.tag).isSome) = true := by decide +kernel
/-! ### The Lock, translation, contexts -/

/-- A setup record of one berth at 0x30000, and a Lock that a write enables. -/
def setup1 (entries : Nat) : State :=
  (inDev s3 0x30000 [(0, 0x31000), (8, 4), (12, 1), (40, 1), (64, entries)]).modLock 0 fun x => { x with enable := false, served := false }

/-- What an enable finds in its record. -/
def finds (s : State) (ok : Bool) : Bool :=
  let u := s.enabling 0 0x30001
  s.security.booted && !(s.lock 0).enable && s.ctxValid 0 && s.ctxReach 0 == 0 && (u.unitPlaces 0 .read (parts (u.lockRecord 0) 128)).isOk &&
    match u.unitRead 0 (u.lockRecord 0) 128 with | .ok b => setupOk b == ok | .error _ => false

/-- The Lock in a state of its cycle, with two pages given. -/
def locked1 (st : LockState) : State := s3.modLock 0 fun x => { x with state := st, out := [1, 3], launch := some 1 }
def stepped1 : State := { locked1 .step with launches := [(0, residentLaunch), (1, { Launch.blank with state := .finished 0 })] }

theorem witness_LocksCycle : finds (setup1 16) true = true ∧ finds (setup1 15) false = true ∧
    ((setup1 16).modLock 0 fun x => { x with asid := 1 }).ctxValid 1 = false ∧ s3.ctxReach 0 ≠ 1 ∧ (s3.lock 0).enable = true ∧
    (s3.lock 0).park = none ∧ Memory.wf s3.mem = true ∧ (s3.unitXlat 0 (s3.lockRecord 0 + 0x44) .write).isOk = true ∧
    ((locked1 .idle).unitRead 0 0x30000 128).isOk = true ∧ ((locked1 .idle).lock 0).state = .idle ∧ stepped1.lockIn 0 .step = true ∧
    stepped1.isOver 1 = true ∧ stepped1.stepBroken 1 = false ∧ (locked1 .retire).retireDue 0 = true ∧
    (locked1 .reserve).lockIn 0 .reserve = true ∧ (locked1 .admission).lockIn 0 .admission = true ∧ (locked1 .publish).lockIn 0 .publish = true ∧
    (locked1 .push).lockIn 0 .push = true ∧ (locked1 .push).queueRoom 0 = true := by decide +kernel

theorem witness_PagesAreGivenOnce : ∃ t, exec (.lockDisable 0) (locked1 .idle) = .next t ∧
    ((locked1 .idle).lock 0).out.Pairwise (· < ·) ∧ ∀ p ∈ ((locked1 .idle).lock 0).out, p < ((locked1 .idle).lock 0).pages :=
  ⟨_, rfl, by decide +kernel, by decide +kernel⟩

/-- A die whose parks have overflowed; a slice parked there; a peer told of. -/
def parked1 : State :=
  (withSlice s3 fun x => { x with park := some { widx := 0, pmask := 15, die := 0, ids := [4], kind := .lanes } }).modDie 0
    fun d => { d with overflow := true }

theorem witness_TranslationsAreManaged : s3.ibusy = false ∧ ({ s3 with ibusy := true } : State).ibusy = true ∧ (parked1.die 0).overflow = true ∧
    (parked1.gang 0).slices.keys.Nodup ∧ ((parked1.slice 0 0).park.map Park.ids) = some [4] ∧ (parked1.slice 0 0).reserve = true ∧
    ({ s3 with peers := [(3, 5, 0)] } : State).peers.find? (fun p => p.1 == 3 && p.2.1 == 5) = some (3, 5, 0) ∧
    (s3.unitPlaces 0 .read (parts 0x100000 16)).isOk = true ∧ (s3.unitPlaces 0 .write (parts 0x100000 16)).isOk = true ∧
    s3.security.booted = true ∧ Memory.wf s3.mem = true := by decide +kernel

/-- A pre-emption past its deadline; a saved context of a small module, its save area empty, or with
an allotment; a context without progress. -/
def preempted1 (forced : Bool) : State := { s3 with preempt := some ⟨0, 0, forced, false⟩ }
def saved1 : Saved := ⟨0, [(0, gang1)], []⟩
def restoring1 : State := { s1 with gangs := [], saved := [(0, saved1)] }
def area1 : State := inDev restoring1 (64 + gangTail) [(0, 64)]
def hung1 : State := (inDev s3 0 [(0x18, 1)]).modCtx 0 fun c => { c with watchdog := 65536 }

/-- A slice inside microprogram 0, with programs 0 and 5 to be replaced. -/
def inside1 : State :=
  (withSlice s3 fun x => { x with macroAt := some (0, 0) }).modCore 0 fun c => { c with loading := [(0, ⟨true, [0]⟩), (5, ⟨true, [0]⟩)] }

theorem witness_ContextsSwitch : s3.security.booted = true ∧ s3.preempt = none ∧ s3.saved.find 0 = none ∧ (preempted1 false).deadline 0 = 0 ∧
    (preempted1 true).saveDue = true ∧ ((preempted1 true).slice 0 0).pend = [] ∧ (preempted1 true).dies = [] ∧ hung1.watchdogDue 0 = true ∧
    inside1.replaceDue 0 = true ∧ inside1.insideMicro 0 0 = true ∧ inside1.insideMicro 0 5 = false ∧
    (inside1.core 0).loading.keys.Pairwise (· < ·) := by decide +kernel

theorem witness_ContextsReturn : restoring1.restorePlace 0 = some (saved1, []) ∧ (restoring1.loadArea 0 saved1).isNone = true ∧
    area1.restorePlace 0 = some (saved1, []) ∧
    ((area1.loadArea 0 saved1).any fun x => decide x.1.keys.Nodup && x.1.all fun p => p.2.slices.all fun q => q.2.reserve && q.2.park.isNone) = true := by
  decide +kernel

/-! ### Stops and the module -/

/-- A breakpoint at word 0; gangs stopped there, at a watchpoint and by the host, another of the quarter still running; a driven line. -/
def broken1 : State := s3.modCtx 0 fun c => { c with debugger := true, breaks := [9, 0] }
def stopped1 (r : Nat) : State := withGang broken1 fun y => { y with stop := some ⟨r, 0, 0, 0, 0, 0, 0, 0, 0, 0, 0⟩ }
def two1 : State := { broken1 with gangs := broken1.gangs ++ [(1, { gang1 with place := 1 })] }
def lined1 : State := { two1 with lines := [6], triggers := [⟨6, 0, false, false, none, true, false, none⟩] }

theorem witness_StopsHoldAndResume : two1.canIssue 0 0 = true ∧ two1.breakAt 0 0 = some 1 ∧ two1.running 0 = true ∧
    (two1.gang 1).quarterId = (two1.gang 0).quarterId ∧ (two1.gang 1).stop = none ∧
    ([2, 3, 9].all fun r => (((stopped1 r).gang 0).stop.map Stop.reason) == some r && State.resumable r) = true ∧
    lined1.lines.contains 6 = true ∧ (lined1.gang 0).quarterId = 0 := by decide +kernel

/-- A sampler with room, and one without. -/
def sampled1 (head : Nat) : State := s3.modCore 0 fun c => { c with sampler := some ⟨0, 0x160000, 4, head, 0, 0, 3, false⟩ }

theorem witness_ModuleEventsAct : s3.now % 1800 = 0 ∧ (sampled1 0).sampleDue 0 = true ∧ (sampled1 4).sampleDue 0 = true ∧
    Memory.wf (sampled1 0).mem = true ∧ ((s3.gangs.filter fun x => x.2.core == 0).map Prod.fst)[3 % 1]? = some 0 ∧
    s3.power.capped = true ∧ s3.security.booted = true ∧ State.errorSeverity 1 0 0 = 0 ∧ State.errorSeverity 3 0 2 ≠ 0 ∧
    State.errorSeverity 5 (2 ^ 32) 3 = 3 ∧
    ({ s3 with security := { s3.security with booted := false } } : State).security.booted = false ∧ ({ s3 with power := { s3.power with capped := false } } : State).now % 1800 = 0 := by decide +kernel

theorem witness_AttestationsAnswer :
    ({ s3 with security := { s3.security with negotiated := true } } : State).security.negotiated = true ∧ 6 ≤ 7 := by decide +kernel

theorem witness_RegistersTakeWrites : s3.security.booted = true ∧ s3.ibusy = false ∧ (s3.lock 0).enable = true ∧ (s3.lock 1).enable = false ∧
    (s3.die 0).fbHead = (s3.die 0).fbGet := by decide +kernel

/-- A slice of one frame outside an issue, and the record of a call of 8 registers that a spilled one has. -/
def towed1 (spilled : Bool) : State := { called1 spilled with cur := Issue.idle }
def towed2 : State := inDev (towed1 true) 0x800000 [(144, 2 ^ 58)]

theorem witness_TowMovesFrames : ((towed1 false).slice 0 0).frames = [frame1 false] ∧
    ((towed1 false).towXlat ((towed1 false).gang 0) (towVa ((towed1 false).gang 0) 0 ((towed1 false).slice 0 0).towPtr) .write
      ((frame1 false).bytes / 16)).isOk = true ∧ Memory.wf (towed1 false).mem = true ∧ ((towed1 true).slice 0 0).frames = [frame1 true] ∧
    (frame1 true).bytes = 160 ∧ (towed1 true).refillFits 0 0 = true ∧ ((towed1 true).gang 0).stop = none ∧
    (match (towed1 true).towXlat ((towed1 true).gang 0) (towVa ((towed1 true).gang 0) 0 0) .read 10 with
      | .ok xs => (xs.getLast?).any (fun p => ((frame1 true).ofHeader ((towed1 true).homeRead p.pa p.kid 16)).isNone &&
          ((frame1 true).ofHeader (towed2.homeRead p.pa p.kid 16)).isSome)
      | .error _ => false) = true ∧
    (towed2.towXlat (towed2.gang 0) (towVa (towed2.gang 0) 0 0) .read 10).isOk = true ∧ towed2.poison = [] ∧ towed2.refillFits 0 0 = true ∧
    (frame1 true).stk ≤ 8 ∧ (frame1 true).slide ∈ [8, 16, 24, 32, 40, 48] := by decide +kernel
/-! ### The machine as a whole -/

/-- Whether a step runs the word that its state decodes, as the statement has it: the set, its packet, its one-word chain. -/
def runs (s : State) (i : Instr) : Bool :=
  s.agenda == [] && s.renew.trapEvent.isNone && match s.renew.nextSet with
  | none => false
  | some r =>
    let x := s.renew.slice r.gang (r.slices.headD 0)
    let t := s.renew.landFlights r.gang r.slices
    (s.renew.breakAt r.gang (r.slices.headD 0)).isNone && x.macroAt.isNone && decide (x.pc.toNat < (s.gang r.gang).codeLimit) &&
      match t.packet (t.gang r.gang) x.pc.toNat with
      | .ok p => p.bad.isNone && p.starts.contains (x.pc.toNat % 3) && match State.slotsOf x p with
        | [j] => reads (decode (p.at j) (p.at (j + 1)) (p.at (j + 2))) i
        | _ => false
      | .error _ => false

def next? (o : Out) : Bool := match o with | .next _ => true | _ => false

theorem witness_StepRunsDecoded : runs base1 (.nop z0) = true ∧ next? (exec (.nop z0) { base1.renew with cur := issue1 }) = true ∧
    isEvent .invalidateAll = true ∧ next? (exec .invalidateAll { base1.renew with agenda := [] }) = true ∧
    State.reset.agenda = [] ∧ State.reset.renew.trapEvent = none ∧ State.reset.renew.nextSet = none ∧
    State.reset.renew.ownEvent = none := by decide +kernel

theorem witness_EncodingRoundTrips : (Instr.addl h0 1 2 9).wf = true ∧ isEvent (.addl h0 1 2 9) = false ∧
    reads (decode 0b0_000_0001001_000_000001_000010_000000#32 9 0) (.addl h0 1 2 9) = true := by decide +kernel

theorem witness_StepsKeep : base1.Canonical ∧ base1.Sorted ∧ base1.Bounded ∧ next? (step base1) = true := by
  refine ⟨?_, ⟨?_, ?_, ?_, ?_⟩, ⟨?_, ?_, ?_⟩, ?_⟩
  · show Memory.wf base1.mem = true
    decide +kernel
  all_goals decide +kernel

/-! ### Further conditions of the statements -/

/-- A microprogram at 0x100000: 32 times `add` of v0 and v0 into v0. -/
def loads1 : State :=
  withSlice (inDev s1 0x100000 ((List.range 32).map fun i => (8 * i, 0x00200000))) fun x => { x with regs := x.regs.put 10 (reg1 0x100000 .a64) }

theorem witness_SystemWordsComplete :
    clear s1 [.tlbi z0 10, .tlbiAsid z0 5, .tlbiAll z0, .dbrk z0 3] = true ∧ clear unarmed2 [.binit z0 40 41] = true ∧ clear s2 [.btest z0 1 40 4] = true ∧
    (s1.ctx s1.me.asid).debugger = false ∧ clear idle2 [.barr z0 4 5 5, .mcsld z0 10 5] = true ∧ idle2.lowest 0 = none ∧
    clear s2 [.barr z0 40 43 35] = true ∧ s2.operand 35 = some 0 ∧ (s2.barrier s2.me.core 5).pending + 64 < 2 ^ 32 ∧
    clear loads1 [.mcsld z0 10 5] = true ∧ (match (loads1.begun (.mcsld z0 10 5)).readOps ((loads1.V64 10 0).toNat % 2 ^ 57) 32 with
      | .ok ps => ((loads1.begun (.mcsld z0 10 5)).loadOps 0 ps).2.all fun o => !opRefused o | .error _ => false) = true ∧
    clear debug1 [.dbrk z0 3] = true ∧ clear (table1 0) [.callv h0 2 0 4 5 2 0] = true := by decide +kernel

/-- Whether a stage of the Lock is served to its end. -/
def serves (s : State) (m : LockM Unit) : Bool := match m ⟨s, [], []⟩ with | .ok _ _ => true | .error _ _ => false

theorem serves_of {s : State} {m : LockM Unit} (h : serves s m = true) : s.Serves m := by
  unfold serves at h
  unfold State.Serves
  cases hm : m ⟨s, [], []⟩ with
  | ok u v => exact ⟨v, rfl⟩
  | error e v => rw [hm] at h; cases h

theorem witness_LocksServe : (locked1 .retire).Serves (LockM.retireStage 0) ∧ (locked1 .reserve).Serves (LockM.reserveStage 0) ∧
    (locked1 .admission).Serves (LockM.admitStage 0) ∧ (locked1 .publish).Serves (LockM.publishStage 0) ∧
    (locked1 .push).Serves (LockM.pushStage 0) ∧ ((locked1 .retire).lock 0).journal = [] ∧ ((locked1 .push).lock 0).journal = [] :=
  ⟨serves_of (by decide +kernel), serves_of (by decide +kernel), serves_of (by decide +kernel), serves_of (by decide +kernel),
    serves_of (by decide +kernel), by decide +kernel, by decide +kernel⟩

/-- A Trestle thread that has asked for a word of its command, and one of the Basin; an error ring of die 0 with room. -/
def asking1 : State := (thread1 .trestle [] id).modThread 0 fun t => { t with todo := [srcKey 1 0 0x40] }
def ringed1 : State := s3.modDie 0 fun d => { d with erBase := 0x170000, erSize := 4 }

theorem witness_EventsComplete :
    ((withSlice s3 fun x => { x with pend := [store1, cell1] }).laneBlocked 0 0 store1) = false ∧
    s3.laneBlocked 0 0 atom1 = false ∧ atom1.counted = false ∧ dirty1.dirty ≠ 0 ∧
    (barge1 0x100000 id).slowed ((barge1 0x100000 id).thread 0) = false ∧ ((barge1 0x100000 id).thread 0).todo = [] ∧
    0 < (barge1 0x100000 id).extent ((barge1 0x100000 id).thread 0) ∧ (asking1.thread 0).todo = [srcKey 1 0 0x40] ∧
    (asking1.thread 0).parks.find (srcKey 1 0 0x40) = none ∧ asking1.slowed (asking1.thread 0) = false ∧ srcKey 1 0 0x40 < 2 ^ 130 ∧
    (barge1 0x1FFFFFFFFFFFFFF id).landReady 0 0 = false ∧
    opening1.placedBefore = true ∧ (opening1.rereads = none) ∧ ((sampled1 0).gangs.any fun g => g.2.core == 0) = true ∧
    ((ringed1.die 0).erHead - (ringed1.die 0).erGet).toNat < (ringed1.die 0).erSize.toNat ∧
    ringed1.poisoned (keyAt devSpace 0 0x170000) 32 = false ∧ s3.security.booted = true ∧ s1.endTrap (.ldw h0 1 5 0 2) = none ∧
    full1.endTrap (.bra ⟨false, 0, 1⟩ 2) = none ∧ s1.inStep = false ∧ (s1.sl 0).failed = none ∧
    ({ preempted1 true with preempt := some ⟨0, 0, true, true⟩ } : State).saveDue = true := by decide +kernel
/-! ### Results worked out by hand from the rules -/

/-- Lane 0 of register `d`, with its tag, after a word of the slice. -/
def lane0 (o : Out) (d : Nat) : Option (Word × Tag) :=
  match o with
  | .next t => let r := (t.slice 0 0).regs.getOr d Reg.zero; some (r.l0, r.tag)
  | _ => none

/-- A step of the slice, as something of the state after it. -/
def after {α : Type} (o : Out) (f : Slice → α) : Option α := match o with | .next t => some (f (t.slice 0 0)) | _ => none

-- The table of add, subtract and multiply (OP 0x02, 0x03): 5 − 7 = −2 as I32; 1.0 × 2.0 in F32.
theorem test_sub : lane0 (exec (.sub h0 1 2 3) s1) 1 = some (0xFFFFFFFE, .i32) := by decide +kernel
theorem test_mul : lane0 (exec (.mul h0 1 6 7) s1) 1 = some (0x40000000, .f32) := by decide +kernel
-- R96: 5 shifted left by 2.
theorem test_shl : lane0 (exec (.shl h0 1 2 5) s1) 1 = some (20, .i32) := by decide +kernel
-- R89: the 12-bit immediate is sign-extended.
theorem test_movi : lane0 (exec (.movi h0 1 (-1)) s1) 1 = some (0xFFFFFFFF, .i32) := by decide +kernel
-- R134: the lanes of p1 (0 and 2) go to the target, which is counted from the word; R135: the first join runs the others.
theorem test_bra : after (exec (.bra ⟨false, 0, 1⟩ 2) s1) (fun x => (x.pc, x.mask)) = some (2, 5) := by decide +kernel
theorem test_join : after (exec (.join z0) taken1) (fun x => (x.pc, x.mask)) = some (1, 10) := by decide +kernel
-- R137: a call moves the window by its slide, and leaves its frame.
theorem test_call : after (exec (.call h0 1 2) s1) (fun x => (x.pc, x.wb, x.frames.length)) = some (2, 8, 1) := by decide +kernel
-- R143, R291: `trap` goes to the handler, with a frame of 56 registers and one level.
theorem test_trap : after (exec (.trap h0 5) s1) (fun x => (x.pc, x.wb, x.levels.length)) = some (3, 56, 1) := by decide +kernel
-- R140: a slice whose lanes have all ended stands empty.
theorem test_exit : after (exec (.exit ⟨false, 0, 1⟩) s1) (fun x => x.live) = some 10 := by decide +kernel

end Sys2Proof.Tests
end

section
/-! PROOF. The registers of the BAR (R5, R6): the registers of a block stand one after another, so a write of a whole register is
that register's own effect, and a read of its bytes is its value. -/

namespace Sys2Proof.Machine

/-! ### A sluice, a die, a Lock after a change of one -/

namespace State

@[simp] theorem sluice_modSluice_self (s : State) (q : Nat) (f : Sluice → Sluice) : (s.modSluice q f).sluice q = f (s.sluice q) := by
  simp [sluice, modSluice, FMap.getOr_put]

@[simp] theorem die_modDie_self (s : State) (d : Nat) (f : Die → Die) : (s.modDie d f).die d = f (s.die d) := by
  simp [die, modDie, FMap.getOr_put]

@[simp] theorem lock_modLock_self (s : State) (r : Nat) (f : Lock → Lock) : (s.modLock r f).lock r = f (s.lock r) := by
  simp [lock, modLock, FMap.getOr_put]

theorem sluiceOnly_modSluice (s : State) (q : Nat) (f : Sluice → Sluice) : s.SluiceOnly (s.modSluice q f) q (f (s.sluice q)) :=
  ⟨sluice_modSluice_self s q f, fun _ hj => (FMap.find_put ..).trans (if_neg hj), rfl⟩

theorem modLock_locks_only (s : State) (r : Nat) (f : Lock → Lock) : { s.modLock r f with locks := [] } = { s with locks := [] } := rfl

theorem disableLock_locks_only (s : State) (r : Nat) (e : Bool) : { s.disableLock r e with locks := [] } = { s with locks := [] } := rfl

end State

/-! ### The registers of a block -/

/-- The registers stand one after another, from byte `b` on. -/
def DevReg.Ascending : Nat → List DevReg → Prop
  | _, [] => True
  | b, r :: l => b ≤ r.off ∧ Ascending (r.off + r.size) l

theorem DevReg.Ascending.le_off {r : DevReg} : ∀ {b : Nat} {l : List DevReg}, DevReg.Ascending b l → r ∈ l → b ≤ r.off
  | _, [], _, hm => absurd hm List.not_mem_nil
  | _, a :: l, ⟨hb, hl⟩, hm => by
    rcases List.mem_cons.mp hm with rfl | hm
    · exact hb
    · have := le_off hl hm
      omega

/-- `n` bytes from `off` on stand in register `r`. -/
def DevReg.holds (off n : Nat) (r : DevReg) : Bool := decide (r.off ≤ off) && decide (off + n ≤ r.off + r.size)

theorem DevReg.holds_iff {off n : Nat} {r : DevReg} : r.holds off n = true ↔ r.off ≤ off ∧ off + n ≤ r.off + r.size := by
  simp [holds]

/-- Where registers stand one after another, bytes that stand in one of them are found there. -/
theorem DevReg.find?_holds_of_mem {off n : Nat} (hn : 0 < n) {r : DevReg} (hr : r.holds off n = true) :
    ∀ {b : Nat} {l : List DevReg}, DevReg.Ascending b l → r ∈ l → l.find? (DevReg.holds off n) = some r
  | _, [], _, hm => absurd hm List.not_mem_nil
  | _, a :: l, ⟨_, hl⟩, hm => by
    rcases List.mem_cons.mp hm with rfl | hm
    · exact List.find?_cons_of_pos hr
    · have hlt : a.off + a.size ≤ r.off := hl.le_off hm
      have hro := (DevReg.holds_iff.mp hr).1
      have hna : ¬ a.holds off n = true := fun h => by
        have := (DevReg.holds_iff.mp h).2
        omega
      rw [List.find?_cons_of_neg hna]
      exact find?_holds_of_mem hn hr hl hm

namespace State

/-- The register that `n` bytes from `off` on stand in. -/
def regFor (s : State) (off n : Nat) : Option DevReg := (s.regsAt off).find? (DevReg.holds off n)

theorem regWrite_of_regFor {s : State} {off n : Nat} {r : DevReg} (h : s.regFor off n = some r) (v : Nat) :
    s.regWrite off n v = r.put (r.rest - bitsOf r.rest (8 * (off - r.off)) (8 * n) * 2 ^ (8 * (off - r.off)) +
      v % 2 ^ (8 * n) * 2 ^ (8 * (off - r.off))) := by
  have h' : ((s.regsAt off).find? fun r => decide (r.off ≤ off) && decide (off + n ≤ r.off + r.size)) = some r := h
  simp only [regWrite, h']

theorem regByte_of_regFor {s : State} {off : Nat} {r : DevReg} (h : s.regFor off 1 = some r) :
    s.regByte off = BitVec.ofNat 8 (r.val / 2 ^ (8 * (off - r.off))) := by
  have h' : ((s.regsAt off).find? fun r => decide (r.off ≤ off) && decide (off < r.off + r.size)) = some r := h
  simp only [regByte, h']

/-! ### Blocks -/

theorem regsAt_sluice (s : State) {q i : Nat} (hq : q < 64) (hi : i < 64) : s.regsAt (0x100000 + 64 * q + i) = s.sluiceRegs q := by
  rw [regsAt, if_pos (by omega)]
  congr 1
  omega

theorem regsAt_lock (s : State) {r : Nat} (hr : r < 8) : s.regsAt (0xF1000 + 16 * r) = s.lockRegs r := by
  rw [regsAt, if_neg (by omega), if_neg (by omega), if_pos (by omega)]
  congr 1
  omega

theorem regsAt_fault (s : State) {d i : Nat} (hd : d < 4) (hi : i < 0x100) : s.regsAt (0xF3000 + i + 0x100 * d) = s.dieRegs d := by
  rw [regsAt, if_neg (by omega), if_neg (by omega), if_neg (by omega), if_neg (by omega), if_pos (by omega)]
  congr 1
  omega

theorem regsAt_error (s : State) {d i : Nat} (hd : d < 4) (hi : i < 0x100) : s.regsAt (0xF4000 + i + 0x100 * d) = s.dieRegs d := by
  rw [regsAt, if_neg (by omega), if_neg (by omega), if_neg (by omega), if_neg (by omega), if_neg (by omega), if_pos (by omega)]
  congr 1
  omega

theorem sluiceRegs_ascending (s : State) (q : Nat) : DevReg.Ascending 0 (s.sluiceRegs q) := by
  simp only [sluiceRegs, DevReg.Ascending, rwReg, roReg, and_true]
  omega

theorem globalRegs_ascending (s : State) : DevReg.Ascending 0 s.globalRegs := by
  simp only [globalRegs, DevReg.Ascending, rwReg, w1cReg, and_true]
  omega

theorem lockRegs_ascending (s : State) (r : Nat) : DevReg.Ascending 0 (s.lockRegs r) := by
  simp only [lockRegs, DevReg.Ascending, rwReg, and_true]
  omega

theorem ctxRegs_ascending (s : State) : DevReg.Ascending 0 s.ctxRegs := by
  simp only [ctxRegs, DevReg.Ascending, rwReg, roReg, and_true]
  omega

theorem dieRegs_ascending (s : State) (d : Nat) : DevReg.Ascending 0 (s.dieRegs d) := by
  simp only [dieRegs, DevReg.Ascending, rwReg, roReg, w1cReg, and_true]
  omega

theorem powerRegs_ascending (s : State) : DevReg.Ascending 0 s.powerRegs := by
  simp only [powerRegs, DevReg.Ascending, roReg, and_true]
  omega

/-- In every block the registers stand one after another. -/
theorem regsAt_ascending (s : State) (off : Nat) : DevReg.Ascending 0 (s.regsAt off) := by
  unfold regsAt
  split
  · exact s.sluiceRegs_ascending _
  split
  · exact s.globalRegs_ascending
  split
  · exact s.lockRegs_ascending _
  split
  · exact s.ctxRegs_ascending
  split
  · exact s.dieRegs_ascending _
  split
  · exact s.dieRegs_ascending _
  split
  · exact s.powerRegs_ascending
  · trivial

/-- Bytes that stand in register `i` of their block are that register's. -/
theorem regFor_of_regsAt {s : State} {off n : Nat} {l : List DevReg} {r : DevReg} (hl : s.regsAt off = l) (i : Nat)
    (hi : l[i]? = some r) (hn : 0 < n) (hlo : r.off ≤ off) (hhi : off + n ≤ r.off + r.size) : s.regFor off n = some r :=
  DevReg.find?_holds_of_mem hn (DevReg.holds_iff.mpr ⟨hlo, hhi⟩) (s.regsAt_ascending off) (hl ▸ List.mem_of_getElem? hi)

/-- A write of all the bytes of register `i` of a block is the register's own effect, with the value's low bytes. -/
theorem regWrite_whole {s : State} {off n : Nat} {l : List DevReg} {r : DevReg} (hl : s.regsAt off = l) (i : Nat)
    (hi : l[i]? = some r) (hn : 0 < n) (ho : r.off = off) (hz : r.size = n) (v : Nat) :
    s.regWrite off n v = r.put (r.rest / 2 ^ (8 * n) * 2 ^ (8 * n) + v % 2 ^ (8 * n)) := by
  have h : s.regFor off n = some r := regFor_of_regsAt hl i hi hn (Nat.le_of_eq ho) (by omega)
  have hrest : r.rest - r.rest % 2 ^ (8 * n) = r.rest / 2 ^ (8 * n) * 2 ^ (8 * n) := by
    have := Nat.div_add_mod' r.rest (2 ^ (8 * n))
    omega
  simp [regWrite_of_regFor h, bitsOf, hrest, ho]

/-- Where what a write leaves of the register has the register's size, the value alone is put. -/
theorem regWrite_whole_of_lt {s : State} {off n : Nat} {l : List DevReg} {r : DevReg} (hl : s.regsAt off = l) (i : Nat)
    (hi : l[i]? = some r) (hn : 0 < n) (ho : r.off = off) (hz : r.size = n) (hr : r.rest < 2 ^ (8 * n)) (v : Nat) :
    s.regWrite off n v = r.put (v % 2 ^ (8 * n)) := by
  rw [regWrite_whole hl i hi hn ho hz, Nat.div_eq_of_lt hr, Nat.zero_mul, Nat.zero_add]

end State

/-! ### Writes -/

theorem exec_registerWrite {s : State} (hb : s.security.booted = true) (off n : Nat) (hn : [1, 2, 4, 8].contains n = true) (v : BitVec 64) :
    exec (.registerWrite off n v) s = .next (s.regWrite off n v.toNat) := by
  have hexec : exec (.registerWrite off n v) s = execRegisterWrite off n v s := rfl
  rw [hexec, execRegisterWrite, State.onlyIf, hb, hn]
  rfl

namespace State

theorem w32_mod (v : BitVec 64) : w32 (v.toNat % 2 ^ (8 * 4)) = v.truncate 32 := by
  apply BitVec.eq_of_toNat_eq
  simp [w32]

theorem regWrite_sluiceBase (s : State) {q : Nat} (hq : q < 64) (v : BitVec 64) :
    s.regWrite (0x100000 + 64 * q) 8 v.toNat = s.modSluice q fun x => { x with base := v } := by
  refine (regWrite_whole_of_lt (s.regsAt_sluice hq (i := 0) (by decide)) 0 rfl (Nat.succ_pos _) rfl rfl (s.sluice q).base.isLt _).trans ?_
  simp [rwReg, Nat.mod_eq_of_lt v.isLt]

theorem regWrite_sluiceSize (s : State) {q : Nat} (hq : q < 64) (v : BitVec 64) :
    s.regWrite (0x100000 + 64 * q + 8) 4 v.toNat = s.modSluice q fun x => { x with size := v.truncate 32 } := by
  refine (regWrite_whole_of_lt (s.regsAt_sluice hq (by decide)) 1 rfl (Nat.succ_pos _) rfl rfl (s.sluice q).size.isLt _).trans ?_
  simp only [rwReg, w32_mod]

theorem regWrite_ctxBase (s : State) (v : BitVec 64) :
    s.regWrite 0xF2000 8 v.toNat = { s with ctxBase := v, ctxs := ({ s with ctxBase := v } : State).renewCtxs s } := by
  refine (regWrite_whole_of_lt (l := s.ctxRegs) rfl 0 rfl (Nat.succ_pos _) rfl rfl s.ctxBase.isLt _).trans ?_
  simp [rwReg, Nat.mod_eq_of_lt v.isLt]

/-- IVA is held while an invalidation runs (Table 16-4). -/
theorem regWrite_iva (s : State) (v : BitVec 64) :
    s.regWrite 0xF2400 8 v.toNat = if s.ibusy then s else { s with iva := BitVec.ofNat 64 (v.toNat % 2 ^ 57) } := by
  refine (regWrite_whole_of_lt (l := s.ctxRegs) rfl 2 rfl (Nat.succ_pos _) rfl rfl s.iva.isLt _).trans ?_
  simp [rwReg, Nat.mod_eq_of_lt v.isLt]

/-- FBBASE is held while the buffer holds a record (Table 16-6). -/
theorem regWrite_fbBase (s : State) {d : Nat} (hd : d < 4) (v : BitVec 64) :
    s.regWrite (0xF3000 + 0x100 * d) 8 v.toNat =
      if (s.die d).fbHead = (s.die d).fbGet then s.modDie d fun x => { x with fbBase := v } else s := by
  refine (regWrite_whole_of_lt (s.regsAt_fault hd (i := 0) (by decide)) 0 rfl (Nat.succ_pos _) rfl rfl (s.die d).fbBase.isLt _).trans ?_
  simp [rwReg, Nat.mod_eq_of_lt v.isLt]

/-- NQDROP loses the bits written as 1 (Table 16-7). -/
theorem regWrite_nqDrop (s : State) {d : Nat} (hd : d < 4) (v : BitVec 64) :
    s.regWrite (0xF3054 + 0x100 * d) 4 v.toNat = s.modDie d fun x => { x with nqDrop := x.nqDrop &&& ~~~(v.truncate 32) } := by
  refine (regWrite_whole_of_lt (s.regsAt_fault hd (i := 0x54) (by decide)) 9 rfl (Nat.succ_pos _) (Nat.add_right_comm ..) rfl
    (Nat.two_pow_pos _) _).trans ?_
  simp only [w1cReg, w32_mod]

/-- SCRUB takes a period of 1 to 4; any other value is written as 4 (Table 20-2). -/
theorem regWrite_scrub (s : State) {d : Nat} (hd : d < 4) (v : BitVec 64) :
    s.regWrite (0xF4018 + 0x100 * d) 4 v.toNat =
      s.modDie d fun x => { x with scrub := if 1 ≤ v.toNat % 256 ∧ v.toNat % 256 ≤ 4 then v.toNat % 256 else 4 } := by
  refine (regWrite_whole (s.regsAt_error hd (i := 0x18) (by decide)) 16 rfl (Nat.succ_pos _) (Nat.add_right_comm ..) rfl _).trans ?_
  have hlow (n : Nat) : (n * 2 ^ (8 * 4) + v.toNat % 2 ^ (8 * 4)) % 256 = v.toNat % 256 := by omega
  simp only [rwReg, hlow]

/-- A write of an enabled Lock's LOCKBASE takes RECORD and ERROR, and disables the Lock where it clears the enable bit (Table 15-6). -/
theorem regWrite_lockBase (s : State) {r : Nat} (hr : r < 8) (he : (s.lock r).enable = true) (v : BitVec 64) :
    s.regWrite (0xF1000 + 16 * r) 8 v.toNat =
      (if v.getLsbD 0 then s else s.disableLock r false).modLock r (Lock.written v) := by
  have hlt : (s.lock r).record.toNat / 64 * 64 + flagBit (s.lock r).enable 0 < 2 ^ (8 * 8) := by
    have := (s.lock r).record.isLt
    simp only [he, flagBit, if_true]
    omega
  have hbit : bitOf v.toNat 0 = v.getLsbD 0 := by
    simp only [bitOf, BitVec.getLsbD, Nat.testBit_zero, Nat.pow_zero, Nat.div_one]
    rfl
  refine (regWrite_whole_of_lt (s.regsAt_lock hr) 0 rfl (Nat.succ_pos _) rfl rfl hlt _).trans ?_
  simp only [Nat.mod_eq_of_lt v.isLt, hbit, he, BitVec.ofNat_toNat, BitVec.setWidth_eq]
  cases v.getLsbD 0 <;> rfl

end State

/-! ### Reads -/

theorem leBytes_eq_map (n v : Nat) : leBytes n v = (List.range n).map fun i => BitVec.ofNat 8 (v / 2 ^ (8 * i)) := by
  induction n generalizing v with
  | zero => rfl
  | succ n ih =>
    rw [leBytes, ih, List.range_succ_eq_map, List.map_cons, List.map_map]
    congr 1
    · simp
    · refine List.map_congr_left fun i _ => ?_
      rw [Nat.div_div_eq_div_mul, Function.comp, Nat.succ_eq_add_one, Nat.mul_succ, Nat.pow_add, Nat.mul_comm 256]

namespace State

theorem regByte_sluiceBase (s : State) {q i : Nat} (hq : q < 64) (hi : i < 8) :
    s.regByte (0x100000 + 64 * q + i) = BitVec.ofNat 8 ((s.sluice q).base.toNat / 2 ^ (8 * i)) := by
  have h := regFor_of_regsAt (n := 1) (s.regsAt_sluice hq (i := i) (by omega)) 0 rfl (Nat.succ_pos _)
    (Nat.le_add_right ..) (Nat.add_le_add_left (Nat.succ_le_of_lt hi) _)
  rw [regByte_of_regFor h]
  simp [rwReg]

theorem map_regByte_sluiceBase (s : State) {q : Nat} (hq : q < 64) :
    ((List.range 8).map fun i => s.regByte (0x100000 + 64 * q + i)) = leBytes 8 (s.sluice q).base.toNat := by
  rw [leBytes_eq_map]
  exact List.map_congr_left fun i hi => s.regByte_sluiceBase hq (List.mem_range.mp hi)

/-- No register stands behind those of POWERCAP, POWERNOW and THRCYC. -/
theorem regByte_beyond (s : State) : s.regByte 0xF5010 = 0 := rfl

end State

/-- A host read of the BAR is answered with code 0 (log 63) and the bytes of its registers. -/
theorem exec_hostAccess_read {s : State} (hb : s.security.booted = true) (a : Nat) (data : List Byte) :
    exec (.hostAccess 2 a false data) s = .next (s.answer hostNode 0 ((List.range data.length).map fun i => s.regByte (a + i))) := by
  have hexec : exec (.hostAccess 2 a false data) s = execHostAccess 2 a false data s := rfl
  rw [hexec, execHostAccess, State.onlyIf, hb]
  rfl

/-! ### The statement -/

theorem lock_disableLock_written (s : State) (r : Nat) (v : BitVec 64) :
    ((s.disableLock r false).modLock r (Lock.written v)).lock r =
      { s.lock r with enable := false, state := .disabled, park := none, journal := [], waiting := false,
                      record := v &&& ~~~63#64, error := (s.lock r).error && !v.getLsbD 1 } := by
  simp [State.disableLock, Lock.written]

/-- Settles O49: each clause is a write of a whole register, or a read of the bytes of one. -/
theorem registersTakeWrites : Obligations.RegistersTakeWrites := by
  unfold Obligations.RegistersTakeWrites
  intro s v hb
  have hw (off n : Nat) (hn : [1, 2, 4, 8].contains n = true) := exec_registerWrite hb off n hn v
  refine ⟨fun q hq => ?_, fun q hq => ?_, ?_, fun hi => ?_, fun hi => ?_, fun d hd => ?_, fun d hd => ?_, fun d hd => ?_,
    fun r hr he hv => ?_, fun r hr he hv => ?_, fun q hq => ?_, ?_⟩
  · exact ⟨_, hw _ _ rfl, s.regWrite_sluiceBase hq v ▸ s.sluiceOnly_modSluice q _⟩
  · exact ⟨_, hw _ _ rfl, s.regWrite_sluiceSize hq v ▸ s.sluiceOnly_modSluice q _⟩
  · rw [hw _ _ rfl, s.regWrite_ctxBase]
  · rw [hw _ _ rfl, s.regWrite_iva, hi]; rfl
  · rw [hw _ _ rfl, s.regWrite_iva, hi]; rfl
  · refine ⟨_, hw _ _ rfl, ?_⟩
    rw [s.regWrite_fbBase hd]
    split <;> simp
  · exact ⟨_, hw _ _ rfl, by rw [s.regWrite_nqDrop hd, State.die_modDie_self]⟩
  · exact ⟨_, hw _ _ rfl, by rw [s.regWrite_scrub hd, State.die_modDie_self]⟩
  · refine ⟨_, hw _ _ rfl, ?_⟩
    rw [s.regWrite_lockBase hr he, hv]
    exact ⟨State.lock_modLock_self s r _, s.modLock_locks_only r _⟩
  · refine ⟨_, hw _ _ rfl, ?_⟩
    rw [s.regWrite_lockBase hr he, hv]
    have hl := lock_disableLock_written s r v
    exact ⟨congrArg Lock.enable hl, congrArg Lock.state hl, congrArg Lock.record hl, congrArg Lock.error hl,
      s.disableLock_locks_only r false⟩
  · rw [exec_hostAccess_read hb, List.length_replicate, s.map_regByte_sluiceBase hq]
    rfl
  · have hbyte : ((List.range 1).map fun i => s.regByte (0xF5010 + i)) = [0] := congrArg (fun b => [b]) s.regByte_beyond
    rw [exec_hostAccess_read hb, List.length_singleton, hbyte]
    rfl

end Sys2Proof.Machine
end
